-- ==== Sys2Proof/Word.lean ====
section
/-!
DEFINITION. The words of the Yilquin Gysel G480: 8-bit bytes, 32-bit instruction words and lanes
(R34, R86), 64-bit scalar registers and host registers (R86, R377).
-/
namespace Sys2Proof

/-- One byte of memory. -/
abbrev Byte := BitVec 8

/-- One instruction word, one lane of a v-register, one predicate mask. -/
abbrev Word := BitVec 32

/-- One s-register, one locator, one host register. -/
abbrev DWord := BitVec 64

/-- The 32 lanes of one v-register, lane 0 first (R103). -/
abbrev Lanes := List Word

end Sys2Proof
end

