-- ==== Sys2Proof/Syntax.lean ====
section
/-!
DEFINITION. The instructions and events of the opcode table, and the typed fields their operands
are made of (R38 to R48, R107 to R146, R178 to R192, R212 to R220, R240, R340).
-/
namespace Sys2Proof

/-- The `b` operand of a format-R word: a register number, or the literal word that stands for
register field 63 where the opcode map admits one (R38, R40). -/
inductive BSrc where
  | reg (r : BitVec 6)
  | lit (w : BitVec 32)
  deriving DecidableEq, Repr

/-- Result modes of the modifier word, codes 0 to 3 (R41). -/
inductive RMode where
  | none | sat | c01 | c11
  deriving DecidableEq, Repr

/-- Rounding modes, codes 0 to 3 (R21). -/
inductive Rnd where
  | rne | rtz | rdn | rup
  deriving DecidableEq, Repr

/-- The modifier word (R41). -/
structure ModWord where
  rm  : RMode
  na  : Bool
  aa  : Bool
  nb  : Bool
  ab  : Bool
  nc  : Bool
  ac  : Bool
  k   : BitVec 5
  rnd : Rnd
  deriving DecidableEq, Repr

/-- The operands of a format R or R+C word (R38, R39); a field the opcode does not use is 0. -/
structure ROps where
  d  : BitVec 6
  a  : BitVec 6
  b  : BSrc
  c  : BitVec 6
  la : Bool
  lb : Bool
  lc : Bool
  g  : BitVec 3
  md : Option ModWord
  deriving DecidableEq, Repr

/-- Access sizes, codes 0 to 4 (R43). -/
inductive MemSize where
  | b8 | b16 | b32 | b64 | b128
  deriving DecidableEq, Repr

/-- Scopes, codes 0 to 5 (R43). -/
inductive Scope where
  | grp | blk | clu | die | dev | sys
  deriving DecidableEq, Repr

/-- Orders, codes 0 to 3 (R43). -/
inductive MemOrd where
  | rlx | acq | rel | acqrel
  deriving DecidableEq, Repr

/-- Allocation hints, codes 0 to 3 (R43). -/
inductive MemHint where
  | policy | stream | retain | noL1
  deriving DecidableEq, Repr

/-- The operands of a format M word pair (R43). -/
structure MOps where
  d     : BitVec 6
  a     : BitVec 6
  h     : BitVec 8
  g     : BitVec 3
  disp  : BitVec 16
  size  : MemSize
  scope : Scope
  ord   : MemOrd
  hint  : MemHint
  ld    : Bool
  la    : Bool
  x     : BitVec 4
  deriving DecidableEq, Repr

/-- The operands of a format B word (R44). -/
structure BOps where
  g   : BitVec 3
  n   : Bool
  off : BitVec 20
  deriving DecidableEq, Repr

/-- The operands of a format A word pair (R45). -/
structure AOps where
  vi  : BitVec 6
  sa  : BitVec 6
  ha  : BitVec 8
  g   : BitVec 3
  acc : BitVec 6
  bt  : BitVec 7
  km1 : BitVec 3
  ctr : Bool
  z   : Bool
  lv  : Bool
  ls  : Bool
  deriving DecidableEq, Repr

/-- Conditions, codes 0 to 5 (R107, R122, R129). -/
inductive Cond where
  | eq | ne | lt | ge | gt | le
  deriving DecidableEq, Repr

/-- Floating-point conditions, codes 0 to 7 (R135). -/
inductive FCond where
  | eq | ne | lt | ge | gt | le | ord | uno
  deriving DecidableEq, Repr

/-- VCVTI conversions, codes 0 to 15 (R132). -/
inductive IConv where
  | i32i8 | u32u8 | i32i16 | u32u16 | i8i32 | u8i32 | i16i32 | u16i32
  | u8u32 | u16u32 | u32i32 | i32u32 | i64i32 | u64u32 | i32i64 | u32u64
  deriving DecidableEq, Repr

/-- FCVT conversions, codes 0 to 11 (R138). -/
inductive FConv where
  | f16f32 | bf16f32 | f32f16 | f32bf16 | i32f32 | u32f32 | f32i32 | f32u32
  | i64f32 | u64f32 | f32i64 | f32u64
  deriving DecidableEq, Repr

/-- HCVT2 conversions, codes 0 to 3 (R140). -/
inductive HConv where
  | bf2f32 | f32bf2 | h2bf2 | bf2h2
  deriving DecidableEq, Repr

/-- Reduction operations, codes 0 to 10 (R143). -/
inductive RedOp where
  | iadd | imin | imax | umin | umax | and | or | xor | fadd | fmin | fmax
  deriving DecidableEq, Repr

/-- XVOTE modes, codes 0 to 3 (R144). -/
inductive Vote where
  | ballot | any | all | uni
  deriving DecidableEq, Repr

/-- Claimable resource types, codes 0 to 3 (R212). -/
inductive RType where
  | reg | tile | scr | eng
  deriving DecidableEq, Repr

/-- RSTAT items, codes 0 to 3 (R216). -/
inductive RItem where
  | held | claim | avail | grp
  deriving DecidableEq, Repr

/-- Carter operations, codes 0 to 2 (R220). -/
inductive CopyOp where
  | mov | fadd | hadd
  deriving DecidableEq, Repr

/-- SIGOP operations, codes 0 to 3 (R340). -/
inductive SigOp where
  | add | set | max | min
  deriving DecidableEq, Repr

/-- SIGWAIT conditions, codes 0 to 3 (R340). -/
inductive SigCond where
  | le | ge | eq | ne
  deriving DecidableEq, Repr

/-- BIST classes, codes 0 to 3 (R364). -/
inductive BistClass where
  | vrf | l1 | tile | scr
  deriving DecidableEq, Repr

/-- A path of a group: the group's serial number in the model, and its PC slot (R86). -/
structure PathRef where
  grp  : Nat
  slot : Bool
  deriving DecidableEq, Repr

/-- A barrier slot by the object that holds it: a block by its serial number, a cluster level, a
die level or all die levels of a grid (R193, R231, R261, R262). -/
inductive BarRef where
  | blk (b : Nat) (slot : BitVec 4)
  | clu (grid : Nat) (dl : BitVec 2) (cl : BitVec 4) (slot : BitVec 4)
  | die (grid : Nat) (dl : BitVec 2) (slot : BitVec 6)
  | gang (grid : Nat) (dl : BitVec 2) (slot : BitVec 6)
  deriving DecidableEq, Repr

/-- A fabric flit: the header word, 56 payload bytes and the CRC word (R386). -/
structure Flit where
  hdr     : BitVec 32
  payload : List (BitVec 8)
  crc     : BitVec 32
  deriving DecidableEq, Repr

/-- The header and data of a fabric transaction, whose kind is the event that carries it (R388), and the port by
which it arrives (R306). -/
structure Txn where
  svd  : BitVec 8
  src  : BitVec 12
  dst  : BitVec 12
  win  : BitVec 8
  why  : BitVec 8
  tag  : BitVec 32
  len  : BitVec 32
  off  : BitVec 64
  data : List (BitVec 8)
  port : BitVec 4 := 0
  deriving DecidableEq, Repr

/-- One constructor per row of the opcode table: the instruction words of R49 to R56, and the
device's own steps ("events"), each whole and indivisible, with what it acts on as arguments. -/
inductive Instr where
  /-- BRA: Unconditional branch: moves the whole path to PC + 4 × off. (R108) -/
  | bra (o : BOps)
  /-- BRX: Indirect jump to the address held in s_A. (R111) -/
  | brx (o : ROps)
  /-- BRS: Uniform branch taken when a signed condition on s_A holds, to a literal word offset. (R108) -/
  | brs (cc : Cond) (o : ROps)
  /-- BALL: Uniform branch taken when the (optionally inverted) predicate holds in every lane of the path. (R108) -/
  | ball (o : BOps)
  /-- BANY: Uniform branch taken when the (optionally inverted) predicate holds in any lane of the path. (R108) -/
  | bany (o : BOps)
  /-- BRV: Splits the path by a lane predicate into taken and fall halves at retirement. (R109) -/
  | brv (o : BOps)
  /-- JOIN: Reconvergence point: a path waits, merges with paths waiting at the same address, and leaves when allowed. (R110) -/
  | join (o : ROps)
  /-- CALL: Writes the return header address to s62 and transfers to the target. (R112) -/
  | call (o : BOps)
  /-- RET: Return: transfers to the address in s_A, recorded as a return. (R111) -/
  | ret (o : ROps)
  /-- EXIT: Removes the effective lanes from the path; ends the path or group when no lanes remain. (R113) -/
  | exit (o : ROps)
  /-- NOP: Does nothing. (R114) -/
  | nop (o : ROps)
  /-- SLEEP: Suspends the path for n timebase ticks. (R115) -/
  | sleep (o : ROps)
  /-- SLEEP_WAKE: A sleeping path's SLEEP retires once its timebase interval has passed. (R115) -/
  | sleepWake (p : PathRef)
  /-- YIELD: Lets a stacked or other ready path go ahead of the yielding path. (R116) -/
  | yield (o : ROps)
  /-- SADD: Scalar 64-bit add, wrapping or saturating. (R119) -/
  | sadd (o : ROps)
  /-- SSUB: Scalar 64-bit subtract. (R119) -/
  | ssub (o : ROps)
  /-- SMUL: Scalar 64-bit multiply, low half or saturated. (R119) -/
  | smul (o : ROps)
  /-- SMULH: High 64 bits of the signed 128-bit product. (R119) -/
  | smulh (o : ROps)
  /-- SMULH_U: High 64 bits of the unsigned 128-bit product. (R119) -/
  | smulhU (o : ROps)
  /-- SDIV: Signed scalar division truncating toward zero; divide by zero gives 0 and DZ. (R120) -/
  | sdiv (o : ROps)
  /-- SDIV_U: Unsigned scalar division. (R120) -/
  | sdivU (o : ROps)
  /-- SREM: Signed scalar remainder. (R120) -/
  | srem (o : ROps)
  /-- SREM_U: Unsigned scalar remainder. (R120) -/
  | sremU (o : ROps)
  /-- SAND: Scalar bitwise AND. (R121) -/
  | sand (o : ROps)
  /-- SOR: Scalar bitwise OR. (R121) -/
  | sor (o : ROps)
  /-- SXOR: Scalar bitwise XOR. (R121) -/
  | sxor (o : ROps)
  /-- SSHL: Scalar shift left by the full 64-bit count. (R121) -/
  | sshl (o : ROps)
  /-- SSHR: Scalar logical shift right. (R121) -/
  | sshr (o : ROps)
  /-- SSRA: Scalar arithmetic shift right. (R121) -/
  | ssra (o : ROps)
  /-- SMIN: Scalar signed minimum. (R119) -/
  | smin (o : ROps)
  /-- SMIN_U: Scalar unsigned minimum. (R119) -/
  | sminU (o : ROps)
  /-- SMAX: Scalar signed maximum. (R119) -/
  | smax (o : ROps)
  /-- SMAX_U: Scalar unsigned maximum. (R119) -/
  | smaxU (o : ROps)
  /-- SCMP: Compares s_A with b and writes the outcome to the effective lanes of a predicate. (R122) -/
  | scmp (cc : Cond) (u : Bool) (o : ROps)
  /-- SSEL: Selects s_A or b by a condition on a third scalar. (R123) -/
  | ssel (cc : Cond) (o : ROps)
  /-- SMOV: Scalar register move. (R124) -/
  | smov (o : ROps)
  /-- SLIT: Loads a sign-extended 32-bit literal into a scalar register. (R124) -/
  | slit (o : ROps)
  /-- SHI: Forms a scalar from a literal upper half and the low half of s_A. (R124) -/
  | shi (o : ROps)
  /-- SCLZ: Counts leading zero bits of s_A. (R124) -/
  | sclz (o : ROps)
  /-- SPOPC: Counts one bits of s_A. (R124) -/
  | spopc (o : ROps)
  /-- VADD_VV: Per-lane 32-bit integer add, register form. (R126) -/
  | vaddVv (o : ROps)
  /-- VADD_VS: Per-lane 32-bit integer add with a scalar or literal operand. (R126) -/
  | vaddVs (o : ROps)
  /-- VSUB_VV: Per-lane integer subtract, register form. (R126) -/
  | vsubVv (o : ROps)
  /-- VSUB_VS: Per-lane integer subtract, scalar form. (R126) -/
  | vsubVs (o : ROps)
  /-- VMUL_VV: Per-lane integer multiply, register form. (R126) -/
  | vmulVv (o : ROps)
  /-- VMUL_VS: Per-lane integer multiply, scalar form. (R126) -/
  | vmulVs (o : ROps)
  /-- VMULH_VV: Per-lane signed high multiply, register form. (R126) -/
  | vmulhVv (o : ROps)
  /-- VMULH_VS: Per-lane signed high multiply, scalar form. (R126) -/
  | vmulhVs (o : ROps)
  /-- VMULH_U_VV: Per-lane unsigned high multiply, register form. (R126) -/
  | vmulhUVv (o : ROps)
  /-- VMULH_U_VS: Per-lane unsigned high multiply, scalar form. (R126) -/
  | vmulhUVs (o : ROps)
  /-- VMAD_VV: Per-lane integer multiply-add, register form. (R127) -/
  | vmadVv (o : ROps)
  /-- VMAD_VS: Per-lane integer multiply-add, scalar form. (R127) -/
  | vmadVs (o : ROps)
  /-- VAND_VV: Per-lane bitwise AND, register form. (R128) -/
  | vandVv (o : ROps)
  /-- VAND_VS: Per-lane bitwise AND, scalar form. (R128) -/
  | vandVs (o : ROps)
  /-- VOR_VV: Per-lane bitwise OR, register form. (R128) -/
  | vorVv (o : ROps)
  /-- VOR_VS: Per-lane bitwise OR, scalar form. (R128) -/
  | vorVs (o : ROps)
  /-- VXOR_VV: Per-lane bitwise XOR, register form. (R128) -/
  | vxorVv (o : ROps)
  /-- VXOR_VS: Per-lane bitwise XOR, scalar form. (R128) -/
  | vxorVs (o : ROps)
  /-- VSHL_VV: Per-lane shift left, register form. (R128) -/
  | vshlVv (o : ROps)
  /-- VSHL_VS: Per-lane shift left, scalar form. (R128) -/
  | vshlVs (o : ROps)
  /-- VSHR_VV: Per-lane logical shift right, register form. (R128) -/
  | vshrVv (o : ROps)
  /-- VSHR_VS: Per-lane logical shift right, scalar form. (R128) -/
  | vshrVs (o : ROps)
  /-- VSRA_VV: Per-lane arithmetic shift right, register form. (R128) -/
  | vsraVv (o : ROps)
  /-- VSRA_VS: Per-lane arithmetic shift right, scalar form. (R128) -/
  | vsraVs (o : ROps)
  /-- VMIN_VV: Per-lane signed minimum, register form. (R126) -/
  | vminVv (o : ROps)
  /-- VMIN_VS: Per-lane signed minimum, scalar form. (R126) -/
  | vminVs (o : ROps)
  /-- VMIN_U_VV: Per-lane unsigned minimum, register form. (R126) -/
  | vminUVv (o : ROps)
  /-- VMIN_U_VS: Per-lane unsigned minimum, scalar form. (R126) -/
  | vminUVs (o : ROps)
  /-- VMAX_VV: Per-lane signed maximum, register form. (R126) -/
  | vmaxVv (o : ROps)
  /-- VMAX_VS: Per-lane signed maximum, scalar form. (R126) -/
  | vmaxVs (o : ROps)
  /-- VMAX_U_VV: Per-lane unsigned maximum, register form. (R126) -/
  | vmaxUVv (o : ROps)
  /-- VMAX_U_VS: Per-lane unsigned maximum, scalar form. (R126) -/
  | vmaxUVs (o : ROps)
  /-- VABSD_VV: Per-lane signed absolute difference, register form. (R126) -/
  | vabsdVv (o : ROps)
  /-- VABSD_VS: Per-lane signed absolute difference, scalar form. (R126) -/
  | vabsdVs (o : ROps)
  /-- VABSD_U_VV: Per-lane unsigned absolute difference, register form. (R126) -/
  | vabsdUVv (o : ROps)
  /-- VABSD_U_VS: Per-lane unsigned absolute difference, scalar form. (R126) -/
  | vabsdUVs (o : ROps)
  /-- VCMP_VV: Per-lane integer comparison into a predicate, register form. (R129) -/
  | vcmpVv (cc : Cond) (u : Bool) (o : ROps)
  /-- VCMP_VS: Per-lane integer comparison into a predicate, scalar form. (R129) -/
  | vcmpVs (cc : Cond) (u : Bool) (o : ROps)
  /-- VSEL_VV: Per-lane select by a predicate, register form. (R130) -/
  | vselVv (o : ROps)
  /-- VSEL_VS: Per-lane select by a predicate, scalar form. (R130) -/
  | vselVs (o : ROps)
  /-- VNOT: Per-lane bitwise NOT. (R128) -/
  | vnot (o : ROps)
  /-- VCLZ: Per-lane leading-zero count. (R128) -/
  | vclz (o : ROps)
  /-- VPOPC: Per-lane population count. (R128) -/
  | vpopc (o : ROps)
  /-- VMOV: Per-lane register move. (R131) -/
  | vmov (o : ROps)
  /-- VBCAST: Broadcasts a scalar or literal to every effective lane. (R131) -/
  | vbcast (o : ROps)
  /-- VLID: Writes each lane's index. (R131) -/
  | vlid (o : ROps)
  /-- VCVTI: Per-lane integer width conversion with saturation. (R132) -/
  | vcvti (cv : IConv) (o : ROps)
  /-- FADD_VV: Per-lane FP32 add, register form. (R133) -/
  | faddVv (o : ROps)
  /-- FADD_VS: Per-lane FP32 add, scalar form. (R133) -/
  | faddVs (o : ROps)
  /-- FSUB_VV: Per-lane FP32 subtract, register form. (R133) -/
  | fsubVv (o : ROps)
  /-- FSUB_VS: Per-lane FP32 subtract, scalar form. (R133) -/
  | fsubVs (o : ROps)
  /-- FMUL_VV: Per-lane FP32 multiply, register form. (R133) -/
  | fmulVv (o : ROps)
  /-- FMUL_VS: Per-lane FP32 multiply, scalar form. (R133) -/
  | fmulVs (o : ROps)
  /-- FFMA_VV: Per-lane FP32 fused multiply-add, register form. (R133) -/
  | ffmaVv (o : ROps)
  /-- FFMA_VS: Per-lane FP32 fused multiply-add, scalar form. (R133) -/
  | ffmaVs (o : ROps)
  /-- FMIN_VV: Per-lane FP32 minimum, register form. (R134) -/
  | fminVv (o : ROps)
  /-- FMIN_VS: Per-lane FP32 minimum, scalar form. (R134) -/
  | fminVs (o : ROps)
  /-- FMAX_VV: Per-lane FP32 maximum, register form. (R134) -/
  | fmaxVv (o : ROps)
  /-- FMAX_VS: Per-lane FP32 maximum, scalar form. (R134) -/
  | fmaxVs (o : ROps)
  /-- FCMP_VV: Per-lane FP32 comparison into a predicate, register form. (R135) -/
  | fcmpVv (cc : FCond) (o : ROps)
  /-- FCMP_VS: Per-lane FP32 comparison into a predicate, scalar form. (R135) -/
  | fcmpVs (cc : FCond) (o : ROps)
  /-- FDIV_VV: Per-lane FP32 divide, register form. (R133) -/
  | fdivVv (o : ROps)
  /-- FDIV_VS: Per-lane FP32 divide, scalar form. (R133) -/
  | fdivVs (o : ROps)
  /-- FRCP: Correctly rounded reciprocal. (R136) -/
  | frcp (o : ROps)
  /-- FRSQ: Correctly rounded reciprocal square root. (R136) -/
  | frsq (o : ROps)
  /-- FSQRT: Correctly rounded square root. (R136) -/
  | fsqrt (o : ROps)
  /-- FEXP2: Correctly rounded base-2 exponential. (R136) -/
  | fexp2 (o : ROps)
  /-- FLOG2: Correctly rounded base-2 logarithm. (R136) -/
  | flog2 (o : ROps)
  /-- FRND: Rounds each lane to an integral FP32 value. (R137) -/
  | frnd (o : ROps)
  /-- FCVT: Converts between FP32 and FP16, BF16 or integers. (R138) -/
  | fcvt (cv : FConv) (o : ROps)
  /-- HADD2_VV: Packed BF16 pair add, register form. (R139) -/
  | hadd2Vv (o : ROps)
  /-- HADD2_VS: Packed BF16 pair add, scalar form. (R139) -/
  | hadd2Vs (o : ROps)
  /-- HMUL2_VV: Packed BF16 pair multiply, register form. (R139) -/
  | hmul2Vv (o : ROps)
  /-- HMUL2_VS: Packed BF16 pair multiply, scalar form. (R139) -/
  | hmul2Vs (o : ROps)
  /-- HFMA2_VV: Packed BF16 pair fused multiply-add, register form. (R139) -/
  | hfma2Vv (o : ROps)
  /-- HFMA2_VS: Packed BF16 pair fused multiply-add, scalar form. (R139) -/
  | hfma2Vs (o : ROps)
  /-- HMIN2_VV: Packed BF16 pair minimum, register form. (R139) -/
  | hmin2Vv (o : ROps)
  /-- HMIN2_VS: Packed BF16 pair minimum, scalar form. (R139) -/
  | hmin2Vs (o : ROps)
  /-- HMAX2_VV: Packed BF16 pair maximum, register form. (R139) -/
  | hmax2Vv (o : ROps)
  /-- HMAX2_VS: Packed BF16 pair maximum, scalar form. (R139) -/
  | hmax2Vs (o : ROps)
  /-- HCVT2: Converts whole BF16, FP16 or FP32 pairs. (R140) -/
  | hcvt2 (cv : HConv) (o : ROps)
  /-- XSHF: Per-lane shuffle from lanes named by a v-register. (R142) -/
  | xshf (o : ROps)
  /-- XBRD: Broadcasts one visible lane of v_A to every effective lane. (R142) -/
  | xbrd (o : ROps)
  /-- XXOR: Butterfly exchange by lane XOR. (R142) -/
  | xxor (o : ROps)
  /-- XUP: Shifts lane values up by n lanes. (R142) -/
  | xup (o : ROps)
  /-- XDN: Shifts lane values down by n lanes. (R142) -/
  | xdn (o : ROps)
  /-- XRED: Reduces over the effective lanes in a fixed tree. (R143) -/
  | xred (op : RedOp) (o : ROps)
  /-- XSCAN: Inclusive or exclusive prefix scan in ascending lane order. (R143) -/
  | xscan (op : RedOp) (ex : Bool) (o : ROps)
  /-- XVOTE: Writes a ballot or vote over a predicate to a scalar. (R144) -/
  | xvote (vt : Vote) (o : ROps)
  /-- PAND: Per-lane predicate AND. (R145) -/
  | pand (o : ROps)
  /-- POR: Per-lane predicate OR. (R145) -/
  | por (o : ROps)
  /-- PXOR: Per-lane predicate XOR. (R145) -/
  | pxor (o : ROps)
  /-- PNOT: Per-lane predicate NOT. (R145) -/
  | pnot (o : ROps)
  /-- PFROM: Sets predicate lanes where a v-register is non-zero. (R145) -/
  | pfrom (o : ROps)
  /-- PTO: Writes 1 or 0 per lane from a predicate. (R145) -/
  | pto (o : ROps)
  /-- PCNT: Writes the count of predicate lanes set in the effective set to a scalar. (R146) -/
  | pcnt (o : ROps)
  /-- LD: Per-lane load through a handle, written at retirement. (R179) -/
  | ld (o : MOps)
  /-- ST: Per-lane store, entering the store buffer at retirement. (R180) -/
  | st (o : MOps)
  /-- LDS: Group-level scalar load. (R179) -/
  | lds (o : MOps)
  /-- STS: Group-level scalar store. (R180) -/
  | sts (o : MOps)
  /-- LDU: One uniform load whose value is written to every effective lane. (R179) -/
  | ldu (o : MOps)
  /-- LDM: All-or-nothing load of a range of whole v-registers. (R181) -/
  | ldm (o : MOps)
  /-- STM: All-or-nothing store of a range of whole v-registers. (R181) -/
  | stm (o : MOps)
  /-- PRF: Prefetches lines toward L2, RDC and L1 without faulting. (R183) -/
  | prf (o : MOps)
  /-- HQRY: Returns a field of a window slot's handle copy. (R184) -/
  | hqry (o : MOps)
  /-- AOP: Per-lane atomic operation at the home, returning old values. (R186) -/
  | aop (o : MOps)
  /-- ACAS: Per-lane atomic compare-and-swap. (R186) -/
  | acas (o : MOps)
  /-- SAOP: Group-level scalar atomic operation. (R186) -/
  | saop (o : MOps)
  /-- SACAS: Group-level scalar compare-and-swap. (R186) -/
  | sacas (o : MOps)
  /-- AHIST: Increments per-lane counters, one atomic per 1,024-byte block. (R187) -/
  | ahist (o : MOps)
  /-- CSNAP: Atomically copies and clears 16 to 256 counter words. (R188) -/
  | csnap (o : MOps)
  /-- FENCE: Performs release waits and/or acquire invalidations at a scope. (R191) -/
  | fence (o : MOps)
  /-- SYNCA: Acquire for the regions bound to a synchronisation object. (R191) -/
  | synca (o : MOps)
  /-- SYNCR: Makes the group's next write to an object a release at a scope. (R191) -/
  | syncr (o : MOps)
  /-- SACK: Waits until the store buffer drains and the scope's counter is zero. (R191) -/
  | sack (o : MOps)
  /-- BARA: Arrives at a block, cluster, die or gang barrier slot with a release. (R193) -/
  | bara (o : MOps)
  /-- BARW: Waits for a barrier phase to complete, then acquires. (R193) -/
  | barw (o : MOps)
  /-- BARRIER_PHASE_COMPLETE: A barrier phase completes when all arriving parties have arrived, releasing waiters. (R193) -/
  | barrierPhaseComplete (br : BarRef)
  /-- GANG_ROUND_MESSAGE: A gang round message arrives from another die level and may complete the phase. (R262) -/
  | gangRoundMessage (grid : Nat) (dst : BitVec 2) (frm : BitVec 2) (slot : BitVec 6)
  /-- DCF: Writes back a source view range and invalidates a target view range on every die. (R278) -/
  | dcf (o : MOps)
  /-- CLAIM: Sets the block's claim of a resource type, testing a raise at the Reeve. (R213) -/
  | claim (ty : RType) (o : ROps)
  /-- ACQ: Requests resource units from the Reeve, sleeping while deferred. (R214) -/
  | acq (ty : RType) (o : ROps)
  /-- ACQ_TRY: Requests units without sleeping; writes 1 if granted, 0 if it would defer. (R214) -/
  | acqTry (ty : RType) (o : ROps)
  /-- REL: Returns resource units to the pool and re-tests deferred requests. (R215) -/
  | rel (ty : RType) (o : ROps)
  /-- REL_TAKES_EFFECT: A TILE, SCR or ENG release takes effect once accesses and operations to the units have drained. (R210) -/
  | relTakesEffect (p : PathRef)
  /-- RSTAT: Returns held, claim, available or group REG counts. (R216) -/
  | rstat (ty : RType) (it : RItem) (o : ROps)
  /-- REEVE_TEST: The Reeve decides one queued request by the safe-state test: trap, grant or defer. (R204) -/
  | reeveTest (cl : BitVec 6)
  /-- REEVE_FREEZE: A deferred request passed over 64 times freezes its types. (R209) -/
  | reeveFreeze (cl : BitVec 6) (req : Nat)
  /-- BLOCK_COMPLETE: A block completes once its groups have ended, stores are acknowledged and handed-over work is done, releasing its units. (R211) -/
  | blockComplete (blk : Nat)
  /-- COPY: Hands a move or add operation to a Carter channel and returns a promise. (R220) -/
  | copy (op : CopyOp) (ch : BitVec 4) (o : ROps)
  /-- QFENCE: Orders operations across the named Carter channels. (R228) -/
  | qfence (mask : BitVec 16) (o : ROps)
  /-- CPOLL: Reports which named channels are busy or frozen, observing completions. (R229) -/
  | cpoll (mask : BitVec 16) (o : ROps)
  /-- SLEEPT: Waits until a promise time and traps if operations due by then are incomplete. (R226) -/
  | sleept (o : ROps)
  /-- SLEEPT_WAKE: A SLEEPT's time arrives; it retires with an acquire or takes the missed-promise trap. (R226) -/
  | sleeptWake (p : PathRef)
  /-- CARTER_OPERATION_START: A Carter operation starts once its channel's predecessor is complete and performs its move or add. (R221) -/
  | carterOperationStart (blk : Nat) (ch : BitVec 4)
  /-- CARTER_OPERATION_COMPLETE: An operation completes when all reads are done and all writes acknowledged at system scope. (R223) -/
  | carterOperationComplete (blk : Nat) (ch : BitVec 4)
  /-- MMA: Hands a gathered-row by B-tile multiply-accumulate to the array. (R241) -/
  | mma (o : AOps)
  /-- COPYM: An MMA whose hand-over is bound to the group's latest Carter operation. (R242) -/
  | copym (o : AOps)
  /-- MLD: Hands a load of a B tile image from memory to the array. (R243) -/
  | mld (o : AOps)
  /-- MST: Hands a store of an accumulator tile to memory to the array. (R243) -/
  | mst (o : AOps)
  /-- MZERO: Hands a zeroing of an accumulator tile to the array. (R244) -/
  | mzero (o : AOps)
  /-- MBATCH: Closes the operations handed over since the last MBATCH into a numbered batch. (R245) -/
  | mbatch (o : ROps)
  /-- MWAIT: Waits until a batch is complete, then acquires. (R246) -/
  | mwait (o : ROps)
  /-- GLEANER_GATHER: The Gleaner fetches an MMA's row lines from scratch into the operand latch. (R236) -/
  | gleanerGather (core : BitVec 9)
  /-- ARRAY_OPERATION_START: The array starts the next queued operation once its predecessor completes and rows and sub-arrays are ready. (R237) -/
  | arrayOperationStart (core : BitVec 9)
  /-- ARRAY_OPERATION_COMPLETE: A matrix operation completes, possibly completing a batch. (R237) -/
  | arrayOperationComplete (core : BitVec 9)
  /-- SUBARRAY_GATE: Sub-arrays power-gate after the MXGATE idle time without an MMA. (R239) -/
  | subarrayGate (core : BitVec 9)
  /-- VQUANT: Quantises 32 lanes into one PNI8 block image. (R248) -/
  | vquant (o : ROps)
  /-- VDEQ: Dequantises a PNI8 block image to FP32 or BF16 per lane. (R249) -/
  | vdeq (km1 : BitVec 3) (ctr : Bool) (bf : Bool) (o : ROps)
  /-- WPOP: Takes one record from the die level's feed queue, possibly waiting. (R338) -/
  | wpop (o : ROps)
  /-- ENQ: Appends a 64-byte packet to a DEV queue and rings its doorbell. (R339) -/
  | enq (o : ROps)
  /-- SIGOP: Atomic add, set, max or min on a signal with a release. (R340) -/
  | sigop (op : SigOp) (sc : Scope) (acq : Bool) (o : ROps)
  /-- SIGWAIT: Waits until a signal meets a condition, then acquires. (R340) -/
  | sigwait (cd : SigCond) (sc : Scope) (o : ROps)
  /-- TRAP: Raises cause 0x71 with a code to the handler. (R161) -/
  | trap (o : ROps)
  /-- TRET: Returns from a handler to the resume point and returns the permit. (R163) -/
  | tret (o : ROps)
  /-- BRK: Breakpoint: debugger stop or cause 0x70. (R162) -/
  | brk (o : ROps)
  /-- PPT: Pre-emption point: stops and saves per the liveness note when a stop is pending. (R164) -/
  | ppt (o : ROps)
  /-- RDSR: Reads a special register into a scalar. (R159) -/
  | rdsr (o : ROps)
  /-- WRSR: Writes a special register from a scalar. (R159) -/
  | wrsr (o : ROps)
  /-- TRMARK: Emits a trace mark record. (R165) -/
  | trmark (o : ROps)
  /-- BIST: Runs March C− on a core or cluster array in manufacturing mode. (R364) -/
  | bist (cls : BistClass) (o : ROps)
  /-- CLAUSE_WAIT_SATISFIED: A clause's first instruction issues once its wait counter falls to the threshold. (R35) -/
  | clauseWaitSatisfied (p : PathRef)
  /-- FETCH_FAULT: A translation fault on fetching a target or fall-through header is taken there. (R105) -/
  | fetchFault (p : PathRef)
  /-- CORE_DISPATCH_CYCLE: Each core cycle the core picks up to two eligible paths and dispatches their instructions. (R150) -/
  | coreDispatchCycle (core : BitVec 9)
  /-- PASSED_OVER_PIN: A path passed over 8 consecutive cycles is pinned as next first pick. (R151) -/
  | passedOverPin (core : BitVec 9)
  /-- AGE_PRIORITY: A slot path whose age reaches 4,096 moves to the head of selection. (R101) -/
  | agePriority (p : PathRef)
  /-- AGEING_SWAP: A stacked path aged 4,096 is swapped into the most recently issuing path's slot. (R101) -/
  | ageingSwap (grp : Nat)
  /-- COMPACTION: When a write cannot get a register under two maps, the device folds M1 into M0 to free registers. (R148) -/
  | compaction (grp : Nat)
  /-- TRAP_BACKOFF_RETRY: A path that found no trap permit refetches after its back-off expires. (R155) -/
  | trapBackoffRetry (p : PathRef)
  /-- PERMIT_HOLD_EXPIRY: A permit held 8,192 cycles for the earliest backed-off path is released. (R155) -/
  | permitHoldExpiry (core : BitVec 9)
  /-- STORE_BUFFER_DRAIN: A store-buffer entry drains into the L1 and on toward its acknowledgment point. (R172) -/
  | storeBufferDrain (grp : Nat) (n : Nat)
  /-- STORE_ACK: A store acknowledgment arrives and decrements the group's counter for its scope. (R173) -/
  | storeAck (n : Nat)
  /-- MEMORY_RESPONSE: A response to a load, fill or atomic arrives; one after its deadline is discarded. (R263) -/
  | memoryResponse (n : Nat)
  /-- HOME_REQUEST: A home die serves a remote request at its L2, checking permission. (R259) -/
  | homeRequest (n : Nat)
  /-- REMOTE_NAK: A negative acknowledgment from a home die makes the request fault with 0x22 or 0x41. (R267) -/
  | remoteNak (n : Nat)
  /-- DEADLINE_EXPIRY: A cross-die request's deadline expires and its fault is taken. (R264) -/
  | deadlineExpiry (n : Nat)
  /-- PGINV_COMPLETE: After drains and invalidation finish, walks are discarded and BUSY clears. (R271) -/
  | pginvComplete (vd : BitVec 8)
  /-- PARTITION_CHANGE_DONE: After saves, write-backs and engine drains, bitmaps apply and a type-4 event is sent. (R318) -/
  | partitionChangeDone 
  /-- PPT_WINDOW_EXPIRY: 20,000 ticks after a stop request, groups stop at the next reconverged point. (R315) -/
  | pptWindowExpiry (grp : Nat)
  /-- FORCED_SAVE: A group not stopped 100,000 ticks after the request takes a forced save. (R315) -/
  | forcedSave (grp : Nat)
  /-- BLOCK_SAVE_COMPLETE: A block's save completes once groups, copies and matrix work are done, releasing its units. (R315) -/
  | blockSaveComplete (blk : Nat)
  /-- HALT_RAISE: A fault domain's halt line rises and all its parties stop within 4,096 ticks. (R320) -/
  | haltRaise (vd : BitVec 8) (fdom : BitVec 16)
  /-- BLOCK_DISPATCH: The die's dispatcher picks the next block or cluster level to offer to the Reeve. (R335) -/
  | blockDispatch (die : BitVec 2)
  /-- ENERGY_WINDOW: A new 1,000,000-tick energy window begins and budgets are renewed. (R335) -/
  | energyWindow 
  /-- SLICE_PREEMPT: A higher-priority block without room makes the dispatcher stop a lower-priority block past DSLICE. (R336) -/
  | slicePreempt (die : BitVec 2)
  /-- PACKET_CONSUME: A Mill thread reads and checks the next doorbelled packet in sequence order. (R327) -/
  | packetConsume (q : BitVec 10)
  /-- LAUNCH_START_DEFERRED: A LAUNCH waiting for feed queues starts once they are free. (R333) -/
  | launchStartDeferred (q : BitVec 10)
  /-- LAUNCH_COMPLETE: A launched grid's blocks all complete and the completion signal is decremented. (R327) -/
  | launchComplete (grid : Nat)
  /-- FEED_START_DEFERRED: A FEED waiting for room starts once the feed queue has room. (R327) -/
  | feedStartDeferred (q : BitVec 10)
  /-- COPY_PACKET_COMPLETE: A queue copy completes and decrements its completion signal. (R327) -/
  | copyPacketComplete (q : BitVec 10)
  /-- WAIT_EVALUATION: A write to a waited signal re-evaluates the WAIT: abort, start or keep waiting. (R328) -/
  | waitEvaluation (q : BitVec 10)
  /-- WAIT_DEADLINE_EXPIRY: A WAIT's deadline passes and the packet fails with code 4. (R328) -/
  | waitDeadlineExpiry (q : BitVec 10)
  /-- BLOCK_DEBUG_STOPPED: Every path has halted; the stop record is written and KZDUMP filled. (R351) -/
  | blockDebugStopped (blk : Nat)
  /-- BREAKPOINT_STOP: A path's oldest instruction at a KZBP PC stops the block before it retires. (R353) -/
  | breakpointStop (p : PathRef)
  /-- BIST_COMPLETE: The firmware BIST finishes, writing BISTRES and clearing BUSY. (R365) -/
  | bistComplete (die : BitVec 2)
  /-- LMARG_SCAN_COMPLETE: After 2^20 ticks the scan's error count appears in LMARGRES. (R367) -/
  | lmargScanComplete (die : BitVec 2)
  /-- RECGO_CHECK_COMPLETE: The staged image is accepted and started, or rejected. (R370) -/
  | recgoCheckComplete 
  /-- REPLAY_TIMEOUT: No acknowledgment for 1,000 ticks makes the sender replay. (R387) -/
  | replayTimeout (port : BitVec 4)
  /-- PORT_RETRAIN_TIMEOUT: A port not up within 10,000,000 ticks becomes failed. (R387) -/
  | portRetrainTimeout (port : BitVec 4)
  /-- FABRIC_DEADLINE_EXPIRY: A fabric request without reply by FDLINE is lost. (R388) -/
  | fabricDeadlineExpiry (tag : BitVec 32)
  /-- ILLEGAL_INSTRUCTION_WORD: An instruction position holding an unassigned opcode, a header, or an illegal field value raises cause 0x01 or 0x02 when it would retire. (R58) -/
  | illegalInstructionWord (p : PathRef) (addr : BitVec 56) (cause : BitVec 8)
  /-- WPOP_WAIT_EXPIRY: A WPOP waiting on an empty, open feed queue retires with status 1 once its timeout t is spent. (R338) -/
  | wpopWaitExpiry (p : PathRef)
  /-- DCF_WRITEBACK_DONE: The device-wide write-back of the source range and invalidation of the target range finish, and the waiting DCF retires. (R278) -/
  | dcfWritebackDone (p : PathRef)
  /-- TOKEN_ARBITRATION: Each cycle an arbiter accrues tokens and grants in contract then loan phases. (R312) -/
  | tokenArbitration (arb : BitVec 3) (inst : Nat) (reqs : List (BitVec 8))
  /-- FAULT_RESPONSE: Host writes the fault-response register to answer a page-fault record by tag. (R176) -/
  | faultResponse (vd : BitVec 8) (v : BitVec 64)
  /-- PGINV: Host GO write starts drain, write-back and invalidation of a page range. (R271) -/
  | pginv (vd : BitVec 8) (v : BitVec 64)
  /-- ATS_INVALIDATION: A host ATS invalidation discards translations and writes back host-space lines. (R277) -/
  | atsInvalidation (vd : BitVec 8) (vpn : BitVec 48) (n : BitVec 16)
  /-- PRI_RESPONSE: A PRG Response answers a host-space page request, releasing or refusing the fault. (R277) -/
  | priResponse (tag : Nat) (ok : Bool)
  /-- PARTCTL_GO: Applies staged bitmaps to create, change or delete a partition, after checks. (R307) -/
  | partctlGo (v : BitVec 64)
  /-- VDRCB_WRITE: Host write of VDRCB installs or removes a virtual device's root when idle. (R309) -/
  | vdrcbWrite (vd : BitVec 8) (v : BitVec 64)
  /-- VF_ENABLE_CLEAR: Clearing VF Enable halts, discards and zeroes the affected virtual devices. (R322) -/
  | vfEnableClear 
  /-- VDSTOP_GO: Requests a stop of every resident block of the virtual device. (R378) -/
  | vdstopGo (vd : BitVec 8)
  /-- VDSTOP_HOLD: While set, the dispatcher admits no block of the virtual device. (R378) -/
  | vdstopHold (vd : BitVec 8) (on : Bool)
  /-- VDHALT_RAISE: Raises the halt line of a fault domain. (R378) -/
  | vdhaltRaise (vd : BitVec 8) (fdom : BitVec 16)
  /-- VDHALT_CLEAR: Clears a domain's halt so its blocks may be admitted again. (R378) -/
  | vdhaltClear (vd : BitVec 8) (fdom : BitVec 16)
  /-- QCFG_WRITE: Writes a queue's configuration; setting EN resets QDONE to QDOOR and clears the abort. (R324) -/
  | qcfgWrite (q : BitVec 10) (v : BitVec 64)
  /-- QDOOR_WRITE: Host doorbell write makes packets available, or overruns. (R325) -/
  | qdoorWrite (q : BitVec 10) (v : BitVec 64)
  /-- QABORT: Host writes an abort code, aborting the queue. (R330) -/
  | qabort (q : BitVec 10) (v : BitVec 64)
  /-- EVACK_WRITE: Host advances EVACK, letting buffered and reserved records be written in order. (R341) -/
  | evackWrite (vd : BitVec 8) (v : BitVec 64)
  /-- KZCTL_STOP: Requests a debug stop of the named block. (R351) -/
  | kzctlStop (v : BitVec 64)
  /-- KZCTL_RUN: Resumes a debug-stopped block. (R351) -/
  | kzctlRun (v : BitVec 64)
  /-- KZCTL_STEP: Lets one path of a stopped block retire exactly one instruction, then reports 0x72. (R354) -/
  | kzctlStep (v : BitVec 64)
  /-- KZCTL_QUI: Holds or releases new Carter operations and Mill packet consumption. (R355) -/
  | kzctlQui (v : BitVec 64)
  /-- KZSHSEL_WRITE: Samples one value of a running group into KZSHVAL. (R350) -/
  | kzshselWrite (v : BitVec 64)
  /-- POWER_WINDOW: Each 1 ms window the device lowers die clocks to keep power at or below PWRLIM. (R361) -/
  | powerWindow (clk : List (BitVec 8))
  /-- IDLE_ENTRY: After 10 µs idle the package enters the deepest state within its latency tolerance. (R362) -/
  | idleEntry 
  /-- IDLE_WAKE: A host write, configuration access, flit or Mill deadline wakes the package. (R362) -/
  | idleWake 
  /-- BISTCTL_GO: Host starts a firmware-run BIST, or it is refused. (R365) -/
  | bistctlGo (die : BitVec 2) (v : BitVec 64)
  /-- LMARGCTL_GO: Starts a receive-eye scan on an out-of-service lane. (R367) -/
  | lmargctlGo (die : BitVec 2) (v : BitVec 64)
  /-- RECGO: Starts the ROM check of a staged firmware image in recovery. (R370) -/
  | recgo (v : BitVec 64)
  /-- ATTESTATION_REQUEST: Returns a signed report of nonce, firmware hash, svn, revision and CRCs. (R371) -/
  | attestationRequest (nonce : BitVec 256)
  /-- COLD_RESET: Brings up rails, defect maps, firmware, DRAM, links and PCIe in order. (R372) -/
  | coldReset (mfg : Bool)
  /-- WARM_RESET: PERST# discards all work and cached data, keeping memory, fuses and timebase. (R373) -/
  | warmReset 
  /-- FUNCTION_LEVEL_RESET: A VF function-level reset acts as clearing VF Enable for that virtual device. (R372) -/
  | functionLevelReset (vd : BitVec 8)
  /-- CXL_MEM_ERROR: A poisoned or unanswered CXL.mem access halts the owning fault domain. (R382) -/
  | cxlMemError (die : BitVec 2) (vd : BitVec 8) (va : BitVec 56)
  /-- PHYS_WINDOW_ACCESS: A host BAR2 access reads or writes a die-local frame directly. (R380) -/
  | physWindowAccess (off : BitVec 38) (wr : Option (BitVec 64))
  /-- FLIT_RECEIVE: A fabric flit is checked and accepted in SEQ order or discarded with a NAK. (R387) -/
  | flitReceive (port : BitVec 4) (f : Flit)
  /-- FLIT_NAK: A received NAK makes the sender replay from the oldest unacknowledged flit. (R387) -/
  | flitNak (port : BitVec 4) (seq : BitVec 12)
  /-- PORT_DOWN: Repeated replay or lost lane lock takes the port down to retrain, losing transactions. (R387) -/
  | portDown (port : BitVec 4)
  /-- FABRIC_READ: An arriving read transaction is admitted and performed in the exported window, or refused. (R385) -/
  | fabricRead (t : Txn)
  /-- FABRIC_WRITE: An arriving write transaction is admitted and performed, then acknowledged. (R385) -/
  | fabricWrite (t : Txn)
  /-- FABRIC_ADD_FP32: An arriving FP32 add transaction is performed atomically per element. (R385) -/
  | fabricAddFp32 (t : Txn)
  /-- FABRIC_ADD_BF16: An arriving BF16 add transaction is performed atomically per element. (R385) -/
  | fabricAddBf16 (t : Txn)
  /-- FABRIC_READ_DATA: Read data returns to the sending Carter operation. (R388) -/
  | fabricReadData (t : Txn)
  /-- FABRIC_ACK: An acknowledgment of a write or add returns to the sender. (R388) -/
  | fabricAck (t : Txn)
  /-- FABRIC_REFUSAL: A refusal completes the Carter operation with cause 0x41. (R389) -/
  | fabricRefusal (t : Txn)
  /-- REGISTER_WRITE: A write to a register with no behaviour of its own, under its access codes. (R7) -/
  | registerWrite (fn : BitVec 8) (off : BitVec 24) (v : BitVec 64)
  /-- FABRIC_PORT_UP: A fabric port finishes training or retraining and its STATE becomes up. (R387) -/
  | fabricPortUp (port : BitVec 4)
  /-- PACKAGE_CLOCK_FAULT: The timebase stops for 1 µs; deadlines freeze and every domain halts. (R265) -/
  | packageClockFault 
  /-- ADMISSION: The Reeve tests a whole cluster level's base allocations and admits all or withdraws. (R202) -/
  | admission (grid : Nat) (dl : BitVec 2) (cl : BitVec 4) (hw : BitVec 6) (cores : List (BitVec 3))
  /-- STOP_REQUEST: A stop is requested for a block, starting the save procedure. (R315) -/
  | stopRequest (blk : Nat)
  /-- MILL_PREFETCH: A blocked Mill thread prefetches entry clauses and arguments of later LAUNCHes. (R332) -/
  | millPrefetch (q : BitVec 10)
  /-- PAGE_WALK: An LLC miss is translated by the home die's walker into a frame, fault or table error. (R270) -/
  | pageWalk (die : BitVec 2) (vd : BitVec 8) (va : BitVec 56)
  deriving DecidableEq, Repr

end Sys2Proof
end

