-- ==== Sys2Proof/Machine/State.lean ====
section
/-!
DEFINITION. The state of the whole package, as plain data (R12, R86), and the state after reset.
The model's own choices here: DESIGN CHOICE, logs 1, 2, 3, 37, 40, 42; DEDUCED, logs 13, 20.
-/
namespace Sys2Proof.Machine

/-- Bytes by address: strictly rising addresses, no entry equal to the byte an unlisted address
reads as (log 2, DESIGN CHOICE). -/
abbrev Memory := List Host.Cell

/-- What an unlisted address reads as (log 2, DESIGN CHOICE; R198 for scratch and tile units). -/
def Memory.dflt : Byte := 0

/-- A virtual address is 56 bits (R48, R90). -/
abbrev Va := BitVec 56

/-- A path that cannot retire its next instruction yet: why (by stall reason, R153) and what ends
it. -/
inductive WaitKind where
  /-- BRV: the other slot's path is the victim, fetches nothing more, and is pushed once its half of the
  reorder buffer is empty (R91). -/
  | split
  /-- Retries when the machine next runs the path: the wait ends with another step's effect. -/
  | retry
  /-- SLEEP: retires once the timebase reaches `wake` (R115). -/
  | sleep (wake : Nat) (o : ROps)
  /-- SLEEPT: retires once the timebase reaches `t` (R226). -/
  | sleept (t : Nat) (o : ROps)
  /-- WPOP on an empty open feed queue, until `dl` if it has a limit (R338). -/
  | wpop (dl : Option Nat) (o : ROps)
  /-- DCF, its write-back and invalidation in progress (R278). -/
  | dcf (o : MOps)
  /-- The clause wait of the header the path stands at (R35). -/
  | clause
  /-- A request at the Reeve; its instruction, which sleeps until it has its answer and is then not read again
  (R204, R208). -/
  | grant (req : Nat) (i : Instr)
  /-- Rolled back for want of a trap permit; core cycles still to wait (R155). -/
  | backoff (left : Nat)
  /-- Parked: the page-fault records of replay entry `e` are unanswered (R175). -/
  | parked (e : Nat)
  /-- The instruction's bytes cannot be fetched: page-fault record `tag` is unanswered (R105). -/
  | fetch (tag : Word)
  /-- REL of TILE, SCR or ENG: waits for accesses to the removed units (R210). -/
  | rel (ty : RType) (amt : Nat) (o : ROps)
  deriving DecidableEq, Repr

/-- A waiting path: the reason counted (R153), the timebase value when the instruction became the
path's oldest, the address after it and whether it closes its clause. -/
structure Wait where
  kind   : WaitKind
  reason : Nat
  since  : Nat
  next   : Va
  last   : Bool
  deriving DecidableEq, Repr

/-- A path running its handler: the lanes that wait at the resume point, and whether a default
handler runs (R154 to R156). The handler path holds a permit while its group is resident; after a
restore it takes one before it resumes. -/
structure Handler where
  rest   : Word
  permit : Bool
  /-- The default handler of cause 0x40: the copies it waits for (R227). -/
  dflt : Option (List Nat)
  deriving DecidableEq, Repr

/-- A 128-byte line by where it lives: memory homed on a die, under a virtual device's ASID; host
memory; a block's scratch or tile allocation, by block offset (R170, R197, R258, R277). -/
inductive LineKey where
  | mem (die : BitVec 2) (vd : BitVec 8) (va : Va)
  | host (vd : BitVec 8) (va : Va)
  | scr (blk : Nat) (off : Nat)
  | tile (blk : Nat) (off : Nat)
  deriving DecidableEq, Repr

/-- A leaf as the walker found it (R269). -/
structure Leaf where
  pfn  : BitVec 32
  h    : Bool
  c    : Bool
  km1  : BitVec 3
  view : BitVec 3
  x    : Bool
  w    : Bool
  r    : Bool
  deriving DecidableEq, Repr

/-- What comes back of a request of another die (R259, R263, R267); `refused` is die 0's refusal of a
host-space page (R277). -/
inductive LineResult where
  | data (bytes : List Byte) (leaf : Option Leaf)
  | permitted (leaf : Option Leaf)
  | nak
  | refused
  | expired
  | absent
  deriving DecidableEq, Repr

/-- A line the path's oldest instruction has asked another die for, by request number. -/
structure PendLine where
  n   : Nat
  key : LineKey
  deriving DecidableEq, Repr

/-- Who asks another die for a line: a path, a Carter or array operation by its serial number, a queue's
thread, or a PRF, which waits for nothing and names the core whose L1 the line goes to (R183, R263). -/
inductive Asker where
  | path (r : PathRef)
  | op (id : Nat)
  | thread (q : BitVec 10)
  | lane (q : BitVec 10)
  | prf (core : Option (BitVec 9))
  deriving DecidableEq, Repr

/-- Where a message between dies stands, the dies it has still to go to, whether it is traffic to a
diagonal die, which has the forwarding virtual channel, its flits, and those that have still to cross the edge
it waits at (R10, R311). -/
structure Transit where
  at'  : BitVec 2
  way  : List (BitVec 2)
  diag : Bool
  size : Nat
  left : Nat
  deriving DecidableEq, Repr

/-- A register an instruction names, as a source or as a destination (R86). -/
inductive RegRef where
  | v (r : Nat)
  | s (r : BitVec 6)
  | p (r : BitVec 6)
  deriving DecidableEq, Repr

/-- The ports of a core (R151). -/
inductive IssuePort where
  | fma | special | intLogic | memory | scalar | matrix
  deriving DecidableEq, Repr

/-- The Reeve's answer to a request: whether it is granted, the type and the amount, whether it raises a claim,
and the effective set the instruction asked with (R204, R214). -/
structure Grant where
  ok    : Bool
  ty    : RType
  amt   : Nat
  raise : Bool
  lanes : Word
  deriving DecidableEq, Repr

/-- What the debugger's STEP has to do with a path: nothing, it is to retire one instruction, or it has (R354). -/
inductive StepMark where
  | none | due | done
  deriving DecidableEq, Repr

/-- The mark of a path whose oldest instruction has retired or trapped. -/
def StepMark.retired : StepMark → StepMark
  | .none => .none
  | .due | .done => .done

/-- An instruction of a path that has dispatched and not retired, an entry of its half of the reorder buffer:
where it stands, the address after it, whether it closes its clause, its clause's header, its number in its
core's order of dispatch, and whether it has executed (R88, R99, R150, R152). -/
structure InFlight where
  pc    : Va
  instr : Instr
  next  : Va
  last  : Bool
  hdr   : Va
  stamp : Nat
  done  : Bool
  deriving DecidableEq, Repr

/-- A PC slot's path (R86): `pc = hdr` while the header itself is due. -/
structure Path where
  pc      : Va
  hdr     : Va
  mask    : Word
  age     : Nat
  joining : Bool
  wait    : Option Wait
  handler : Option Handler
  /-- The last back-off of a trap that found no permit (R155); 0 after a delivery. -/
  backoff : Nat
  /-- The core cycle at which the back-off first reached 8,192 (R155). -/
  starved : Option Nat
  /-- The Reeve's answer to the path's request, until its instruction retires (R204). -/
  granted : Option Grant
  pend    : List PendLine
  /-- The replay entry whose log the path's oldest instruction reads (R175, R176). -/
  replay  : Option Nat
  /-- No instruction of the path has retired since its block stopped at a breakpoint or it was told to
  step: the one at `pc` is not matched against breakpoints (R353, R354). -/
  bpSkip  : Bool
  step    : StepMark
  /-- An ageing swap displaces the path: it fetches nothing more, and is pushed once its half of the
  reorder buffer is empty (R101). -/
  leaving : Bool
  /-- The core cycles for which a path that has yielded still ranks last (R116). -/
  yielded : Nat
  /-- The path's half of the reorder buffer, oldest first (R88, R99). -/
  rob     : List InFlight
  /-- The core cycles since the path last issued, counted at a JOIN too (R101). -/
  quiet   : Nat
  /-- What the path's pipes have not delivered yet: the register, and the core cycle from which an
  instruction that reads it may execute (R396). -/
  due     : List (RegRef × Nat)
  deriving DecidableEq, Repr

/-- One architectural v-register under one rename map: the physical register it names, if any,
and its zero mask (R93, R96). -/
structure MapEntry where
  name : Option Nat
  zero : Word
  deriving DecidableEq, Repr

/-- A physical vector register the group holds (R94, R148). -/
structure PhysReg where
  num   : Nat
  lanes : Lanes
  deriving DecidableEq, Repr

/-- The trap state (R86, R98, R158). -/
structure TrapState where
  cause : BitVec 8
  pc    : DWord
  hdr   : DWord
  mask  : Word
  code  : Word
  addr  : DWord
  slot  : Bool
  deriving DecidableEq, Repr

/-- A store-buffer entry: the bytes one store writes in one line, with the translation it retired
under and the handle-table index it was made through (R172, R259, R271). -/
structure SbEntry where
  id    : Nat
  key   : LineKey
  bytes : List Byte
  marks : BitVec 128
  leaf  : Option Leaf
  va    : Va
  hidx  : Nat
  deriving DecidableEq, Repr

/-- The unacknowledged-store counters (R173). -/
structure Counters where
  clu : Word
  die : Word
  dev : Word
  sys : Word
  deriving DecidableEq, Repr

/-- A page a parked instruction has asked the host for: its record's tag, the page's first byte,
the lanes it faulted for, and the host's answer (R175, R176, R277). -/
structure FaultTag where
  tag    : Word
  page   : Va
  lanes  : Word
  host   : Bool
  answer : Option Bool
  deriving DecidableEq, Repr

/-- A parked instruction in replay entry `idx`: where it stands, its effective lanes and its operand log,
the scalar registers and the v-registers its path reads, from v0 on; and the instruction, where the path
dispatched it (R175, R176; log 13, DEDUCED). -/
structure ReplayEntry where
  instr : Option Instr
  idx   : Nat
  pc    : Va
  slot  : Bool
  lanes : Word
  sregs : List DWord
  vregs : List Lanes
  tags  : List FaultTag
  deriving DecidableEq, Repr

/-- A group's state in one barrier slot (R193). -/
inductive BarState where
  | idle | arrived | complete | expired
  deriving DecidableEq, Repr

/-- The level of a barrier (R192). -/
inductive BarLevel where
  | blk | clu | die | gang
  deriving DecidableEq, Repr

/-- A group's barrier slot that is not idle (R193). -/
structure GroupBar where
  level : BarLevel
  slot  : Nat
  state : BarState
  deriving DecidableEq, Repr

/-- The arrivals and the phase count of a barrier slot (R193, R231, R261). -/
structure BarSlot where
  slot     : Nat
  arrivals : Nat
  phase    : Nat
  deriving DecidableEq, Repr

/-- A batch a group has closed, and those of its operations that are not complete (R245). -/
structure Batch where
  num : Nat
  ops : List Nat
  deriving DecidableEq, Repr

/-- A mapped slot of a block's window: the block's copy of a handle-table entry, and the entry's
index (R77, R78, R166). -/
structure Handle where
  slot   : BitVec 8
  idx    : Nat
  base   : DWord
  length : Nat
  space  : BitVec 8
  perm   : BitVec 8
  policy : BitVec 8
  bind   : Bool
  spx    : Word
  sync   : DWord
  deriving DecidableEq, Repr

/-- Amounts of the four claimable types a block claims or holds: its components 8 + c, c, 16 and 17
of R196. -/
structure Units where
  reg  : Nat
  tile : Nat
  scr  : Nat
  eng  : Nat
  deriving DecidableEq, Repr

/-- An endpoint of a Carter operation: a handle of the issuing block and an offset in it (R219). -/
structure Endpoint where
  handle : Handle
  off    : Nat
  deriving DecidableEq, Repr

/-- Where a Carter operation stands (R221, R223, R225). -/
inductive OpState where
  | queued | moving | paused (tag : Word)
  deriving DecidableEq, Repr

/-- A Carter operation handed over by a COPY (R220, R221). -/
structure CarterOp where
  id      : Nat
  grp     : Nat
  pc      : Va
  op      : CopyOp
  dst     : Endpoint
  src     : Endpoint
  len     : Nat
  promise : DWord
  state   : OpState
  /-- Source bytes read or asked for, destination bytes written or sent, and the bytes read. -/
  rd      : Nat
  wr      : Nat
  buf     : List Byte
  /-- Operations that a QFENCE puts before this one (R228). -/
  after   : List Nat
  /-- Fabric transactions without their reply (R388, R389). -/
  txns    : List Word
  deriving DecidableEq, Repr

/-- A Carter channel a block holds (R218). -/
structure Channel where
  num    : Nat
  queue  : List CarterOp
  frozen : Bool
  after  : List Nat
  deriving DecidableEq, Repr

/-- A copy of a group that is complete and that the group has not observed (R223). -/
structure DoneCopy where
  id      : Nat
  ch      : Nat
  promise : DWord
  dst     : Endpoint
  len     : Nat
  deriving DecidableEq, Repr

/-- A pending SYNCR: the object and the scope of the group's next write to it (R191). -/
structure PendRel where
  key   : LineKey
  off   : Nat
  scope : Scope
  deriving DecidableEq, Repr

/-- A liveness note: its index, the live v-, s- and p-registers, and the scratch ranges (offset, length)
(R79, R316). -/
structure LiveNote where
  idx    : Nat
  vlive  : DWord
  slive  : DWord
  plive  : BitVec 8
  ranges : List (Nat × Nat)
  deriving DecidableEq, Repr

/-- Where a group stands (R86, R99, R113, R315, R351). -/
inductive GroupPhase where
  | running | ended | frozen | stopped | saved
  deriving DecidableEq, Repr

/-- A merge micro-operation in its core's integer/logic queue: its number in the core's order of dispatch, and,
once it has executed, the core cycle at which it retires (R95, R148, R396). -/
structure MergeOp where
  stamp : Nat
  ends  : Option Nat
  deriving DecidableEq, Repr

/-- A group (R86). -/
structure Group where
  id      : Nat
  blk     : Nat
  idx     : Nat
  place   : BitVec 4
  phase   : GroupPhase
  /-- The allocation n (R87). -/
  regn    : Nat
  sregs   : List DWord
  preds   : List Word
  m0      : List MapEntry
  m1      : List MapEntry
  phys    : List PhysReg
  slot0   : Option Path
  slot1   : Option Path
  /-- The divergence stack, top first (R90). -/
  stack   : List Path
  fstat   : Word
  stall   : List Word
  trap    : TrapState
  sb      : List SbEntry
  /-- Entries of a store of more than 32 lines that are still to enter (R393). -/
  sbRest  : List SbEntry
  cnt     : Counters
  rels    : List PendRel
  replay  : List ReplayEntry
  bars    : List GroupBar
  /-- The batch number (R245). -/
  batch   : DWord
  /-- Matrix operations handed over since the last MBATCH (R245). -/
  openOps : List Nat
  batches : List Batch
  /-- Carter operations handed over and not complete (R223). -/
  copies  : List Nat
  /-- The Carter operation handed over last since launch or restore (R242). -/
  lastOp  : Option Nat
  /-- Copies complete and not yet observed by the group (R223). -/
  done    : List DoneCopy
  /-- Destinations of complete MSTs the group has not observed yet (R238). -/
  mst     : List Endpoint
  /-- Stores of other groups the group has observed and that are not acknowledged (R288). -/
  obs     : List Nat
  /-- What moving paths has still to do: entries to spill and fill, one each core cycle; the merge micro-operations
  of folds and those of compactions that have not retired; and those of both that have entered the integer/logic
  queue, oldest first (R90, R95, R148). -/
  spills  : Nat
  folds   : Nat
  merges  : Nat
  mq      : List MergeOp
  /-- The reorder buffer is split into halves: from the moment both slots hold paths until both halves are empty
  (R88). -/
  halved  : Bool
  /-- The liveness note a stop at a PPT saves by (R164). -/
  note    : Option LiveNote
  deriving DecidableEq, Repr

/-- What a matrix operation does at the array (R237, R241, R243, R244): the row offsets are block
offsets in scratch, one for each lane of the effective set. -/
inductive MatOp where
  | mma (k : Nat) (ctr z : Bool) (acc bt : Nat) (rows : List (Option Nat))
  | mld (bt : Nat) (src : Endpoint)
  | mst (acc : Nat) (dst : Endpoint)
  | mzero (acc : Nat)
  deriving DecidableEq, Repr

/-- Where a matrix operation stands in its core's array queue (R236, R237, R242). -/
inductive MatState where
  /-- A COPYM's place: its bound copy is incomplete. -/
  | bound (copy : Nat)
  | queued
  /-- The rows are in the operand latch (one record of 192 bytes for each row, or none). -/
  | gathered (rows : List (Option (List Byte)))
  /-- The array performs it, an MMA with its rows. -/
  | running (rows : List (Option (List Byte)))
  /-- An MST has sent its bytes; their acknowledgments are due. -/
  | storing
  deriving DecidableEq, Repr

/-- An entry of an array queue (R237). -/
structure ArrayOp where
  id    : Nat
  grp   : Nat
  blk   : Nat
  pc    : Va
  lanes : Word
  op    : MatOp
  state : MatState
  deriving DecidableEq, Repr

/-- How a block stands (R147, R211, R315, R317, R320). -/
inductive BlockPhase where
  | ready | resident | saved | complete
  deriving DecidableEq, Repr

/-- A block (R11, R147, R196). Its groups are in `State.groups`. -/
structure Block where
  id     : Nat
  grid   : Nat
  vd     : BitVec 8
  bid    : Nat
  nblk   : Nat
  cid    : Nat
  nclu   : Nat
  dieid  : Nat
  diedim : Nat
  blin   : Nat
  ngrp   : Nat
  /-- The core the block is or was resident on: 128 x die + 8 x cluster + core. -/
  core   : BitVec 9
  phase  : BlockPhase
  claim  : Units
  alloc  : Units
  /-- What the Reeve has granted to ACQs that have not retired (R204, R214). -/
  pend   : Units
  /-- Which types the block has performed an ACQ of (R213), in the order of `Units`. -/
  acqd   : List RType
  win    : List Handle
  bars   : List BarSlot
  tile   : Memory
  scr    : Memory
  chans  : List Channel
  /-- The save slot (R316). -/
  slot   : Option Nat
  /-- When a stop was requested (R315). -/
  stop   : Option Nat
  /-- When the block became ready, resident or saved (R335, R336). -/
  since  : Nat
  /-- The debugger holds the block (R351). -/
  dbg    : Bool
  /-- The debugger's stop takes effect at every group's next boundary (R351). -/
  dbgReq : Bool
  /-- The path and the cause of the debugger's stop: BRK, breakpoint or step; none for a STOP (R351,
  R357). -/
  dbgWhy : Option (PathRef × BitVec 8)
  /-- The path that is to retire exactly one instruction, and whether it stood in a handler (R354). -/
  stepReq : Option (PathRef × Bool)
  deriving DecidableEq, Repr

/-- A kernel descriptor with its claim record (R75, R76). -/
structure Desc where
  gang    : Bool
  entry   : DWord
  handler : DWord
  livetab : DWord
  wmap    : DWord
  groups  : Nat
  blocks  : Nat
  regs8   : Nat
  power   : Nat
  gclass  : Nat
  feedsz  : Nat
  dstack  : Nat
  nlive   : Nat
  args    : Nat
  perLane : Nat
  claim   : Units
  base    : Units
  deriving DecidableEq, Repr

/-- The fields of an RCB node in memory (R310). -/
structure Node where
  va       : DWord
  level    : BitVec 8
  prio     : BitVec 8
  fdom     : BitVec 16
  weight   : BitVec 16
  regcap   : BitVec 16
  scrcap   : BitVec 16
  tilecap  : BitVec 8
  engcap   : BitVec 8
  energy   : BitVec 32
  parent   : DWord
  recarea  : DWord
  reccount : BitVec 32
  deriving DecidableEq, Repr

/-- The root in force of a virtual device (R308 to R310); `good` is whether it meets R310. -/
structure Root where
  node     : Node
  good     : Bool
  ptroot   : List DWord
  seed     : BitVec 40
  mask     : BitVec 4
  part     : Nat
  nhand    : Nat
  nslot    : Nat
  htab     : DWord
  savepool : DWord
  deriving DecidableEq, Repr

/-- A feed queue of a die level (R337, R338). -/
structure FeedQueue where
  recs     : List (List Word)
  closed   : Bool
  sleepers : List PathRef
  deriving DecidableEq, Repr

/-- A gang round message on its way: its number, the die level it goes to, its deadline (R262, R263). -/
structure GangMsg where
  n        : Nat
  dst      : Nat
  deadline : Nat
  tr       : Transit
  deriving DecidableEq, Repr

/-- A gang slot at one die level: whether its local round is complete, the die levels whose round
messages have come and count for no phase yet, its own round messages on their way, oldest first, and the
phases completed (R262, R263). -/
structure GangSlot where
  slot     : Nat
  arrivals : Nat
  localEnd : Bool
  heard    : List Nat
  sent     : List GangMsg
  phase    : Nat
  deriving DecidableEq, Repr

/-- A cluster level: its hardware cluster while it has one, its barrier slots, and the resolved caps of its
domain (R201, R231). -/
structure CluLevel where
  idx     : Nat
  cluster : Option (BitVec 6)
  bars    : List BarSlot
  cap     : Units
  deriving DecidableEq, Repr

/-- A die level (R253, R261). -/
structure DieLevel where
  idx   : Nat
  die   : Option (BitVec 2)
  bars  : List BarSlot
  gangs : List GangSlot
  clus  : List CluLevel
  feed  : Option FeedQueue
  deriving DecidableEq, Repr

/-- A grid (R326, R333 to R335, R398). -/
structure Grid where
  id      : Nat
  vd      : BitVec 8
  queue   : BitVec 10
  seq     : Word
  desc    : Desc
  /-- The window map's mapped slots: slot and handle-table index (R78). -/
  wmap    : List (Nat × Nat)
  args    : List DWord
  levels  : List DieLevel
  /-- The nodes from the grid node to the root, as last read (R201, R310). -/
  nodes   : List Node
  fdom    : BitVec 16
  deficit : Nat
  /-- Saved blocks in order of save completion (R317). -/
  resume  : List Nat
  halted  : Bool
  deriving DecidableEq, Repr

/-- A started packet that is not complete: a LAUNCH's grid or a COPY (R327). -/
structure Started where
  seq     : Word
  barrier : Bool
  sig     : DWord
  grid    : Option Nat
  deriving DecidableEq, Repr

/-- A COPY packet on a queue's copy lane (R327). -/
structure LaneCopy where
  seq    : Word
  pc     : Va
  dst    : Va
  src    : Va
  len    : Nat
  op     : CopyOp
  paused : Option Word
  deriving DecidableEq, Repr

/-- What a thread's paused access was for: its next packet, the completion of started packet `n`, the store to
QSIG (R327, R330). -/
inductive PauseFor where
  | packet
  | done (n : Word)
  | qsig
  deriving DecidableEq, Repr

/-- An abort whose last steps are still to be made: the store to QSIG, then the event record (R330). -/
structure Abort where
  code   : Word
  stored : Bool
  deriving DecidableEq, Repr

/-- A SIGNAL packet that has started and whose atomic is still to be performed: the address, the value, and whether
it is added (R326, R327). -/
structure SignalOp where
  seq : Word
  va  : DWord
  v   : DWord
  add : Bool
  deriving DecidableEq, Repr

/-- A queue's Mill thread (R323, R327, R328); whether it is blocked stands in QSTAT. -/
structure Thread where
  q       : BitVec 10
  /-- When the next packet became next (R328). -/
  nextAt  : Option Nat
  /-- The next packet has been read and may not start yet: its bytes (R325, R327, R328). -/
  held    : Option (List Byte)
  /-- The record that an absent page of the thread's own access waits for, and what it was for (R327). -/
  pause   : Option (Word × PauseFor)
  running : List Started
  lane    : List LaneCopy
  sigs    : List SignalOp
  /-- A host doorbell write ran over the ring (R325). -/
  overrun : Bool
  /-- Aborts whose last steps are still to be made, oldest first (R330). -/
  ending  : List Abort
  deriving DecidableEq, Repr

/-- What a page-fault record's answer releases (R176). -/
inductive FaultOwner where
  | replay (grp : Nat) (pc : Va) (slot : Bool)
  | fetch (p : PathRef)
  | carter (blk ch : Nat)
  | lane (q : BitVec 10)
  | thread (q : BitVec 10)
  deriving DecidableEq, Repr

/-- A page-fault record the host has not answered (R176, R177). -/
structure FaultRec where
  tag   : Word
  va    : Va
  owner : FaultOwner
  deriving DecidableEq, Repr

/-- A raised halt line whose stop records are not written yet (R320, R321): since when, whether a clock fault
or the host raised it, and whether the domain's parties have stopped. -/
structure HaltPend where
  fdom    : BitVec 16
  since   : Nat
  clock   : Bool
  host    : Bool
  stopped : Bool
  deriving DecidableEq, Repr

/-- A party frozen by a fatal fault: what its stop record will say (R98, R321). -/
structure Frozen where
  grp   : Option Nat
  chan  : Option (Nat × Nat)
  cause : BitVec 8
  pc    : Va
  addr  : DWord
  lanes : Word
  time  : Nat
  deriving DecidableEq, Repr

/-- An event record before it is written (R341). -/
structure EventRec where
  ty      : BitVec 8
  queue   : BitVec 16
  dseq    : Word
  code    : Word
  payload : List Byte
  deriving DecidableEq, Repr

/-- A virtual device's context and queues of its own (R308, R314, R316, R320, R341). -/
structure VirtDev where
  vd      : BitVec 8
  root    : Option Root
  serial  : BitVec 29
  faults  : List FaultRec
  /-- Records in the die's buffer, in dseq order (R341). -/
  evbuf   : List EventRec
  /-- Records in the reserve (R341): those beyond the buffer's 64. -/
  evresv  : List EventRec
  /-- Page-fault payloads whose producers wait for room in the buffer (R341). -/
  evwait  : List (List Byte)
  dseq    : Word
  halted  : List (BitVec 16)
  raised  : List HaltPend
  frozen  : List Frozen
  pginv   : Option DWord
  slots   : List Nat
  /-- VDSTOP holds: no block is admitted (R378). -/
  held    : Bool
  /-- Energy metered in the current window, by node VA (R335). -/
  energy  : List (DWord × Nat)
  deriving DecidableEq, Repr

/-- A partition (R305). -/
structure Partition where
  num  : BitVec 6
  clu  : DWord
  l2b  : BitVec 128
  chan : DWord
  eng  : BitVec 32
  deriving DecidableEq, Repr

/-- A line of an L2 or LLC at its home: the point of coherence (R259, R268, R274, R282). `State.home` lists
lines in the order of their last use, the latest last (R314). -/
structure HomeLine where
  die   : BitVec 2
  vd    : BitVec 8
  va    : Va
  bytes : List Byte
  dirty : BitVec 128
  leaf  : Leaf
  inL2  : Bool
  deriving DecidableEq, Repr

/-- A line of a die's RDC, in the order of last use as those of `State.home`, with the handle-table index it was filled through and the stores of the
die that passed it and have not arrived (R173, R259, R288). -/
structure RdcLine where
  die    : BitVec 2
  key    : LineKey
  bytes  : List Byte
  hidx   : Nat
  leaf   : Option Leaf
  passed : List Nat
  deriving DecidableEq, Repr

/-- A line of a core's L1, with byte-valid marks, the handle-table index it was filled through,
and the stores not yet acknowledged that keep it (R171, R172, R174). -/
structure L1Line where
  core  : BitVec 9
  key   : LineKey
  bytes : List Byte
  valid : BitVec 128
  hidx  : Nat
  leaf  : Option Leaf
  keep  : List Nat
  deriving DecidableEq, Repr

/-- A drained store on its way to its home, or, once it has arrived, its acknowledgment on the way back; or what
another party writes, `who` (R10, R172, R173, R263). -/
structure Flight where
  id       : Nat
  grp      : Nat
  who      : Option Asker
  vd       : BitVec 8
  core     : BitVec 9
  tr       : Transit
  entry    : SbEntry
  arrived  : Bool
  /-- The acknowledgment's deadline (R263); `some 0` once it has expired (R264). -/
  deadline : Option Nat
  deriving DecidableEq, Repr

/-- What an access needs of a leaf, and a request of a home die (R259, R263, R270). -/
inductive Access where
  | read | write | atomic | fetch
  deriving DecidableEq, Repr

/-- A request from a die to a line's home on its way, with its deadline, and the stores of the die that have passed
the RDC's place for its line since it was sent (R10, R173, R259, R263). -/
structure Request where
  n        : Nat
  src      : BitVec 2
  who      : Asker
  vd       : BitVec 8
  home     : BitVec 2
  key      : LineKey
  kind     : Access
  hidx     : Nat
  deadline : Nat
  tr       : Transit
  passed   : List Nat
  deriving DecidableEq, Repr

/-- The answer to a request on its way back, and whether it has reached its asker, which takes it up when it
next acts (R10, R263, R267). -/
structure Response where
  n     : Nat
  req   : Request
  res   : LineResult
  tr    : Transit
  there : Bool
  deriving DecidableEq, Repr

/-- A cached walk (R271). -/
structure Walk where
  die  : BitVec 2
  vd   : BitVec 8
  vpn  : BitVec 40
  leaf : Leaf
  deriving DecidableEq, Repr

/-- A translation in die 0's address translation cache (R277). -/
structure AtcEntry where
  vd  : BitVec 8
  vpn : BitVec 48
  hpn : BitVec 48
  r   : Bool
  w   : Bool
  deriving DecidableEq, Repr

/-- A request at the Reeve (R204, R206, R209). -/
structure ReeveReq where
  id     : Nat
  path   : PathRef
  blk    : Nat
  ty     : RType
  amt    : Nat
  raise  : Bool
  /-- ACQ.try: a deferral answers 0 (R214). -/
  try'   : Bool
  /-- The effective set, for a trap's record (R217). -/
  lanes  : Word
  passed : Nat
  frozen : Bool
  deriving DecidableEq, Repr

/-- A cluster: the Reeve's queue and deferred list, oldest first, and whether deferred requests are
due for a test (R206 to R209). -/
structure Cluster where
  id       : BitVec 6
  queue    : List ReeveReq
  deferred : List ReeveReq
  retest   : List Nat
  deriving DecidableEq, Repr

/-- A path's dispatch record at its core: the cycle it dispatched last and how often it has been
passed over since (R150, R151). -/
structure PickState where
  path   : PathRef
  last   : Nat
  passed : Nat
  deriving DecidableEq, Repr

/-- A core: its cycle count, trap permits, dispatcher, array queue and sub-arrays (R150, R151,
R154, R155, R236, R237, R239). -/
structure Core where
  id      : BitVec 9
  cycle   : Nat
  permits : Nat
  /-- Permits held for paths that have backed off the longest, and until which cycle (R155). -/
  holds   : List (PathRef × Nat)
  picks   : List PickState
  pinned  : Option PathRef
  array   : List ArrayOp
  /-- The units that cannot start an instruction yet, and the cycle from which they can (R396). -/
  busy    : List (IssuePort × Nat)
  /-- The sub-arrays are awake; core cycles without an MMA while awake, or of waking; the idle time in
  force for this idle period, 0 for no gating (R239). -/
  awake   : Bool
  idle    : Nat
  gate    : Nat
  removed : Bool
  deriving DecidableEq, Repr

/-- A token bucket of a virtual device at an arbiter: in units of 1/1,024 token, and its deficit
in the round-robin (R312). -/
structure Bucket where
  arb     : BitVec 3
  inst    : Nat
  vd      : BitVec 8
  b       : Nat
  deficit : Nat
  lent    : Bool
  deriving DecidableEq, Repr

/-- A flit a port keeps until it is acknowledged (R387). -/
structure SentFlit where
  flit    : Flit
  replays : Nat
  tag     : Option Word
  deriving DecidableEq, Repr

/-- A transaction that a port has still to send: the virtual device whose tokens pay, the virtual channel, the
request's tag, whether its first flit has gone, and the payloads of the flits to go (R311, R386, R388). -/
structure Sending where
  vd    : BitVec 8
  vc    : BitVec 3
  tag   : Option Word
  begun : Bool
  rest  : List (List Byte)
  deriving DecidableEq, Repr

/-- The state of a fabric port, as FPSTAT reports it (R386). -/
inductive PortState where
  | down | training | up | failed
  deriving DecidableEq, Repr

/-- A fabric port; `ackAt` is when its replay timer started last: at an acknowledgment, at a replay, or at the
first flit it keeps (R386, R387). -/
structure Port where
  num      : BitVec 4
  state    : PortState
  sendSeq  : BitVec 12
  expSeq   : BitVec 12
  queue    : List Sending
  sent     : List SentFlit
  nakSent  : Bool
  downAt   : Option Nat
  ackAt    : Nat
  deriving DecidableEq, Repr

/-- The kinds of fabric transaction a Carter sends (R388). -/
inductive TxnKind where
  | read | write | addFp32 | addBf16
  deriving DecidableEq, Repr

/-- A fabric request without its reply (R388): the operation it belongs to, its place in it, and
its deadline, once its last flit is sent. -/
structure SentTxn where
  tag      : Word
  kind     : TxnKind
  blk      : Nat
  ch       : Nat
  op       : Nat
  off      : Nat
  len      : Nat
  deadline : Option Nat
  deriving DecidableEq, Repr

/-- A message the device has sent out of the package (R277, R341, R371, R374, R387). -/
inductive Message where
  | msix (vd : BitVec 8) (vec : Nat)
  | pri (vd : BitVec 8) (vpn : BitVec 48) (tag : Nat)
  | flit (port : BitVec 4) (f : Flit)
  | report (bytes : List Byte)
  deriving DecidableEq, Repr

/-- An outstanding PRI page request (R277). -/
structure PriReq where
  tag   : Nat
  vd    : BitVec 8
  vpn   : BitVec 48
  owner : FaultOwner
  deriving DecidableEq, Repr

/-- The package's idle states (R362). -/
inductive PowerState where
  | active | gated | retention | deep
  deriving DecidableEq, Repr

/-- A firmware image: its version number and its bytes (R369). -/
structure Image where
  svn  : BitVec 32
  body : List Byte
  deriving DecidableEq, Repr

/-- A partition change in progress (R318). -/
structure PartChange where
  part : BitVec 6
  want : Option Partition
  deriving DecidableEq, Repr

/-- The path that acts, the address after its instruction, and whether that instruction closes its
clause: what fetching found (R34, R36). -/
structure Cur where
  p    : PathRef
  next : Va
  last : Bool
  deriving DecidableEq, Repr

/-- What happens next (log 1, DESIGN CHOICE): a device step of the opcode table, one instruction of a path, or a
choice the manual leaves to the device: a line's eviction (R276, R283), the loss of a cached walk
(R271), the passing of time (R13), the host's setting of VF Enable in PCIe's configuration space
(R322, R374), a core's removal and return (R319). -/
inductive Item where
  | ev (i : Instr)
  | run (p : PathRef)
  /-- A path's oldest instruction, which has executed, retires. -/
  | retire (p : PathRef)
  /-- A fabric port gives up a flit it has replayed 8 times, and goes down (R387). -/
  | portLost (n : BitVec 4)
  /-- A window of 1 ms ends: the package's power is held at its limit (R361). -/
  | powerWindow
  | evictHome (die : BitVec 2) (vd : BitVec 8) (va : Va)
  | evictRdc (die : BitVec 2) (key : LineKey)
  | evictL1 (core : BitVec 9) (key : LineKey)
  | dropWalk (die : BitVec 2) (vd : BitVec 8) (vpn : BitVec 40)
  | tick (n : Nat)
  | setVfEnable
  | removeCore (core : BitVec 9) (out : Bool)
  /-- An uncorrectable soft error in on-chip state that a fault domain owns (R320). -/
  | softError (vd : BitVec 8) (fdom : BitVec 16)
  deriving DecidableEq, Repr

/-- The package's state (R12, R86). The last four fields are the model's own (logs 1, 4). -/
structure State where
  timebase : DWord
  mfg      : Bool
  clkFault : Bool
  recovery : Bool
  staging  : Memory
  fusedSvn : BitVec 32
  /-- The fused vendor key digest (R369). -/
  keyDigest : List Byte
  image    : Image
  defects  : List (BitVec 2 × Memory)
  power    : PowerState
  idleAt   : Option Nat
  clocks   : List (BitVec 8)
  vfEnable : Bool
  /-- The number of the energy window in force (R335). -/
  window   : Nat
  regs     : List (Nat × DWord)
  mem      : Memory
  cxlBytes : List Nat
  home     : List HomeLine
  rdc      : List RdcLine
  l1       : List L1Line
  walks    : List Walk
  atc      : List AtcEntry
  flight   : List Flight
  reqs     : List Request
  resps    : List Response
  priReqs  : List PriReq
  vds      : List VirtDev
  parts    : List Partition
  partPend : Option PartChange
  threads  : List Thread
  grids    : List Grid
  blocks   : List Block
  groups   : List Group
  cores    : List Core
  clusters : List Cluster
  buckets  : List Bucket
  ports    : List Port
  txns     : List SentTxn
  bist     : List (BitVec 2 × Nat)
  margin   : List (BitVec 2 × Nat)
  out      : List Message
  agenda   : List Item
  cur      : Option Cur
  free     : Nat
  nextId   : Nat
  deriving DecidableEq, Repr

/-- Why a step cannot go on: states no run from reset reaches. -/
inductive Fault where
  /-- Raised by a meaning whose acting path, group, block or grid is not in the state: a dangling
  reference of the model's own bookkeeping. Safe: no run from reset meets it. -/
  | dangling
  deriving DecidableEq, Repr

/-- Why there is no meaning. -/
inductive Refusal where
  /-- Raised only by an arm of `exec` whose instruction is not modelled yet. Safe. -/
  | notModelled (mnemonic : String)
  /-- Raised by an instruction word executed with no acting path, which `step` never does. Safe. -/
  | noPath
  deriving DecidableEq, Repr

/-- The fused record of die `d` at reset, whose serial is 0, whose disabled cluster is 15, whose
highest clock is 72 x 25 MHz and that has no spare entries; `crc` is its CRC-32C, low byte first
(R368; log 3, DESIGN CHOICE). -/
def fuseRecord (d : Byte) (crc : List Host.Cell) : Memory :=
  [(0, 0x44), (1, 0x4D), (2, 0x41), (3, 0x50), (4, 1)] ++ (if d = 0 then [] else [(6, d)]) ++
    [(0x10, 15), (0x11, 72)] ++ crc

/-- The package right after a cold reset, its bring-up complete and no time counted for it (R372):
nothing placed, nothing cached, every register at its reset value, memory with nothing listed.
Fields the manual gives no reset value hold those of log 3. -/
def State.reset : State :=
  { timebase := 0, mfg := false, clkFault := false, recovery := false, staging := [],
    fusedSvn := 0, keyDigest := List.replicate 32 0, image := ⟨0, []⟩,
    defects :=
      [(0, fuseRecord 0 [(0xFFC, 0x99), (0xFFD, 0x4C), (0xFFE, 0x05), (0xFFF, 0x5C)]),
       (1, fuseRecord 1 [(0xFFC, 0x37), (0xFFD, 0x4D), (0xFFF, 0xC8)]),
       (2, fuseRecord 2 [(0xFFC, 0x34), (0xFFD, 0x39), (0xFFE, 0xE3), (0xFFF, 0x71)]),
       (3, fuseRecord 3 [(0xFFC, 0x9A), (0xFFD, 0x38), (0xFFE, 0xE6), (0xFFF, 0xE5)])],
    power := .active, idleAt := none, clocks := [72, 72, 72, 72], vfEnable := false, window := 0,
    regs := [], mem := [], cxlBytes := [2 ^ 40, 2 ^ 40, 2 ^ 40, 2 ^ 40], home := [], rdc := [],
    l1 := [], walks := [], atc := [], flight := [], reqs := [], resps := [], priReqs := [],
    vds := [], parts := [], partPend := none, threads := [], grids := [], blocks := [],
    groups := [], cores := [], clusters := [], buckets := [], ports := [], txns := [], bist := [],
    margin := [], out := [], agenda := [], cur := none, free := 0, nextId := 0 }


end Sys2Proof.Machine
end

