-- ==== Sys2Proof/Machine/Bits.lean ====
section
/-!
DEFINITION. Lane masks, byte lists and memory in its canonical form (R3, R46, R103).
The model's own choices here: DESIGN CHOICE, log 2.
-/
namespace Sys2Proof.Machine

/-- All 32 lanes. -/
def allLanes : Word := 0xFFFFFFFF

/-- The 32 lanes of a v-register from a value for each lane (R103). -/
def lanesOf (f : Nat → Word) : Lanes := (List.range 32).map f

/-- Lane `l` of a v-register's lanes. -/
def laneAt (v : Lanes) (l : Nat) : Word := v.getD l 0

/-- Lane `l` of a mask (R103). -/
def bitAt (m : Word) (l : Nat) : Bool := m.getLsbD l

/-- The mask of the lanes at which `f` holds. -/
def maskOf (f : Nat → Bool) : Word :=
  (List.range 32).foldl (fun acc l => if f l then acc ||| BitVec.ofNat 32 (2 ^ l) else acc) 0

/-- The lanes of a mask in ascending order. -/
def lanesIn (m : Word) : List Nat := (List.range 32).filter (bitAt m)

/-- The lowest lane of a mask, if it has one. -/
def lowLane (m : Word) : Option Nat := (lanesIn m).head?

/-- The number of set lanes. -/
def popWord (m : Word) : Nat := (lanesIn m).length

/-- The low `n` bytes of a number, little-endian (R3). -/
def bytesOfNat : Nat → Nat → List Byte
  | 0, _ => []
  | n + 1, v => BitVec.ofNat 8 v :: bytesOfNat n (v / 256)

/-- The number little-endian bytes hold (R3). -/
def natOfBytes : List Byte → Nat
  | [] => 0
  | b :: t => b.toNat + 256 * natOfBytes t

/-- The byte at an address: what the list holds, or what an unlisted address reads as. -/
def Memory.read : Memory → Nat → Byte
  | [], _ => Memory.dflt
  | (k, v) :: t, a => if a < k then Memory.dflt else if a = k then v else Memory.read t a

/-- Stores one byte and keeps the canonical form: writing what an unlisted address reads as
removes the entry. -/
def Memory.write : Memory → Nat → Byte → Memory
  | [], a, b => if b = Memory.dflt then [] else [(a, b)]
  | (k, v) :: t, a, b =>
    if a < k then (if b = Memory.dflt then (k, v) :: t else (a, b) :: (k, v) :: t)
    else if a = k then (if b = Memory.dflt then t else (k, b) :: t)
    else (k, v) :: Memory.write t a b

/-- The canonical form: addresses strictly rise, and no entry equals what an unlisted address
reads as. -/
def Memory.wf : Memory → Bool
  | [] => true
  | [(_, v)] => v != Memory.dflt
  | (k, v) :: (k', v') :: t => v != Memory.dflt && k < k' && Memory.wf ((k', v') :: t)

/-- The cells from an address on, in a memory whose addresses rise. -/
def Memory.seek : Memory → Nat → Memory
  | [], _ => []
  | (k, v) :: t, a => if k < a then Memory.seek t a else (k, v) :: t

/-- The `n` bytes from an address on. -/
def Memory.readN (m : Memory) (a : Nat) : Nat → List Byte
  | 0 => []
  | n + 1 => Memory.read (Memory.seek m a) a :: Memory.readN (Memory.seek m a) (a + 1) n

/-- Stores bytes one after another. -/
def Memory.putN : Memory → Nat → List Byte → Memory
  | m, _, [] => m
  | m, a, b :: t => Memory.putN (Memory.write m a b) (a + 1) t

/-- Stores the bytes whose marks are set, one after another. -/
def Memory.putMarked : Memory → Nat → List (Byte × Bool) → Memory
  | m, _, [] => m
  | m, a, (b, k) :: t => Memory.putMarked (if k then Memory.write m a b else m) (a + 1) t

/-- Changes the part of a memory from the first cell at or above an address on. -/
def Memory.splice (f : Memory → Memory) : Memory → Nat → Memory
  | [], _ => f []
  | (k, v) :: t, a => if k < a then (k, v) :: Memory.splice f t a else f ((k, v) :: t)

/-- Stores bytes from an address on. -/
def Memory.writeN (m : Memory) (a : Nat) (bs : List Byte) : Memory :=
  Memory.splice (fun m => Memory.putN m a bs) m a

/-- The bytes from `a` on whose marks are set are stored; the others keep (R172). -/
def Memory.writeMarked (m : Memory) (a : Nat) (bs : List (Byte × Bool)) : Memory :=
  Memory.splice (fun m => Memory.putMarked m a bs) m a

/-- Removes the bytes at addresses `a` and above: they read as unlisted again (R197, R198). -/
def Memory.below (m : Memory) (a : Nat) : Memory := m.filter fun c => c.1 < a

/-- Replaces the marked bytes of `old` by those of `new` (R172). -/
def mergeBytes : List Byte → List Byte → BitVec 128 → Nat → List Byte
  | o :: os, n :: ns, k, i => (if k.getLsbD i then n else o) :: mergeBytes os ns k (i + 1)
  | os, _, _, _ => os

/-- Replaces `bs.length` bytes of a line from offset `o` on. -/
def putBytes (line : List Byte) (o : Nat) (bs : List Byte) : List Byte :=
  line.take o ++ bs ++ line.drop (o + bs.length)

/-- The marks of `n` bytes from offset `o` on. -/
def marksOf (o n : Nat) : BitVec 128 := BitVec.ofNat 128 ((2 ^ n - 1) * 2 ^ o)

/-- 128 zero bytes. -/
def zeroLine : List Byte := List.replicate 128 0

/-- The first element of the list that `p` picks is replaced. -/
def replaceFirst {α : Type} (p : α → Bool) (f : α → α) : List α → List α
  | [] => []
  | x :: t => if p x then f x :: t else x :: replaceFirst p f t

/-- Replaces the first element `p` picks, or appends `x` when there is none. -/
def upsert {α : Type} (p : α → Bool) (x : α) : List α → List α
  | [] => [x]
  | y :: t => if p y then x :: t else y :: upsert p x t

/-- Removes the first element `p` picks. -/
def removeFirst {α : Type} (p : α → Bool) : List α → List α
  | [] => []
  | x :: t => if p x then t else x :: removeFirst p t

end Sys2Proof.Machine
end

