-- ==== Sys2Proof/Machine/Rename.lean ====
section
/-!
DEFINITION. A group's registers: scalar and predicate registers, and v-registers through the
rename maps of its two slots (R86, R87, R93 to R96, R118, R148).
The model's own choices here: DESIGN CHOICE, logs 9, 39.
-/
namespace Sys2Proof.Machine

/-- The path in a slot (R86). -/
def Group.path (g : Group) (slot : Bool) : Option Path := if slot then g.slot1 else g.slot0

/-- Puts a path into a slot, or empties it. -/
def Group.setPath (g : Group) (slot : Bool) (p : Option Path) : Group :=
  if slot then { g with slot1 := p } else { g with slot0 := p }

/-- Register s`r`; s0 reads 0 (R86). -/
def Group.sreg (g : Group) (r : BitVec 6) : DWord :=
  if r = 0 then 0 else g.sregs.getD r.toNat 0

/-- Writes s`r`; a write to s0 is discarded (R38). -/
def Group.setSreg (g : Group) (r : BitVec 6) (v : DWord) : Group :=
  if r = 0 then g else { g with sregs := g.sregs.set r.toNat v }

/-- Predicate p`r`; p0 reads all ones (R86). -/
def Group.pred (g : Group) (r : BitVec 6) : Word :=
  if r = 0 then allLanes else g.preds.getD r.toNat 0

/-- Writes the lanes `e` of p`r`; a write to p0 is discarded (R38, R118). -/
def Group.setPred (g : Group) (r : BitVec 6) (e v : Word) : Group :=
  if r = 0 then g
  else { g with preds := g.preds.set r.toNat ((g.pred r &&& ~~~e) ||| (v &&& e)) }

/-- Guard p`g` of an instruction (R46). -/
def Group.guard (g : Group) (n : BitVec 3) : Word := g.pred (n.setWidth 6)

/-- A path's lanes, those that wait at its resume point included (R99, R154). -/
def Path.lanes (p : Path) : Word :=
  match p.handler with
  | some h => p.mask ||| h.rest
  | none => p.mask

/-- The lanes of an optional path. -/
def pathLanes : Option Path → Word
  | some p => p.lanes
  | none => 0

/-- The lanes a rename map holds: M1 those of the slot-1 path, M0 every other live lane (R93). -/
def Group.held (g : Group) (slot : Bool) : Word :=
  if slot then pathLanes g.slot1
  else g.stack.foldl (fun m q => m ||| q.lanes) (pathLanes g.slot0)

/-- The group's live lanes (R113). -/
def Group.live (g : Group) : Word := g.held false ||| g.held true

/-- A rename map's entry for v`r`; a map that names nothing reads zero (R93). -/
def mapEntry (m : List MapEntry) (r : Nat) : MapEntry := m.getD r ⟨none, 0⟩

/-- The rename map of a slot. -/
def Group.map (g : Group) (slot : Bool) : List MapEntry := if slot then g.m1 else g.m0

/-- Sets the rename map of a slot. -/
def Group.setMap (g : Group) (slot : Bool) (m : List MapEntry) : Group :=
  if slot then { g with m1 := m } else { g with m0 := m }

/-- The lanes of a physical register. -/
def Group.physLanes (g : Group) (n : Nat) : Lanes :=
  match g.phys.find? fun q => q.num == n with
  | some q => q.lanes
  | none => []

/-- What lane `l` of a v-register reads under one map entry (R93, R96). -/
def Group.entryLane (g : Group) (e : MapEntry) (l : Nat) : Word :=
  match e.name with
  | none => 0
  | some n => if bitAt e.zero l then 0 else laneAt (g.physLanes n) l

/-- Lane `l` of v`r` under a slot's map: lanes the map does not hold read zero (R93, R94). -/
def Group.vlane (g : Group) (slot : Bool) (r l : Nat) : Word :=
  if bitAt (g.held slot) l then g.entryLane (mapEntry (g.map slot) r) l else 0

/-- The 32 lanes of v`r` under a slot's map. -/
def Group.vreg (g : Group) (slot : Bool) (r : Nat) : Lanes := lanesOf (g.vlane slot r)

/-- Frees the physical registers that no rename map names (R96, R148). -/
def Group.freePhys (g : Group) : Group :=
  { g with phys := g.phys.filter fun q =>
      (g.m0.any fun e => e.name == some q.num) || (g.m1.any fun e => e.name == some q.num) }

/-- The lowest number, counted from the group's own 96, that no physical register has: one is free among
as many as the group holds and one more (R12, R148; log 9, DESIGN CHOICE). -/
def Group.newPhys (g : Group) : Nat :=
  let base := 96 * g.place.toNat
  match (List.range (g.phys.length + 1)).find? fun k => !(g.phys.any fun q => q.num == base + k) with
  | some k => base + k
  | none => base

/-- A map of 64 entries that names nothing. -/
def emptyMap : List MapEntry := List.replicate 64 ⟨none, 0⟩

/-- v`r` under a slot's map becomes a new physical register with these lanes, its zero mask clear
(R94, R96). -/
def Group.nameV (g : Group) (slot : Bool) (r : Nat) (v : Lanes) : Group :=
  let n := g.newPhys
  let g := { g with phys := ⟨n, v⟩ :: g.phys }
  (g.setMap slot ((g.map slot).set r ⟨some n, 0⟩)).freePhys

/-- Writes the lanes `e` of v`r`; the other lanes keep what the map's version reads (R94). -/
def Group.setV (g : Group) (slot : Bool) (r : Nat) (e : Word) (v : Lanes) : Group :=
  g.nameV slot r (lanesOf fun l => if bitAt e l then laneAt v l else g.vlane slot r l)

/-- Whether `k` writes find rename registers: all but the two of the merge reserve (R94, R148); an
instruction that writes none needs none. -/
def Group.canWrite (g : Group) (k : Nat) : Bool := k == 0 || g.phys.length + k ≤ g.regn + 30

/-- A last-use mark on v`r` takes effect for the path in `slot` whose executing lanes are `m`
(R47, R96). -/
def Group.markV (g : Group) (slot : Bool) (m : Word) (r : Nat) : Group :=
  let e := mapEntry (g.map slot) r
  if g.held slot == m then (g.setMap slot ((g.map slot).set r ⟨none, 0⟩)).freePhys
  else match e.name with
    | none => g
    | some _ => g.setMap slot ((g.map slot).set r { e with zero := e.zero ||| m })

/-- Compaction: for each v-register named differently, the slot-1 lanes are folded into M0 and M1
takes M0's new name (R148). -/
def Group.compact (g : Group) : Group :=
  (List.range 64).foldl (fun g r =>
    let e1 := mapEntry g.m1 r
    let e0 := mapEntry g.m0 r
    if e1 == e0 then g
    else
      let l := g.held true
      let n := g.newPhys
      let v := lanesOf fun i => if bitAt l i then g.entryLane e1 i else g.entryLane e0 i
      { g with phys := ⟨n, v⟩ :: g.phys, m0 := g.m0.set r ⟨some n, 0⟩,
               m1 := g.m1.set r ⟨some n, 0⟩, merges := g.merges + 1 }.freePhys) g

/-- A fold of lanes `l` from map `x` into map `y`: one merge micro-operation for each v-register
the two name differently, a zero mask that differs counting as that (R95). One that would leave no register
of the group's limit free is preceded by a compaction (R148; log 9, DESIGN CHOICE). -/
def Group.fold (g : Group) (l : Word) (x y : Bool) : Group :=
  (List.range 64).foldl (fun g r =>
    let ex := mapEntry (g.map x) r
    let ey := mapEntry (g.map y) r
    if ex == ey then g
    else if g.regn + 30 < g.phys.length then g.compact
    else
      { g.nameV y r (lanesOf fun i => if bitAt l i then g.entryLane ex i else g.entryLane ey i) with
        folds := g.folds + 1 }) g

/-- M1 := M0 (R95). -/
def Group.copyMap (g : Group) : Group := { g with m1 := g.m0 }

/-- M1 names nothing while slot 1 is empty (R93). -/
def Group.dropMap (g : Group) : Group := { g with m1 := [] }.freePhys

/-- The registers a group holds when it first becomes resident with `n` v-registers (R86, R334). -/
def zeroSregs : List DWord := List.replicate 63 0

/-- p0 to p7 at launch: p1 to p7 are zero (R86). -/
def zeroPreds : List Word := List.replicate 8 0

end Sys2Proof.Machine
end

