-- ==== Sys2Proof/Machine/Flags.lean ====
section
/-!
DEFINITION. The sticky flags of FSTAT, and the integer results that set them (R20, R25, R26, R41).
The model's own choices here: DEDUCED, logs 11, 44.
-/
namespace Sys2Proof.Machine

/-- INX: a rounding step changed the value (R25). -/
def flInx : Word := 0x01
/-- SAT: a value was replaced by a saturation or clamp bound (R25). -/
def flSat : Word := 0x02
/-- OVF: a rounded magnitude exceeded the largest finite value (R25). -/
def flOvf : Word := 0x04
/-- DZ: division by zero, or logarithm of zero (R25). -/
def flDz : Word := 0x08
/-- INV: an invalid operation, or a signalling NaN operand (R25). -/
def flInv : Word := 0x10
/-- NL: a NaN converted to an integer (R25). -/
def flNl : Word := 0x20

/-- A flag where a condition holds. -/
def flagIf (c : Bool) (f : Word) : Word := if c then f else 0

/-- The OR of the conditions the lanes of `e` met (R26). -/
def laneFlags (e : Word) (f : Nat → Word) : Word :=
  (lanesIn e).foldl (fun acc l => acc ||| f l) 0

/-- FSTAT takes an instruction's conditions at its retirement (R26). -/
def Group.setFlags (g : Group) (f : Word) : Group := { g with fstat := g.fstat ||| f }

/-- The nearer end of a range, or the value itself (R20). -/
def clampInt (lo hi x : Int) : Int := if x < lo then lo else if hi < x then hi else x

/-- The least signed value of `n` bits. -/
def sMin (n : Nat) : Int := -(2 : Int) ^ (n - 1)
/-- The greatest signed value of `n` bits. -/
def sMax (n : Nat) : Int := (2 : Int) ^ (n - 1) - 1
/-- The greatest unsigned value of `n` bits. -/
def uMax (n : Nat) : Int := (2 : Int) ^ n - 1

/-- A value clamped to a range, with SAT where that changed it (R20, R24). -/
def saturated (n : Nat) (lo hi x : Int) : BitVec n × Word :=
  let y := clampInt lo hi x
  (BitVec.ofInt n y, flagIf (y != x) flSat)

/-- Whether the modifier word asks for "saturate to destination" (R20, R41). -/
def wantsSat (md : Option ModWord) : Bool :=
  match md with
  | some m => m.rm == .sat
  | none => false

/-- A signed integer result of `n` bits: clamped under rm = 1, with SAT if that changed it;
otherwise modulo 2^n (R20, R119, R126). -/
def signedResult (n : Nat) (md : Option ModWord) (r : Int) : BitVec n × Word :=
  if wantsSat md then saturated n (sMin n) (sMax n) r else (BitVec.ofInt n r, 0)

/-- Absolute value first, then negation, both modulo 2^n (R41, R117). -/
def absNeg {n : Nat} (abs neg : Bool) (x : BitVec n) : BitVec n :=
  let y := if abs && x.msb then -x else x
  if neg then -y else y

/-- An unsigned source's absolute value is itself; the negate bit then acts modulo 2^n (R41). -/
def uAbsNeg {n : Nat} (neg : Bool) (x : BitVec n) : BitVec n := if neg then -x else x

/-- Source a after the modifier word. -/
def modA {n : Nat} (md : Option ModWord) (x : BitVec n) : BitVec n :=
  match md with
  | some m => absNeg m.aa m.na x
  | none => x

/-- Source b after the modifier word. -/
def modB {n : Nat} (md : Option ModWord) (x : BitVec n) : BitVec n :=
  match md with
  | some m => absNeg m.ab m.nb x
  | none => x

/-- Source c after the modifier word. -/
def modC {n : Nat} (md : Option ModWord) (x : BitVec n) : BitVec n :=
  match md with
  | some m => absNeg m.ac m.nc x
  | none => x

/-- Whether a condition holds of two integers (R107, R122, R129). -/
def condHolds (cc : Cond) (a b : Int) : Bool :=
  match cc with
  | .eq => a == b
  | .ne => a != b
  | .lt => decide (a < b)
  | .ge => decide (b ≤ a)
  | .gt => decide (b < a)
  | .le => decide (a ≤ b)

/-- A comparison of two words of `n` bits, signed unless `u` (R122, R129). -/
def compareCc {n : Nat} (cc : Cond) (u : Bool) (a b : BitVec n) : Bool :=
  if u then condHolds cc (a.toNat : Int) (b.toNat : Int) else condHolds cc a.toInt b.toInt

/-- Whether a comparison is unsigned: u changes nothing for = and not-equal (R122, R129). -/
def unsignedCc (cc : Cond) (u : Bool) : Bool :=
  match cc with
  | .eq | .ne => false
  | .lt | .ge | .gt | .le => u

/-- SCMP and VCMP on their sources after the modifier word: of an unsigned comparison's the absolute value is the
source unchanged (R41, R122, R129; log 44, DEDUCED). -/
def compareMod {n : Nat} (cc : Cond) (u : Bool) (md : Option ModWord) (a b : BitVec n) : Bool :=
  let abs (on : Bool) : Bool := on && !unsignedCc cc u
  match md with
  | some m => compareCc cc u (absNeg (abs m.aa) m.na a) (absNeg (abs m.ab) m.nb b)
  | none => compareCc cc u a b

/-- The leading zero bits of an `n`-bit word (R124, R128). -/
def clz {n : Nat} (x : BitVec n) : Nat :=
  match (List.range n).find? fun k => x.getLsbD (n - 1 - k) with
  | some k => k
  | none => n

/-- The one bits of a word (R124, R128). -/
def popBits {n : Nat} (x : BitVec n) : Nat := ((List.range n).filter fun k => x.getLsbD k).length

/-- Shift left; a count of the width or more gives 0 (R121, R128). -/
def shiftL {n : Nat} (x c : BitVec n) : BitVec n :=
  if n ≤ c.toNat then 0 else x <<< c.toNat

/-- Shift right with zero fill; a count of the width or more gives 0 (R121, R128). -/
def shiftR {n : Nat} (x c : BitVec n) : BitVec n :=
  if n ≤ c.toNat then 0 else x >>> c.toNat

/-- Shift right with sign fill; a count of the width or more gives 0 or -1 (R121, R128). -/
def shiftA {n : Nat} (x c : BitVec n) : BitVec n :=
  if n ≤ c.toNat then (if x.msb then BitVec.allOnes n else 0) else x.sshiftRight c.toNat

end Sys2Proof.Machine
end

