-- ==== Sys2Proof/Machine/Float.lean ====
section
/-!
DEFINITION. Floating-point values, the one rounding step and the result modes (R17, R18, R21 to
R24). Values are exact: a magnitude m x 2^e, with a mark where a part below m's last bit is left.
The model's own choices here: DEDUCED, log 11.
-/
namespace Sys2Proof.Machine

/-- A binary format: exponent and fraction widths (R17). -/
structure FloatFmt where
  eb : Nat
  fb : Nat
  deriving DecidableEq, Repr

/-- FP32 (R17). -/
def fmt32 : FloatFmt := ⟨8, 23⟩
/-- FP16 (R17). -/
def fmt16 : FloatFmt := ⟨5, 10⟩
/-- BF16 (R17). -/
def fmtBf : FloatFmt := ⟨8, 7⟩

/-- The exponent bias. -/
def fmtBias (f : FloatFmt) : Nat := 2 ^ (f.eb - 1) - 1

/-- The exponent of the format's smallest unit. -/
def fmtUnit (f : FloatFmt) : Int := 1 - (fmtBias f : Int) - (f.fb : Int)

/-- A number as its format holds it: NaN (signalling or quiet), infinity, or a sign and an exact
magnitude m x 2^e. -/
inductive FVal where
  | nan (sig : Bool)
  | inf (neg : Bool)
  | fin (neg : Bool) (m : Nat) (e : Int)
  deriving DecidableEq, Repr

/-- Reads a number of a format (R17). -/
def unpack (f : FloatFmt) (x : Nat) : FVal :=
  let fr := x % 2 ^ f.fb
  let ex := x / 2 ^ f.fb % 2 ^ f.eb
  let neg := x / 2 ^ (f.fb + f.eb) % 2 == 1
  if ex == 2 ^ f.eb - 1 then
    if fr == 0 then .inf neg else .nan (fr < 2 ^ (f.fb - 1))
  else if ex == 0 then .fin neg fr (fmtUnit f)
  else .fin neg (fr + 2 ^ f.fb) (fmtUnit f + (ex : Int) - 1)

/-- The canonical NaN of a format (R17). -/
def canonNan (f : FloatFmt) : Nat := (2 ^ f.eb - 1) * 2 ^ f.fb + 2 ^ (f.fb - 1)

/-- The sign bit of a format. -/
def signBit (f : FloatFmt) (neg : Bool) : Nat := if neg then 2 ^ (f.fb + f.eb) else 0

/-- The infinity of a sign. -/
def infBits (f : FloatFmt) (neg : Bool) : Nat := signBit f neg + (2 ^ f.eb - 1) * 2 ^ f.fb

/-- The largest finite magnitude of a sign (R17). -/
def maxBits (f : FloatFmt) (neg : Bool) : Nat := infBits f neg - 1

/-- Absolute value first, then negation; exact (R22 step 1). -/
def FVal.absNeg (abs neg : Bool) : FVal → FVal
  | .nan s => .nan s
  | .inf n => .inf ((n && !abs) != neg)
  | .fin n m e => .fin ((n && !abs) != neg) m e

/-- An operation's exact result before scaling and rounding: `num` is the magnitude m x 2^e, or
one strictly between m and m + 1 units where `st` is set. `fl` is the flags met so far (R22
step 2, R23). -/
inductive FRes where
  | nan
  | inf (neg : Bool)
  | num (neg : Bool) (m : Nat) (e : Int) (st : Bool)
  deriving DecidableEq, Repr

/-- The number of bits of a magnitude. -/
def bitLen (m : Nat) : Nat := if m = 0 then 0 else Nat.log2 m + 1

/-- Whether a magnitude rounds up: `q` is the kept part, `rem` of `2^k` the rest, `st` a part
below it (R21). -/
def roundsUp (rnd : Rnd) (neg : Bool) (q rem k : Nat) (st : Bool) : Bool :=
  match rnd with
  | .rne => decide (2 ^ k < 2 * rem) || (2 * rem == 2 ^ k && 0 < k && (st || q % 2 == 1))
  | .rtz => false
  | .rdn => neg && (rem != 0 || st)
  | .rup => !neg && (rem != 0 || st)

/-- A magnitude rounded to a multiple of `2^u`: the multiple, and whether that changed it. Where
`st` is set, `u` lies above `e`. -/
def roundAt (rnd : Rnd) (neg : Bool) (m : Nat) (e u : Int) (st : Bool) : Nat × Bool :=
  if u ≤ e then (m * 2 ^ (e - u).toNat, st)
  else
    let k := (u - e).toNat
    let q := m / 2 ^ k
    let rem := m % 2 ^ k
    (if roundsUp rnd neg q rem k st then q + 1 else q, rem != 0 || st)

/-- What one rounding to a format gives: bits, whether it changed the value, whether the rounded
magnitude exceeds the largest finite value (R22 steps 4 and 5). -/
structure Rounded where
  bits : Nat
  inx  : Bool
  ovf  : Bool
  deriving DecidableEq, Repr

/-- The result of an overflow under a mode (R22 step 5). -/
def overflowBits (f : FloatFmt) (rnd : Rnd) (neg : Bool) : Nat :=
  match rnd with
  | .rne => infBits f neg
  | .rtz => maxBits f neg
  | .rdn => if neg then infBits f neg else maxBits f neg
  | .rup => if neg then maxBits f neg else infBits f neg

/-- The single rounding to a format, subnormals kept (R18, R22 steps 4 and 5). -/
def roundTo (f : FloatFmt) (rnd : Rnd) (neg : Bool) (m : Nat) (e : Int) (st : Bool) : Rounded :=
  if m = 0 && !st then ⟨signBit f neg, false, false⟩
  else
    let u0 := e + (bitLen m : Int) - (f.fb : Int) - 1
    let u := if u0 < fmtUnit f then fmtUnit f else u0
    let r := roundAt rnd neg m e u st
    let q := if r.1 = 2 ^ (f.fb + 1) then 2 ^ f.fb else r.1
    let u := if r.1 = 2 ^ (f.fb + 1) then u + 1 else u
    let biased := if q < 2 ^ f.fb then 0 else (u - fmtUnit f).toNat + 1
    if 2 ^ f.eb - 1 ≤ biased then ⟨overflowBits f rnd neg, true, true⟩
    else
      let frac := if q < 2 ^ f.fb then q else q - 2 ^ f.fb
      ⟨signBit f neg + biased * 2 ^ f.fb + frac, r.2, false⟩

/-- Whether the magnitude m x 2^e exceeds 1. -/
def aboveOne (m : Nat) (e : Int) : Bool :=
  if 0 ≤ e then decide (1 < m * 2 ^ e.toNat) else decide (2 ^ (-e).toNat < m)

/-- Result mode "saturate": an infinity becomes the largest finite magnitude, with SAT (R22
step 6). -/
def satMode (f : FloatFmt) (x : Nat) : Nat × Word :=
  match unpack f x with
  | .inf neg => (maxBits f neg, flSat)
  | _ => (x, 0)

/-- The bits of 1 with a sign. -/
def oneBits (f : FloatFmt) (neg : Bool) : Nat := signBit f neg + fmtBias f * 2 ^ f.fb

/-- Result modes "clamp to [0,1]" and "clamp to [-1,1]": SAT where they change the result; a NaN
passes (R22 step 6). -/
def clampMode (f : FloatFmt) (lowOne : Bool) (x : Nat) : Nat × Word :=
  let y := match unpack f x with
    | .nan _ => x
    | .inf neg => if neg then (if lowOne then oneBits f true else 0) else oneBits f false
    | .fin neg m e =>
      if neg then
        (if lowOne then (if aboveOne m e then oneBits f true else x) else 0)
      else if aboveOne m e then oneBits f false else x
  (y, flagIf (y != x) flSat)

/-- The result mode of a modifier word (R22 step 6). -/
def resultMode (f : FloatFmt) (rm : RMode) (x : Nat) : Nat × Word :=
  match rm with
  | .none => (x, 0)
  | .sat => satMode f x
  | .c01 => clampMode f false x
  | .c11 => clampMode f true x

/-- The rounding mode of an instruction (R21). -/
def rndOf (md : Option ModWord) : Rnd :=
  match md with
  | some m => m.rnd
  | none => .rne

/-- The result scale (R22 step 3). -/
def scaleOf (md : Option ModWord) : Int :=
  match md with
  | some m => m.k.toInt
  | none => 0

/-- The result mode (R41). -/
def rmOf (md : Option ModWord) : RMode :=
  match md with
  | some m => m.rm
  | none => .none

/-- Steps 3 to 6 of R22 on an exact result; a NaN passes every mode and sets no flag here. -/
def deliverF (f : FloatFmt) (md : Option ModWord) (r : FRes) : Nat × Word :=
  match r with
  | .nan => (canonNan f, 0)
  | .inf neg => resultMode f (rmOf md) (infBits f neg)
  | .num neg m e st =>
    let x := roundTo f (rndOf md) neg m (e + scaleOf md) st
    let y := resultMode f (rmOf md) x.bits
    (y.1, flagIf x.inx flInx ||| flagIf x.ovf flOvf ||| y.2)

/-- Whether any operand is a NaN, and whether any is signalling (R23). -/
def anyNan (l : List FVal) : Bool := l.any fun v => match v with
  | .nan _ => true
  | _ => false

@[inherit_doc anyNan]
def anySig (l : List FVal) : Bool := l.any fun v => match v with
  | .nan s => s
  | _ => false

/-- Runs an operation on operands that are no NaN; a NaN operand gives NaN, a signalling one sets
INV (R23). -/
def nanRule (l : List FVal) (k : FRes × Word) : FRes × Word :=
  if anyNan l then (.nan, flagIf (anySig l) flInv) else k

/-- The exact sum of two signed magnitudes; an exact zero has the sign IEEE 754 gives (R133). -/
def addExact (rnd : Rnd) (n1 : Bool) (m1 : Nat) (e1 : Int) (n2 : Bool) (m2 : Nat) (e2 : Int) : FRes :=
  let e := min e1 e2
  let a : Int := (m1 * 2 ^ (e1 - e).toNat : Nat)
  let b : Int := (m2 * 2 ^ (e2 - e).toNat : Nat)
  let t := (if n1 then -a else a) + (if n2 then -b else b)
  if t = 0 then .num (if n1 == n2 then n1 else rnd == .rdn) 0 e false
  else .num (t < 0) t.natAbs e false

/-- The IEEE 754 sum of two values that are no NaN (R133). -/
def addF (rnd : Rnd) (a b : FVal) : FRes × Word :=
  match a, b with
  | .inf n, .inf n' => if n == n' then (.inf n, 0) else (.nan, flInv)
  | .inf n, _ => (.inf n, 0)
  | _, .inf n => (.inf n, 0)
  | .fin n1 m1 e1, .fin n2 m2 e2 => (addExact rnd n1 m1 e1 n2 m2 e2, 0)
  | _, _ => (.nan, 0)

/-- The IEEE 754 product of two values that are no NaN, exact (R133). -/
def mulV (a b : FVal) : FVal × Word :=
  match a, b with
  | .inf n, .inf n' => (.inf (n != n'), 0)
  | .inf n, .fin n' m _ => if m = 0 then (.nan false, flInv) else (.inf (n != n'), 0)
  | .fin n m _, .inf n' => if m = 0 then (.nan false, flInv) else (.inf (n != n'), 0)
  | .fin n1 m1 e1, .fin n2 m2 e2 => (.fin (n1 != n2) (m1 * m2) (e1 + e2), 0)
  | _, _ => (.nan false, 0)

/-- A value as an exact result. -/
def asRes : FVal → FRes
  | .nan _ => .nan
  | .inf n => .inf n
  | .fin n m e => .num n m e false

/-- The IEEE 754 fused multiply-add (R133). -/
def fmaF (rnd : Rnd) (a b c : FVal) : FRes × Word :=
  match mulV a b with
  | (.nan _, fl) => (.nan, fl)
  | (p, _) => addF rnd p c

/-- The IEEE 754 quotient: DZ for a finite non-zero value by zero (R133). Forty bits of quotient
and a mark for the rest decide every rounding. -/
def divF (a b : FVal) : FRes × Word :=
  match a, b with
  | .inf _, .inf _ => (.nan, flInv)
  | .inf n, .fin n' _ _ => (.inf (n != n'), 0)
  | .fin n _ _, .inf n' => (.num (n != n') 0 0 false, 0)
  | .fin n1 m1 e1, .fin n2 m2 e2 =>
    if m2 = 0 then (if m1 = 0 then (.nan, flInv) else (.inf (n1 != n2), flDz))
    else
      let sh := bitLen m2 + 40
      let q := m1 * 2 ^ sh / m2
      (.num (n1 != n2) q (e1 - e2 - (sh : Int)) (m1 * 2 ^ sh % m2 != 0), 0)
  | _, _ => (.nan, 0)

/-- Whether a value lies below another; -0 lies below +0 (R134). -/
def ltTotal (a b : FVal) : Bool :=
  match a, b with
  | .inf n, .inf n' => n && !n'
  | .inf n, _ => n
  | _, .inf n => !n
  | .fin n1 m1 e1, .fin n2 m2 e2 =>
    if n1 != n2 then n1
    else
      let e := min e1 e2
      let x := m1 * 2 ^ (e1 - e).toNat
      let y := m2 * 2 ^ (e2 - e).toNat
      if n1 then decide (y < x) else decide (x < y)
  | _, _ => false

/-- Whether two values that are no NaN are equal; +0 equals -0 (R135). -/
def eqF (a b : FVal) : Bool :=
  match a, b with
  | .fin _ 0 _, .fin _ 0 _ => true
  | _, _ => !ltTotal a b && !ltTotal b a

/-- The minimum (`mx` false) or maximum of R134: a number beats a NaN, a signalling NaN sets
INV. -/
def minMaxF (mx : Bool) (a b : FVal) : FRes × Word :=
  let fl := flagIf (anySig [a, b]) flInv
  match a, b with
  | .nan _, .nan _ => (.nan, fl)
  | .nan _, y => (asRes y, fl)
  | x, .nan _ => (asRes x, fl)
  | x, y => (asRes (if ltTotal x y == mx then y else x), 0)

/-- A comparison, with INV for a signalling NaN (R135). -/
def compareF (cc : FCond) (a b : FVal) : Bool × Word :=
  let nan := anyNan [a, b]
  let lt := !nan && ltTotal a b && !eqF a b
  let gt := !nan && ltTotal b a && !eqF a b
  let eq := !nan && eqF a b
  (match cc with
   | .eq => eq
   | .ne => !eq
   | .lt => lt
   | .ge => gt || eq
   | .gt => gt
   | .le => lt || eq
   | .ord => !nan
   | .uno => nan, flagIf (anySig [a, b]) flInv)

/-- Source a of a format after na and aa. -/
def srcA (f : FloatFmt) (md : Option ModWord) (x : Nat) : FVal :=
  match md with
  | some m => (unpack f x).absNeg m.aa m.na
  | none => unpack f x

/-- Source b of a format after nb and ab. -/
def srcB (f : FloatFmt) (md : Option ModWord) (x : Nat) : FVal :=
  match md with
  | some m => (unpack f x).absNeg m.ab m.nb
  | none => unpack f x

/-- Source c of a format after nc and ac. -/
def srcC (f : FloatFmt) (md : Option ModWord) (x : Nat) : FVal :=
  match md with
  | some m => (unpack f x).absNeg m.ac m.nc
  | none => unpack f x

/-- Delivers an operation's result and flags (R22). -/
def finishF (f : FloatFmt) (md : Option ModWord) (r : FRes × Word) : Nat × Word :=
  let y := deliverF f md r.1
  (y.1, r.2 ||| y.2)

/-- The two-source operations of R133 and R134. -/
inductive FOp where
  | add | sub | mul | div | min | max
  deriving DecidableEq, Repr

/-- A two-source operation in a format, from operand bits to result bits and flags (R22, R133,
R134). -/
def op2F (f : FloatFmt) (op : FOp) (md : Option ModWord) (x y : Nat) : Nat × Word :=
  let a := srcA f md x
  let b := srcB f md y
  finishF f md (match op with
    | .add => nanRule [a, b] (addF (rndOf md) a b)
    | .sub => nanRule [a, b] (addF (rndOf md) a (b.absNeg false true))
    | .mul => nanRule [a, b] (let p := mulV a b; (asRes p.1, p.2))
    | .div => nanRule [a, b] (divF a b)
    | .min => minMaxF false a b
    | .max => minMaxF true a b)

/-- The fused multiply-add in a format (R133). -/
def op3F (f : FloatFmt) (md : Option ModWord) (x y z : Nat) : Nat × Word :=
  let a := srcA f md x
  let b := srcB f md y
  let c := srcC f md z
  finishF f md (nanRule [a, b, c] (fmaF (rndOf md) a b c))

/-- A function of two words from one of their bits. -/
def onWords (f : Nat → Nat → Nat × Word) (a b : Word) : Word × Word :=
  let r := f a.toNat b.toNat
  (BitVec.ofNat 32 r.1, r.2)

/-- FADD in one lane (R133). -/
def fadd32 (md : Option ModWord) (a b : Word) : Word × Word := onWords (op2F fmt32 .add md) a b
/-- FMIN in one lane (R134). -/
def fmin32 (md : Option ModWord) (a b : Word) : Word × Word := onWords (op2F fmt32 .min md) a b
/-- FMAX in one lane (R134). -/
def fmax32 (md : Option ModWord) (a b : Word) : Word × Word := onWords (op2F fmt32 .max md) a b

/-- A function of both BF16 elements of a lane, element 0 in [15:0] (R19, R139). -/
def onPairs (f : Nat → Nat → Nat × Word) (a b : Word) : Word × Word :=
  let r0 := f (a.toNat % 65536) (b.toNat % 65536)
  let r1 := f (a.toNat / 65536) (b.toNat / 65536)
  (BitVec.ofNat 32 (r1.1 * 65536 + r0.1), r0.2 ||| r1.2)

/-- HADD2 in one lane (R139). -/
def hadd2 (md : Option ModWord) (a b : Word) : Word × Word := onPairs (op2F fmtBf .add md) a b

end Sys2Proof.Machine
end

