-- ==== Sys2Proof/Machine/Ops.lean ====
section
/-!
DEFINITION. The shared operations of every meaning: looking parties up, guards and the allocation
check, retiring and waiting, transfers of control, taking an exception and returning from one.
The model's own choices here: DESIGN CHOICE, logs 3, 5, 30, 32; DEDUCED, logs 8, 19, 20.
-/
namespace Sys2Proof.Machine

/-- What a step answers. -/
abbrev Result := Host.Outcome State Fault Refusal

/-- A host write, a configuration access or a fabric flit wakes the package, and its idleness starts again
(R362). -/
def State.wake (s : State) : State := { s with power := .active, idleAt := none }

/-- What a host write or an arrival does, in a package it has woken (R362). -/
def waking (k : Result) : Result :=
  match k with
  | .next s => .next s.wake
  | r => r

/-- A host write to a register outside the die control spaces: in recovery it wakes the package and is ignored
(R362, R370). -/
def inService (s : State) (k : Result) : Result := if s.recovery then .next s.wake else waking k

/-- The group with a serial number. -/
def State.group? (s : State) (id : Nat) : Option Group := s.groups.find? fun g => g.id == id

/-- Puts a group back. -/
def State.setGroup (s : State) (g : Group) : State :=
  { s with groups := replaceFirst (fun x => x.id == g.id) (fun _ => g) s.groups }

/-- The block with a serial number. -/
def State.block? (s : State) (id : Nat) : Option Block := s.blocks.find? fun b => b.id == id

/-- Puts a block back. -/
def State.setBlock (s : State) (b : Block) : State :=
  { s with blocks := replaceFirst (fun x => x.id == b.id) (fun _ => b) s.blocks }

/-- The grid with a serial number. -/
def State.grid? (s : State) (id : Nat) : Option Grid := s.grids.find? fun g => g.id == id

/-- Puts a grid back. -/
def State.setGrid (s : State) (g : Grid) : State :=
  { s with grids := replaceFirst (fun x => x.id == g.id) (fun _ => g) s.grids }

/-- A virtual device that has no context and no records yet. -/
def freshVd (v : BitVec 8) : VirtDev :=
  { vd := v, root := none, serial := 0, faults := [], evbuf := [], evresv := [], evwait := [], dseq := 0,
    halted := [], raised := [], frozen := [], pginv := none, slots := [],
    held := false, energy := [] }

/-- A virtual device's state; a device nothing has touched is fresh (R308). -/
def State.vdev (s : State) (v : BitVec 8) : VirtDev :=
  match s.vds.find? fun d => d.vd == v with
  | some d => d
  | none => freshVd v

/-- Puts a virtual device back. -/
def State.setVdev (s : State) (d : VirtDev) : State :=
  { s with vds := upsert (fun x => x.vd == d.vd) d s.vds }

/-- A path at a header with the whole mask (R86). -/
def freshPath (a : Va) : Path :=
  { pc := a, hdr := a, mask := allLanes, age := 0, joining := false, wait := none, handler := none,
    backoff := 0, starved := none, granted := none, pend := [], replay := none, bpSkip := false,
    step := .none, leaving := false, yielded := 0, rob := [], quiet := 0, due := [] }

/-- A core nothing has run on since reset: its sub-arrays are gated (R239). -/
def freshCore (c : BitVec 9) : Core :=
  { id := c, cycle := 0, permits := 0, holds := [], picks := [], pinned := none, array := [], busy := [],
    awake := false, idle := 0, gate := 0, removed := false }

/-- A core's state. -/
def State.core (s : State) (c : BitVec 9) : Core :=
  match s.cores.find? fun x => x.id == c with
  | some x => x
  | none => freshCore c

/-- Puts a core back. -/
def State.setCore (s : State) (c : Core) : State :=
  { s with cores := upsert (fun x => x.id == c.id) c s.cores }

/-- A cluster's state; nothing is queued at a Reeve until a group asks. -/
def State.cluster (s : State) (c : BitVec 6) : Cluster :=
  match s.clusters.find? fun x => x.id == c with
  | some x => x
  | none => ⟨c, [], [], []⟩

/-- Puts a cluster back. -/
def State.setCluster (s : State) (c : Cluster) : State :=
  { s with clusters := upsert (fun x => x.id == c.id) c s.clusters }

/-- The cluster of a core, and the die of a core (R257). -/
def clusterOf (c : BitVec 9) : BitVec 6 := c.extractLsb' 3 6

@[inherit_doc clusterOf]
def dieOf (c : BitVec 9) : BitVec 2 := c.extractLsb' 7 2

/-- A serial number nothing has used yet. -/
def State.newId (s : State) : Nat × State := (s.nextId, { s with nextId := s.nextId + 1 })

/-- Runs `k` with the acting path and its group. -/
def withPath (s : State) (k : Cur → Group → Path → Result) : Result :=
  match s.cur with
  | none => .refused .noPath
  | some c =>
    match s.group? c.p.grp with
    | none => .fault .dangling
    | some g =>
      match g.path c.p.slot with
      | none => .fault .dangling
      | some p => k c g p

/-- Runs `k` with the group's block and grid. -/
def withBlock (s : State) (g : Group) (k : Block → Grid → Result) : Result :=
  match s.block? g.blk with
  | none => .fault .dangling
  | some b =>
    match s.grid? b.grid with
    | none => .fault .dangling
    | some gr => k b gr

/-- The path has issued its oldest instruction before now: it waits, or stands in the reorder buffer (R101). -/
def Path.issued (p : Path) : Bool := p.wait.isSome || !p.rob.isEmpty

/-- The core cycles since the path last issued: none when its oldest instruction issues now, and those that
have gone by since when it has issued (R101). -/
def Path.ageNow (p : Path) : Nat := if p.issued then p.age else 0

@[inherit_doc Path.ageNow]
def Path.quietNow (p : Path) : Nat := if p.issued then p.quiet else 0

/-- The path stands at the next instruction: the acting one has retired (R97, R101). -/
def Path.advance (p : Path) (c : Cur) : Path :=
  { p with pc := c.next, hdr := if c.last then c.next else p.hdr, age := p.ageNow, quiet := p.quietNow,
           joining := false, wait := none, granted := none, pend := [], replay := none, bpSkip := false,
           step := p.step.retired, rob := p.rob.drop 1 }

/-- The path stands at the header at `t`; nothing younger than the instruction that took it there is left
(R104). -/
def Path.goto (p : Path) (t : Va) : Path :=
  { p with pc := t, hdr := t, age := p.ageNow, quiet := p.quietNow, joining := false, wait := none,
           granted := none, pend := [], replay := none, bpSkip := false, step := p.step.retired, rob := [] }

/-- Where a path's oldest instruction stands (R86). -/
def Path.instrPc (p : Path) : Va := if p.pc = p.hdr then p.hdr + 4 else p.pc

/-- What a path has dispatched and not retired, its oldest instruction first (R88, R99). -/
def Path.liveRob (p : Path) : List InFlight :=
  match p.rob with
  | [] => []
  | e :: t => if e.pc = p.instrPc then e :: t else []

/-- The replay entry of a path's oldest instruction frees (R176). -/
def Group.freeReplay (g : Group) (p : Path) : Group :=
  match p.replay with
  | some n => { g with replay := g.replay.filter fun r => r.idx != n }
  | none => g

/-- The acting instruction retires with the group's new registers. -/
def retire (s : State) (c : Cur) (g : Group) (p : Path) : Result :=
  .next (s.setGroup ((g.freeReplay p).setPath c.p.slot (some (p.advance c))))

/-- The acting instruction stays its path's oldest and unretired, under a stall reason (R153). -/
def stay (s : State) (c : Cur) (g : Group) (p : Path) (kind : WaitKind) (reason : Nat) : Result :=
  let since := match p.wait with
    | some w => w.since
    | none => s.timebase.toNat
  .next (s.setGroup (g.setPath c.p.slot
    (some { p with age := p.ageNow, quiet := p.quietNow, wait := some ⟨kind, reason, since, c.next, c.last⟩ })))

/-- Raises a fault domain's halt line, unless the domain is halted already; a clock fault sets the clock flag of
one that is raised (R265, R320). -/
def State.raiseHalt (s : State) (v : BitVec 8) (fdom : BitVec 16) (clock host : Bool) : State :=
  let d := s.vdev v
  if d.halted.contains fdom then s
  else if d.raised.any (fun h => h.fdom == fdom) then
    s.setVdev { d with raised := d.raised.map fun (h : HaltPend) =>
      if h.fdom == fdom then { h with clock := h.clock || clock } else h }
  else s.setVdev { d with raised := d.raised ++ [⟨fdom, s.timebase.toNat, clock, host, false⟩] }

/-- Withdraws a group's requests at every Reeve (R208). -/
def State.withdraw (s : State) (grp : Nat) : State :=
  { s with clusters := s.clusters.map fun c =>
      { c with queue := c.queue.filter (fun r => r.path.grp != grp),
               deferred := c.deferred.filter (fun r => r.path.grp != grp) } }

/-- Bytes of a block's TILE or SCR allocation (R196, R197). -/
def unitBytes (h : Nat) : Nat := 16384 * h

/-- What TADDR holds: the faulting address for causes 0x10 to 0x22, else 0 (R158). -/
def trapAddr (cause : BitVec 8) (addr : DWord) : DWord := if 0x10 ≤ cause && cause ≤ 0x22 then addr else 0

/-- Freezes a group on a fatal fault of the path in `slot`, whose instruction stands at `pc`: the
trap state is written, nothing else the instruction would do happens, and the halt line of the
group's fault domain rises (R98, R99, R157, R320). -/
def State.freeze (s : State) (g : Group) (slot : Bool) (pc hdr : Va) (cause : BitVec 8)
    (lanes : Word) (code : Word) (addr : DWord) : Result :=
  withBlock s g fun b gr =>
    let g' := { g with
      phase := .frozen, replay := [],
      trap := { cause := cause, pc := pc.setWidth 64, hdr := hdr.setWidth 64, mask := lanes,
                code := code, addr := trapAddr cause addr, slot := slot } }
    let s := (s.setGroup g').withdraw g.id
    let d := s.vdev b.vd
    let rec' : Frozen := { grp := some g.id, chan := none, cause := cause, pc := pc, addr := addr,
                           lanes := lanes, time := s.timebase.toNat }
    .next ((s.setVdev { d with frozen := d.frozen ++ [rec'] }).raiseHalt b.vd gr.fdom false false)

/-- The acting instruction takes a fatal fault (R98, R157). -/
def fatal (s : State) (c : Cur) (g : Group) (p : Path) (cause : BitVec 8) (lanes : Word)
    (addr : DWord) : Result :=
  s.freeze g c.p.slot p.pc p.hdr cause lanes 0 addr

/-- Whether the path may take one of its core's four permits now: one is free and not held for
another path (R154, R155). -/
def Core.permitFor (k : Core) (p : PathRef) : Bool :=
  k.permits < 4 && ((k.holds.any fun x => x.1 == p) || k.permits + k.holds.length < 4)

/-- The path takes a permit; a hold for it ends (R155). -/
def Core.takePermit (k : Core) (p : PathRef) : Core :=
  { k with permits := k.permits + 1, holds := k.holds.filter fun x => x.1 != p }

/-- The back-off of a path whose trap found no permit: 64 cycles, doubled at each later failure up
to 8,192 (R155). -/
def nextBackoff (b : Nat) : Nat := if b == 0 then 64 else min (2 * b) 8192

/-- TAKING AN EXCEPTION whose class is handler (R154 to R157): the trap state is written with the
resume point, the faulting lanes go to the handler's entry with a permit of the core, and the
path's other lanes wait. The trapping instruction changes nothing else (R98). Without a free permit
the path rolls back and backs off; inside a handler the fault is fatal; with no handler, cause 0x40
takes the default handler, which waits for the copies `u`, and that of 0x70 and 0x71 makes the trap a
fatal fault. -/
def deliver (s : State) (c : Cur) (g : Group) (p : Path) (cause : BitVec 8) (lanes code : Word)
    (resPc resHdr : Va) (u : List Nat) : Result :=
  withBlock s g fun b gr =>
    if p.handler.isSome then s.freeze g c.p.slot p.pc p.hdr cause lanes code 0
    else
      let k := s.core b.core
      if !k.permitFor c.p then
        let n := nextBackoff p.backoff
        let starved := if n == 8192 && p.starved.isNone then some k.cycle else p.starved
        stay s c g { p with backoff := n, starved := starved, rob := [], due := [] } (.backoff n) 13
      else
        let dflt := gr.desc.handler == 0
        if dflt && cause != 0x40 then s.freeze g c.p.slot p.pc p.hdr cause lanes code 0
        else
          let t : TrapState := { cause := cause, pc := resPc.setWidth 64, hdr := resHdr.setWidth 64,
                                 mask := lanes, code := code, addr := 0, slot := c.p.slot }
          let h : Handler := { rest := p.mask &&& ~~~lanes, permit := true, dflt := if dflt then some u else none }
          let p' := { p with mask := lanes, handler := some h, backoff := 0, starved := none }
          let p' := if dflt then { p' with
              wait := some ⟨.retry, 10, s.timebase.toNat, c.next, c.last⟩, bpSkip := false,
              step := p.step.retired, rob := [], due := [] }
            else p'.goto (gr.desc.handler.setWidth 56)
          .next ((s.setGroup (({ g with trap := t }.freeReplay p).setPath c.p.slot (some p'))).setCore
            (k.takePermit c.p))

/-- Whether the path holds a permit (R154). -/
def Path.hasPermit (p : Path) : Bool :=
  match p.handler with
  | some h => h.permit
  | none => false

/-- Whether one rank comes before another. -/
def rankLt : List Nat → List Nat → Bool
  | a :: as, b :: bs => a < b || (a == b && rankLt as bs)
  | _, _ => false

/-- A path's dispatch record. -/
def Core.pick (k : Core) (r : PathRef) : PickState :=
  match k.picks.find? fun x => x.path == r with
  | some x => x
  | none => ⟨r, 0, 0⟩

/-- The rank of a path at its core, smaller first: pinned, aged 4,096, least recently dispatched, one that
has yielded; then the place and the slot (R101, R116, R150). -/
def Core.rankOf (k : Core) (g : Group) (slot : Bool) (p : Path) : List Nat :=
  let last := (k.pick ⟨g.id, slot⟩).last
  (if k.pinned == some ⟨g.id, slot⟩ then [0, 0] else if 4096 ≤ p.age then [2, 2 ^ 64 - p.age]
    else if p.yielded != 0 then [4, last] else [3, last]) ++ [g.place.toNat, if slot then 1 else 0]

/-- A path that has backed off 8,192 cycles: since when, and its rank. -/
structure Starved where
  path : PathRef
  rank : List Nat
  deriving DecidableEq, Repr

/-- The paths of a core's groups that have reached the longest back-off and for which no permit is held
(R155). -/
def State.starvedPaths (s : State) (k : Core) : List Starved :=
  let here := s.blocks.filterMap fun b => if b.core == k.id && b.phase == .resident then some b.id else none
  (s.groups.filter fun g => here.contains g.blk && g.phase == .running).flatMap fun g =>
    let one (slot : Bool) (o : Option Path) : List Starved :=
      match o with
      | some p => (match p.starved with
        | some n => if k.holds.any fun x => x.1 == ⟨g.id, slot⟩ then []
          else [⟨⟨g.id, slot⟩, n :: k.rankOf g slot p⟩]
        | none => [])
      | none => []
    one false g.slot0 ++ one true g.slot1

/-- A permit comes back to a core: it is held 8,192 cycles for the path that reached the longest back-off
first, if there is one (R155). -/
def State.returnPermit (s : State) (core : BitVec 9) : State :=
  let k := s.core core
  let first := (s.starvedPaths k).foldl (fun (acc : Option Starved) x =>
    match acc with
    | none => some x
    | some y => if rankLt x.rank y.rank then some x else some y) none
  s.setCore { k with permits := k.permits - 1,
                     holds := k.holds ++ (first.map fun x => (x.path, k.cycle + 8192)).toList }

/-- Several permits come back. -/
def State.returnPermits (s : State) (core : BitVec 9) (n : Nat) : State :=
  (List.range n).foldl (fun s _ => s.returnPermit core) s

/-- THE RETURN FROM AN EXCEPTION (R156, R163): the handler's lanes rejoin the waiting lanes at the
resume point TPC with header TPH, and the permit is returned. -/
def trapReturn (s : State) (c : Cur) (g : Group) (p : Path) (rest : Word) (lanes : Word) : Result :=
  withBlock s g fun b _ =>
    let p' := { (p.goto (g.trap.pc.setWidth 56)) with
      hdr := g.trap.hdr.setWidth 56, mask := lanes ||| rest, handler := none }
    let s := s.setGroup (g.setPath c.p.slot (some p'))
    .next (if p.hasPermit then s.returnPermit b.core else s)

/-- Cause 0x04 when a v-register the instruction names lies at or above the allocation, whatever
the guard holds; otherwise `k` with the effective lanes (R46, R58, R59, R87). -/
def guarded (s : State) (g : BitVec 3) (vs : List Nat)
    (k : Cur → Group → Path → Word → Result) : Result :=
  withPath s fun c gr p =>
    if vs.any fun r => gr.regn ≤ r then fatal s c gr p 0x04 p.mask 0
    else k c gr p (p.mask &&& gr.guard g)

/-- The paths of a group: the slots', then the stacked ones, top first. -/
def Group.paths (g : Group) : List Path := g.slot0.toList ++ g.slot1.toList ++ g.stack

/-- A stacked path that could not go on if it were in a slot: it waits at a JOIN, backs off, or runs the default
handler of 0x40, whose copies are incomplete (R101, R102, R155, R227). -/
def Path.stackWaits (q : Path) : Bool :=
  q.joining || (q.handler.any fun h => h.dflt.any fun u => !u.isEmpty) || q.wait.any fun w =>
    match w.kind with
    | .backoff n => n != 0
    | _ => false

/-- The stacked path that does not wait with the greatest age, topmost on a tie (R101, R116). -/
def Group.oldestStacked (g : Group) : Option Nat :=
  (List.range g.stack.length).foldl (fun best n =>
    match g.stack[n]?, best with
    | some q, none => if q.stackWaits then none else some n
    | some q, some m =>
      match g.stack[m]? with
      | some r => if !q.stackWaits && r.age < q.age then some n else some m
      | none => some m
    | none, b => b) none

/-- How many of a group's paths hold a trap permit. -/
def Group.permitsHeld (g : Group) : Nat := (g.paths.filter Path.hasPermit).length

/-- Whether a stacked path is due for an ageing swap (R101). -/
def Group.swapDue (g : Group) : Bool :=
  match g.oldestStacked.bind fun n => g.stack[n]? with
  | some q => 4096 ≤ q.age
  | none => false

/-- Whether a path has to leave its next instruction unfetched: an ageing swap displaces it, or the other
slot's BRV is about to spill it (R91, R101). An instruction it has issued goes on. -/
def Group.stopsFetching (g : Group) (slot : Bool) (p : Path) : Bool :=
  p.wait.isNone && ((p.leaving && g.swapDue) || (match g.path (!slot) with
    | some q => q.wait.any fun w => w.kind == .split
    | none => false))

/-- A word address below 2^56 (R104). -/
def goodTarget (t : Int) : Bool := 0 ≤ t && t < (2 : Int) ^ 56 && t % 4 == 0

/-- A transfer to address `t`: cause 0x01 at the instruction unless `t` is a word address below
2^56 (R104). `t` is an integer, so that an address outside the space shows; `gm` is the group with
what else the instruction writes at its retirement. -/
def transfer (s : State) (c : Cur) (g gm : Group) (p : Path) (t : Int) : Result :=
  if !goodTarget t then fatal s c g p 0x01 p.mask 0
  else .next (s.setGroup (gm.setPath c.p.slot (some (p.goto (BitVec.ofInt 56 t)))))

/-- The target of a format-B word or of BRS: its own address plus four times the offset (R44,
R104). -/
def branchTarget (p : Path) (off : Int) : Int := (p.pc.toNat : Int) + 4 * off

end Sys2Proof.Machine
end

