-- ==== Sys2Proof/Machine/Edge.lean ====
section
/-!
DEFINITION. The edges between dies: the way of a message, the port it waits at, and its crossing (R10, R257,
R263).
The model's own choices here: DESIGN CHOICE, log 42.
-/
namespace Sys2Proof.Machine

/-- The dies a message from `a` to `b` goes to: the other die itself, or, for the diagonal one, the clockwise
neighbour first (R10). -/
def route (a b : BitVec 2) : List (BitVec 2) := if a == b then [] else if b == a + 2 then [a + 1, b] else [b]

/-- A message of `n` flits that sets out from die `a` for die `b`. -/
def Transit.start (a b : BitVec 2) (n : Nat) : Transit := ⟨a, route a b, b == a + 2, n, n⟩

/-- The flits of a message that carries a line's bytes, and of one that carries none (R311; log 42, DESIGN
CHOICE). -/
def lineFlits : Nat := 2

/-- Whether a message has reached its die. -/
def Transit.done (t : Transit) : Bool := t.way.isEmpty

/-- A flit of a message has crossed the edge it waits at; with the last one the message has. -/
def Transit.hop (t : Transit) : Transit :=
  match t.way with
  | [] => t
  | d :: w => if 1 < t.left then { t with left := t.left - 1 } else { t with at' := d, way := w, left := t.size }

/-- Whether a message waits at the port of die `frm` towards die `dst`. -/
def Transit.waitsAt (t : Transit) (frm dst : BitVec 2) : Bool := t.at' == frm && t.way.head? == some dst

/-- A message that waits at a port: its number, its virtual device, whether it is on the forwarding virtual
channel, and its flits that have still to cross. -/
structure Crossing where
  n    : Nat
  vd   : BitVec 8
  diag : Bool
  left : Nat
  deriving DecidableEq, Repr

/-- The messages that wait at the port of die `frm` towards die `dst`: requests, answers, stores and their
acknowledgments, gang round messages (R263). -/
def State.crossings (s : State) (frm dst : BitVec 2) : List Crossing :=
  ((s.reqs.filter fun q => q.tr.waitsAt frm dst).map fun q => ⟨q.n, q.vd, q.tr.diag, q.tr.left⟩) ++
    ((s.resps.filter fun x => x.tr.waitsAt frm dst).map fun x => ⟨x.n, x.req.vd, x.tr.diag, x.tr.left⟩) ++
    ((s.flight.filter fun f => f.tr.waitsAt frm dst).map fun f => ⟨f.id, f.vd, f.tr.diag, f.tr.left⟩) ++
    s.grids.flatMap fun gr => gr.levels.flatMap fun d => d.gangs.flatMap fun x =>
      (x.sent.filter fun m => m.tr.waitsAt frm dst).map fun m => ⟨m.n, gr.vd, m.tr.diag, m.tr.left⟩

/-- The oldest of some messages. -/
def oldestCrossing (cs : List Crossing) : Option Crossing :=
  cs.foldl (fun m c => match m with
    | some x => if c.n < x.n then some c else some x
    | none => some c) none

/-- A flit of message `n` crosses its edge. -/
def State.hopMessage (s : State) (n : Nat) : State :=
  { s with
    reqs := s.reqs.map fun (q : Request) => if q.n == n then { q with tr := q.tr.hop } else q,
    resps := s.resps.map fun (x : Response) => if x.n == n then { x with tr := x.tr.hop } else x,
    flight := s.flight.map fun (f : Flight) => if f.id == n then { f with tr := f.tr.hop } else f,
    grids := s.grids.map fun (gr : Grid) =>
      { gr with levels := gr.levels.map fun (d : DieLevel) =>
          { d with gangs := d.gangs.map fun (x : GangSlot) =>
              { x with sent := x.sent.map fun (m : GangMsg) =>
                  if m.n == n then { m with tr := m.tr.hop } else m } } } }

/-- A grant at a die-to-die port lets a flit of a virtual device's oldest waiting message cross: one on the forwarding
channel, else one of the die's own traffic (R10, R311; log 42, DESIGN CHOICE). Port `inst` is that of die
`inst / 4` towards die `inst % 4`. -/
def State.cross (s : State) (inst : Nat) (vd : BitVec 8) : State :=
  let cs := (s.crossings (BitVec.ofNat 2 (inst / 4)) (BitVec.ofNat 2 inst)).filter fun c => c.vd == vd
  let first := match oldestCrossing (cs.filter fun c => c.diag) with
    | some c => some c
    | none => oldestCrossing cs
  match first with
  | some c => s.hopMessage c.n
  | none => s

end Sys2Proof.Machine
end

