-- ==== Sys2Proof/Config.lean ====
section
/-!
DEFINITION. Values the manual leaves open: constants with no body, so that no proof can learn
their value (log 4, DESIGN CHOICE). Each is applied to what it may depend on; `State.free` is the counter that
makes every use of a counter-indexed value a fresh one.
-/
namespace Sys2Proof.Config

/-- A fresh open value: word number `n` of the values the manual leaves open (log 4, DESIGN CHOICE). -/
opaque freeWord : Nat → BitVec 64

/-- A fresh open value that what a die's rails are set to may bear on: word number `n`, with the offsets of the
die's rails in mV (R364 to R367, log 4, DESIGN CHOICE). -/
opaque railWord : Nat → List Int → BitVec 64

/-- The signature bytes the device makes over an attestation report's first bytes (R371, log 4, DESIGN CHOICE). -/
opaque attestSignature : List (BitVec 8) → List (BitVec 8)

/-- What the board's flash holds, header and body, at check number `n` of it (R369, log 4, DESIGN CHOICE). -/
opaque flashImage : Nat → List (BitVec 8)

/-- What the `i`-th 25 MHz of a die's clock add to the temperature of its hottest sensor at reading number `n`, in degrees
(R360, R361, log 4, DESIGN CHOICE). -/
opaque warmth : Nat → Nat → Nat

/-- What the `i`-th degree of a die's temperature takes from its headroom at reading number `n`, in percent (R360, log 4,
DESIGN CHOICE). -/
opaque headLoss : Nat → Nat → Nat

/-- The package's power in W, averaged over window number `n`, with these die clocks (R361, log 4, DESIGN CHOICE). -/
opaque windowPower : Nat → List (BitVec 8) → Nat

end Sys2Proof.Config
end

