-- ==== Sys2Proof/Machine/Encoding.lean ====
section
/-!
DEFINITION. What the opcode map says of each instruction's fields (R38 to R57), and the checks of
R58 step 3 that a word's fields must pass: `illegal i` names the first field value that makes the
instruction an illegal encoding. Sys2Proof/WellFormed.lean is the predicate over it, and the
decoder of Sys2Proof/Decode.lean answers only instructions that pass it.
The model's own choices here: DEDUCED, log 12.
-/
namespace Sys2Proof

/-- Result modes (R41). -/
def RMode.code : RMode → Nat
  | .none => 0
  | .sat => 1
  | .c01 => 2
  | .c11 => 3

@[inherit_doc RMode.code]
def RMode.ofCode : Nat → Option RMode
  | 0 => some .none
  | 1 => some .sat
  | 2 => some .c01
  | 3 => some .c11
  | _ => none

/-- Rounding modes (R21). -/
def Rnd.code : Rnd → Nat
  | .rne => 0
  | .rtz => 1
  | .rdn => 2
  | .rup => 3

@[inherit_doc Rnd.code]
def Rnd.ofCode : Nat → Option Rnd
  | 0 => some .rne
  | 1 => some .rtz
  | 2 => some .rdn
  | 3 => some .rup
  | _ => none

/-- Access sizes (R43). -/
def MemSize.code : MemSize → Nat
  | .b8 => 0
  | .b16 => 1
  | .b32 => 2
  | .b64 => 3
  | .b128 => 4

@[inherit_doc MemSize.code]
def MemSize.ofCode : Nat → Option MemSize
  | 0 => some .b8
  | 1 => some .b16
  | 2 => some .b32
  | 3 => some .b64
  | 4 => some .b128
  | _ => none

/-- Scopes (R43). -/
def Scope.code : Scope → Nat
  | .grp => 0
  | .blk => 1
  | .clu => 2
  | .die => 3
  | .dev => 4
  | .sys => 5

@[inherit_doc Scope.code]
def Scope.ofCode : Nat → Option Scope
  | 0 => some .grp
  | 1 => some .blk
  | 2 => some .clu
  | 3 => some .die
  | 4 => some .dev
  | 5 => some .sys
  | _ => none

/-- Orders (R43). -/
def MemOrd.code : MemOrd → Nat
  | .rlx => 0
  | .acq => 1
  | .rel => 2
  | .acqrel => 3

@[inherit_doc MemOrd.code]
def MemOrd.ofCode : Nat → Option MemOrd
  | 0 => some .rlx
  | 1 => some .acq
  | 2 => some .rel
  | 3 => some .acqrel
  | _ => none

/-- Hints (R43). -/
def MemHint.code : MemHint → Nat
  | .policy => 0
  | .stream => 1
  | .retain => 2
  | .noL1 => 3

@[inherit_doc MemHint.code]
def MemHint.ofCode : Nat → Option MemHint
  | 0 => some .policy
  | 1 => some .stream
  | 2 => some .retain
  | 3 => some .noL1
  | _ => none

/-- Conditions (R107, R122). -/
def Cond.code : Cond → Nat
  | .eq => 0
  | .ne => 1
  | .lt => 2
  | .ge => 3
  | .gt => 4
  | .le => 5

@[inherit_doc Cond.code]
def Cond.ofCode : Nat → Option Cond
  | 0 => some .eq
  | 1 => some .ne
  | 2 => some .lt
  | 3 => some .ge
  | 4 => some .gt
  | 5 => some .le
  | _ => none

/-- Floating conditions (R135). -/
def FCond.code : FCond → Nat
  | .eq => 0
  | .ne => 1
  | .lt => 2
  | .ge => 3
  | .gt => 4
  | .le => 5
  | .ord => 6
  | .uno => 7

@[inherit_doc FCond.code]
def FCond.ofCode : Nat → Option FCond
  | 0 => some .eq
  | 1 => some .ne
  | 2 => some .lt
  | 3 => some .ge
  | 4 => some .gt
  | 5 => some .le
  | 6 => some .ord
  | 7 => some .uno
  | _ => none

/-- VCVTI conversions (R132). -/
def IConv.code : IConv → Nat
  | .i32i8 => 0
  | .u32u8 => 1
  | .i32i16 => 2
  | .u32u16 => 3
  | .i8i32 => 4
  | .u8i32 => 5
  | .i16i32 => 6
  | .u16i32 => 7
  | .u8u32 => 8
  | .u16u32 => 9
  | .u32i32 => 10
  | .i32u32 => 11
  | .i64i32 => 12
  | .u64u32 => 13
  | .i32i64 => 14
  | .u32u64 => 15

@[inherit_doc IConv.code]
def IConv.ofCode : Nat → Option IConv
  | 0 => some .i32i8
  | 1 => some .u32u8
  | 2 => some .i32i16
  | 3 => some .u32u16
  | 4 => some .i8i32
  | 5 => some .u8i32
  | 6 => some .i16i32
  | 7 => some .u16i32
  | 8 => some .u8u32
  | 9 => some .u16u32
  | 10 => some .u32i32
  | 11 => some .i32u32
  | 12 => some .i64i32
  | 13 => some .u64u32
  | 14 => some .i32i64
  | 15 => some .u32u64
  | _ => none

/-- FCVT conversions (R138). -/
def FConv.code : FConv → Nat
  | .f16f32 => 0
  | .bf16f32 => 1
  | .f32f16 => 2
  | .f32bf16 => 3
  | .i32f32 => 4
  | .u32f32 => 5
  | .f32i32 => 6
  | .f32u32 => 7
  | .i64f32 => 8
  | .u64f32 => 9
  | .f32i64 => 10
  | .f32u64 => 11

@[inherit_doc FConv.code]
def FConv.ofCode : Nat → Option FConv
  | 0 => some .f16f32
  | 1 => some .bf16f32
  | 2 => some .f32f16
  | 3 => some .f32bf16
  | 4 => some .i32f32
  | 5 => some .u32f32
  | 6 => some .f32i32
  | 7 => some .f32u32
  | 8 => some .i64f32
  | 9 => some .u64f32
  | 10 => some .f32i64
  | 11 => some .f32u64
  | _ => none

/-- HCVT2 conversions (R140). -/
def HConv.code : HConv → Nat
  | .bf2f32 => 0
  | .f32bf2 => 1
  | .h2bf2 => 2
  | .bf2h2 => 3

@[inherit_doc HConv.code]
def HConv.ofCode : Nat → Option HConv
  | 0 => some .bf2f32
  | 1 => some .f32bf2
  | 2 => some .h2bf2
  | 3 => some .bf2h2
  | _ => none

/-- Reductions (R143). -/
def RedOp.code : RedOp → Nat
  | .iadd => 0
  | .imin => 1
  | .imax => 2
  | .umin => 3
  | .umax => 4
  | .and => 5
  | .or => 6
  | .xor => 7
  | .fadd => 8
  | .fmin => 9
  | .fmax => 10

@[inherit_doc RedOp.code]
def RedOp.ofCode : Nat → Option RedOp
  | 0 => some .iadd
  | 1 => some .imin
  | 2 => some .imax
  | 3 => some .umin
  | 4 => some .umax
  | 5 => some .and
  | 6 => some .or
  | 7 => some .xor
  | 8 => some .fadd
  | 9 => some .fmin
  | 10 => some .fmax
  | _ => none

/-- Votes (R144). -/
def Vote.code : Vote → Nat
  | .ballot => 0
  | .any => 1
  | .all => 2
  | .uni => 3

@[inherit_doc Vote.code]
def Vote.ofCode : Nat → Option Vote
  | 0 => some .ballot
  | 1 => some .any
  | 2 => some .all
  | 3 => some .uni
  | _ => none

/-- Resource types (R212). -/
def RType.code : RType → Nat
  | .reg => 0
  | .tile => 1
  | .scr => 2
  | .eng => 3

@[inherit_doc RType.code]
def RType.ofCode : Nat → Option RType
  | 0 => some .reg
  | 1 => some .tile
  | 2 => some .scr
  | 3 => some .eng
  | _ => none

/-- RSTAT items (R216). -/
def RItem.code : RItem → Nat
  | .held => 0
  | .claim => 1
  | .avail => 2
  | .grp => 3

@[inherit_doc RItem.code]
def RItem.ofCode : Nat → Option RItem
  | 0 => some .held
  | 1 => some .claim
  | 2 => some .avail
  | 3 => some .grp
  | _ => none

/-- Carter operations (R220). -/
def CopyOp.code : CopyOp → Nat
  | .mov => 0
  | .fadd => 1
  | .hadd => 2

@[inherit_doc CopyOp.code]
def CopyOp.ofCode : Nat → Option CopyOp
  | 0 => some .mov
  | 1 => some .fadd
  | 2 => some .hadd
  | _ => none

/-- SIGOP operations (R340). -/
def SigOp.code : SigOp → Nat
  | .add => 0
  | .set => 1
  | .max => 2
  | .min => 3

@[inherit_doc SigOp.code]
def SigOp.ofCode : Nat → Option SigOp
  | 0 => some .add
  | 1 => some .set
  | 2 => some .max
  | 3 => some .min
  | _ => none

/-- SIGWAIT conditions (R340). -/
def SigCond.code : SigCond → Nat
  | .le => 0
  | .ge => 1
  | .eq => 2
  | .ne => 3

@[inherit_doc SigCond.code]
def SigCond.ofCode : Nat → Option SigCond
  | 0 => some .le
  | 1 => some .ge
  | 2 => some .eq
  | 3 => some .ne
  | _ => none

/-- BIST classes (R364). -/
def BistClass.code : BistClass → Nat
  | .vrf => 0
  | .l1 => 1
  | .tile => 2
  | .scr => 3

@[inherit_doc BistClass.code]
def BistClass.ofCode : Nat → Option BistClass
  | 0 => some .vrf
  | 1 => some .l1
  | 2 => some .tile
  | 3 => some .scr
  | _ => none

namespace Machine

/-- Why a word is no legal header or instruction. Each is cause 0x01 but `unassigned`, which is
cause 0x02 (R34, R57, R58). -/
inductive DecodeError where
  /-- The bytes end before the instruction does. -/
  | truncated
  /-- A header is due and bits [31:28] are not 0xF (R36). -/
  | notHeader
  /-- A header's count is 0 (R34). -/
  | headerCount
  /-- A header's wait counter is 4 to 7 (R34). -/
  | headerWait
  /-- A header's threshold is not 0 although it waits for nothing (R34). -/
  | headerThr
  /-- A header's reserved bits are not zero (R34). -/
  | headerReserved
  /-- An opcode of 0xF0 to 0xFF where an instruction is due (R57, R58 step 1). -/
  | headerAsInstr
  /-- An opcode the map does not assign (R57, R58 step 2). -/
  | unassigned
  /-- A field the opcode does not use is not 0 (R38, R39, R43, R45). -/
  | unusedField
  /-- An s-register field holds 63 where no literal is admitted (R38). -/
  | sReg63
  /-- A predicate field holds 8 or more (R38). -/
  | predRange
  /-- An L field does not hold 63 (R38). -/
  | literalDue
  /-- A register that must be even, or a multiple of four, is not (R38, R43, R186). -/
  | misalignedReg
  /-- A last-use bit on a source that may carry none (R47). -/
  | lastUse
  /-- A guard where the opcode admits none (R46). -/
  | guarded
  /-- A modifier word where the opcode admits none (R41). -/
  | modForbidden
  /-- A modifier field outside the opcode's Mod rule (R21, R41). -/
  | modField
  /-- A selector the instruction does not define (R39). -/
  | selUndefined
  /-- Bit m of format M or A (R43, R45). -/
  | mBit
  /-- An access size the instruction does not accept (R43, R178). -/
  | badSize
  /-- A scope the instruction does not accept (R43, R178). -/
  | badScope
  /-- An order the instruction does not accept (R43, R178). -/
  | badOrder
  /-- A hint the instruction does not accept (R178). -/
  | badHint
  /-- A displacement the instruction does not accept (R178, R192, R278). -/
  | badDisp
  /-- An x field the instruction does not accept (R178, R186). -/
  | badX
  /-- An LDM or STM whose range passes v63 (R43). -/
  | rangeEnd
  /-- A plane count that is no k of 2 to 8 (R45, R249). -/
  | badK
  /-- An opcode outside its clause's class (R37). -/
  | classExcluded
  /-- An instruction that must close its clause does not (R36). -/
  | notLast
  /-- A JOIN that does not open its clause (R36). -/
  | notFirst
  deriving DecidableEq, Repr

/-- The cause a decode error raises (R57, R58). -/
def DecodeError.cause : DecodeError → BitVec 8
  | .unassigned => 0x02
  | _ => 0x01

/-- How a source register field is read (R38). -/
inductive Kind where
  | none | v | s | p
  deriving DecidableEq, Repr

/-- How the d field is read (R38). -/
inductive DKind where
  | none | v | s | p | cond
  deriving DecidableEq, Repr

/-- How the b field is read: `sl` is the map's s*, `lit` its L (R38). -/
inductive BKind where
  | none | v | s | sl | lit | p
  deriving DecidableEq, Repr

/-- The Mod column of the opcode map (R41). -/
inductive ModRule where
  | no | i | u | f | c | r
  deriving DecidableEq, Repr

/-- One row of the opcode map in format R or R+C (R49 to R53, R55, R56). -/
structure RInfo where
  kd   : DKind
  ka   : Kind
  kb   : BKind
  kc   : Kind
  hasC : Bool
  mod  : ModRule
  deriving DecidableEq, Repr

/-- The rows of the opcode map in format R and R+C, by opcode (R49 to R53, R55, R56). -/
def rInfo : Nat → Option RInfo
  | 0x01 | 0x08 | 0xCB =>
    some (.mk .none .s .none .none false .no)
  | 0x02 =>
    some (.mk .cond .s .lit .none false .no)
  | 0x06 | 0x09 | 0x0A | 0x0C | 0xE9 | 0xEA =>
    some (.mk .none .none .none .none false .no)
  | 0x0B | 0xD2 | 0xE8 | 0xEE =>
    some (.mk .none .none .sl .none false .no)
  | 0x10 | 0x11 | 0x12 | 0x13 | 0x15 | 0x17 | 0x1F | 0x21 =>
    some (.mk .s .s .sl .none false .i)
  | 0x14 | 0x16 | 0x18 =>
    some (.mk .s .s .sl .none false .u)
  | 0x19 | 0x1A | 0x1B | 0x1C | 0x1D | 0x1E | 0x20 | 0x22 =>
    some (.mk .s .s .sl .none false .no)
  | 0x23 =>
    some (.mk .p .s .sl .none true .c)
  | 0x24 =>
    some (.mk .s .s .sl .s true .no)
  | 0x25 | 0x28 | 0x29 =>
    some (.mk .s .s .none .none false .no)
  | 0x26 | 0xEC =>
    some (.mk .s .none .lit .none false .no)
  | 0x27 =>
    some (.mk .s .s .lit .none false .no)
  | 0x30 | 0x32 | 0x34 | 0x36 | 0x48 | 0x4C | 0x50 =>
    some (.mk .v .v .v .none false .i)
  | 0x31 | 0x33 | 0x35 | 0x37 | 0x49 | 0x4D | 0x51 =>
    some (.mk .v .v .sl .none false .i)
  | 0x38 | 0x52 =>
    some (.mk .v .v .v .none false .u)
  | 0x39 | 0x53 =>
    some (.mk .v .v .sl .none false .u)
  | 0x3A =>
    some (.mk .v .v .v .v true .i)
  | 0x3B =>
    some (.mk .v .v .sl .v true .i)
  | 0x3C | 0x3E | 0x40 | 0x42 | 0x44 | 0x46 | 0x4A | 0x4E | 0x90 =>
    some (.mk .v .v .v .none false .no)
  | 0x3D | 0x3F | 0x41 | 0x43 | 0x45 | 0x47 | 0x4B | 0x4F | 0x91 | 0x92 | 0x93 | 0x94 =>
    some (.mk .v .v .sl .none false .no)
  | 0x54 | 0x6C =>
    some (.mk .p .v .v .none true .c)
  | 0x55 | 0x6D =>
    some (.mk .p .v .sl .none true .c)
  | 0x56 =>
    some (.mk .v .v .v .p true .no)
  | 0x57 =>
    some (.mk .v .v .sl .p true .no)
  | 0x58 | 0x59 | 0x5A | 0x5B =>
    some (.mk .v .v .none .none false .no)
  | 0x5C =>
    some (.mk .v .none .sl .none false .no)
  | 0x5D =>
    some (.mk .v .none .none .none false .no)
  | 0x5E =>
    some (.mk .v .v .none .none true .i)
  | 0x60 | 0x62 | 0x64 | 0x68 | 0x6A | 0x6E | 0x78 | 0x7A | 0x7E | 0x80 =>
    some (.mk .v .v .v .none false .f)
  | 0x61 | 0x63 | 0x65 | 0x69 | 0x6B | 0x6F | 0x79 | 0x7B | 0x7F | 0x81 =>
    some (.mk .v .v .sl .none false .f)
  | 0x66 | 0x7C =>
    some (.mk .v .v .v .v true .f)
  | 0x67 | 0x7D =>
    some (.mk .v .v .sl .v true .f)
  | 0x70 | 0x71 | 0x72 | 0x73 | 0x74 | 0x75 =>
    some (.mk .v .v .none .none false .f)
  | 0x76 | 0x82 =>
    some (.mk .v .v .none .none true .f)
  | 0x95 | 0x96 | 0xD9 =>
    some (.mk .v .v .none .none true .no)
  | 0x97 =>
    some (.mk .s .p .none .none true .no)
  | 0x98 | 0x99 | 0x9A =>
    some (.mk .p .p .p .none false .no)
  | 0x9B =>
    some (.mk .p .p .none .none false .no)
  | 0x9C =>
    some (.mk .p .v .none .none false .no)
  | 0x9D =>
    some (.mk .v .p .none .none false .no)
  | 0x9E =>
    some (.mk .s .p .none .none false .no)
  | 0xC0 | 0xC1 | 0xC3 =>
    some (.mk .none .none .sl .none true .no)
  | 0xC2 =>
    some (.mk .s .none .sl .none true .no)
  | 0xC4 | 0xCA | 0xEF =>
    some (.mk .s .none .none .none true .no)
  | 0xC8 =>
    some (.mk .s .s .s .s true .no)
  | 0xC9 =>
    some (.mk .none .none .none .none true .no)
  | 0xD1 =>
    some (.mk .s .none .none .none false .no)
  | 0xD8 =>
    some (.mk .v .v .none .none false .r)
  | 0xE0 =>
    some (.mk .v .s .none .none false .no)
  | 0xE1 =>
    some (.mk .none .s .s .none false .no)
  | 0xE2 =>
    some (.mk .s .s .sl .none true .no)
  | 0xE3 =>
    some (.mk .none .s .sl .none true .no)
  | 0xEB =>
    some (.mk .none .none .lit .none false .no)
  | 0xED =>
    some (.mk .none .s .lit .none false .no)
  | _ => none

/-- An instruction's format, opcode, d field and sel field: what the words hold beside the operand
record (R38, R39, R43 to R45). Events have no words. -/
inductive Form where
  | r (op : BitVec 8) (o : ROps) (dc : BitVec 6) (sel : BitVec 25)
  | m (op : BitVec 8) (o : MOps)
  | b (op : BitVec 8) (o : BOps)
  | a (op : BitVec 8) (o : AOps)
  | event
  deriving DecidableEq, Repr

/-- The opcode map, read from the instruction to its words (R49 to R56; the sel fields of R122,
R123, R129, R132, R135, R138, R140, R143, R144, R212, R216, R220, R228, R229, R249, R340, R364). -/
def form : Instr → Form
  | .bra o => .b 0x00 o
  | .brx o => .r 0x01 o o.d 0
  | .brs cc o => .r 0x02 o (BitVec.ofNat 6 cc.code) 0
  | .ball o => .b 0x03 o
  | .bany o => .b 0x04 o
  | .brv o => .b 0x05 o
  | .join o => .r 0x06 o o.d 0
  | .call o => .b 0x07 o
  | .ret o => .r 0x08 o o.d 0
  | .exit o => .r 0x09 o o.d 0
  | .nop o => .r 0x0A o o.d 0
  | .sleep o => .r 0x0B o o.d 0
  | .yield o => .r 0x0C o o.d 0
  | .sadd o => .r 0x10 o o.d 0
  | .ssub o => .r 0x11 o o.d 0
  | .smul o => .r 0x12 o o.d 0
  | .smulh o => .r 0x13 o o.d 0
  | .smulhU o => .r 0x14 o o.d 0
  | .sdiv o => .r 0x15 o o.d 0
  | .sdivU o => .r 0x16 o o.d 0
  | .srem o => .r 0x17 o o.d 0
  | .sremU o => .r 0x18 o o.d 0
  | .sand o => .r 0x19 o o.d 0
  | .sor o => .r 0x1A o o.d 0
  | .sxor o => .r 0x1B o o.d 0
  | .sshl o => .r 0x1C o o.d 0
  | .sshr o => .r 0x1D o o.d 0
  | .ssra o => .r 0x1E o o.d 0
  | .smin o => .r 0x1F o o.d 0
  | .sminU o => .r 0x20 o o.d 0
  | .smax o => .r 0x21 o o.d 0
  | .smaxU o => .r 0x22 o o.d 0
  | .scmp cc u o => .r 0x23 o o.d (BitVec.ofNat 25 (cc.code + 8 * u.toNat))
  | .ssel cc o => .r 0x24 o o.d (BitVec.ofNat 25 (cc.code))
  | .smov o => .r 0x25 o o.d 0
  | .slit o => .r 0x26 o o.d 0
  | .shi o => .r 0x27 o o.d 0
  | .sclz o => .r 0x28 o o.d 0
  | .spopc o => .r 0x29 o o.d 0
  | .vaddVv o => .r 0x30 o o.d 0
  | .vaddVs o => .r 0x31 o o.d 0
  | .vsubVv o => .r 0x32 o o.d 0
  | .vsubVs o => .r 0x33 o o.d 0
  | .vmulVv o => .r 0x34 o o.d 0
  | .vmulVs o => .r 0x35 o o.d 0
  | .vmulhVv o => .r 0x36 o o.d 0
  | .vmulhVs o => .r 0x37 o o.d 0
  | .vmulhUVv o => .r 0x38 o o.d 0
  | .vmulhUVs o => .r 0x39 o o.d 0
  | .vmadVv o => .r 0x3A o o.d 0
  | .vmadVs o => .r 0x3B o o.d 0
  | .vandVv o => .r 0x3C o o.d 0
  | .vandVs o => .r 0x3D o o.d 0
  | .vorVv o => .r 0x3E o o.d 0
  | .vorVs o => .r 0x3F o o.d 0
  | .vxorVv o => .r 0x40 o o.d 0
  | .vxorVs o => .r 0x41 o o.d 0
  | .vshlVv o => .r 0x42 o o.d 0
  | .vshlVs o => .r 0x43 o o.d 0
  | .vshrVv o => .r 0x44 o o.d 0
  | .vshrVs o => .r 0x45 o o.d 0
  | .vsraVv o => .r 0x46 o o.d 0
  | .vsraVs o => .r 0x47 o o.d 0
  | .vminVv o => .r 0x48 o o.d 0
  | .vminVs o => .r 0x49 o o.d 0
  | .vminUVv o => .r 0x4A o o.d 0
  | .vminUVs o => .r 0x4B o o.d 0
  | .vmaxVv o => .r 0x4C o o.d 0
  | .vmaxVs o => .r 0x4D o o.d 0
  | .vmaxUVv o => .r 0x4E o o.d 0
  | .vmaxUVs o => .r 0x4F o o.d 0
  | .vabsdVv o => .r 0x50 o o.d 0
  | .vabsdVs o => .r 0x51 o o.d 0
  | .vabsdUVv o => .r 0x52 o o.d 0
  | .vabsdUVs o => .r 0x53 o o.d 0
  | .vcmpVv cc u o => .r 0x54 o o.d (BitVec.ofNat 25 (cc.code + 8 * u.toNat))
  | .vcmpVs cc u o => .r 0x55 o o.d (BitVec.ofNat 25 (cc.code + 8 * u.toNat))
  | .vselVv o => .r 0x56 o o.d 0
  | .vselVs o => .r 0x57 o o.d 0
  | .vnot o => .r 0x58 o o.d 0
  | .vclz o => .r 0x59 o o.d 0
  | .vpopc o => .r 0x5A o o.d 0
  | .vmov o => .r 0x5B o o.d 0
  | .vbcast o => .r 0x5C o o.d 0
  | .vlid o => .r 0x5D o o.d 0
  | .vcvti cv o => .r 0x5E o o.d (BitVec.ofNat 25 (cv.code))
  | .faddVv o => .r 0x60 o o.d 0
  | .faddVs o => .r 0x61 o o.d 0
  | .fsubVv o => .r 0x62 o o.d 0
  | .fsubVs o => .r 0x63 o o.d 0
  | .fmulVv o => .r 0x64 o o.d 0
  | .fmulVs o => .r 0x65 o o.d 0
  | .ffmaVv o => .r 0x66 o o.d 0
  | .ffmaVs o => .r 0x67 o o.d 0
  | .fminVv o => .r 0x68 o o.d 0
  | .fminVs o => .r 0x69 o o.d 0
  | .fmaxVv o => .r 0x6A o o.d 0
  | .fmaxVs o => .r 0x6B o o.d 0
  | .fcmpVv cc o => .r 0x6C o o.d (BitVec.ofNat 25 (cc.code))
  | .fcmpVs cc o => .r 0x6D o o.d (BitVec.ofNat 25 (cc.code))
  | .fdivVv o => .r 0x6E o o.d 0
  | .fdivVs o => .r 0x6F o o.d 0
  | .frcp o => .r 0x70 o o.d 0
  | .frsq o => .r 0x71 o o.d 0
  | .fsqrt o => .r 0x72 o o.d 0
  | .fexp2 o => .r 0x73 o o.d 0
  | .flog2 o => .r 0x74 o o.d 0
  | .frnd o => .r 0x75 o o.d 0
  | .fcvt cv o => .r 0x76 o o.d (BitVec.ofNat 25 (cv.code))
  | .hadd2Vv o => .r 0x78 o o.d 0
  | .hadd2Vs o => .r 0x79 o o.d 0
  | .hmul2Vv o => .r 0x7A o o.d 0
  | .hmul2Vs o => .r 0x7B o o.d 0
  | .hfma2Vv o => .r 0x7C o o.d 0
  | .hfma2Vs o => .r 0x7D o o.d 0
  | .hmin2Vv o => .r 0x7E o o.d 0
  | .hmin2Vs o => .r 0x7F o o.d 0
  | .hmax2Vv o => .r 0x80 o o.d 0
  | .hmax2Vs o => .r 0x81 o o.d 0
  | .hcvt2 cv o => .r 0x82 o o.d (BitVec.ofNat 25 (cv.code))
  | .xshf o => .r 0x90 o o.d 0
  | .xbrd o => .r 0x91 o o.d 0
  | .xxor o => .r 0x92 o o.d 0
  | .xup o => .r 0x93 o o.d 0
  | .xdn o => .r 0x94 o o.d 0
  | .xred op o => .r 0x95 o o.d (BitVec.ofNat 25 (op.code))
  | .xscan op ex o => .r 0x96 o o.d (BitVec.ofNat 25 (op.code + 16 * ex.toNat))
  | .xvote vt o => .r 0x97 o o.d (BitVec.ofNat 25 (vt.code))
  | .pand o => .r 0x98 o o.d 0
  | .por o => .r 0x99 o o.d 0
  | .pxor o => .r 0x9A o o.d 0
  | .pnot o => .r 0x9B o o.d 0
  | .pfrom o => .r 0x9C o o.d 0
  | .pto o => .r 0x9D o o.d 0
  | .pcnt o => .r 0x9E o o.d 0
  | .ld o => .m 0xA0 o
  | .st o => .m 0xA1 o
  | .lds o => .m 0xA2 o
  | .sts o => .m 0xA3 o
  | .ldu o => .m 0xA4 o
  | .ldm o => .m 0xA5 o
  | .stm o => .m 0xA6 o
  | .prf o => .m 0xA7 o
  | .hqry o => .m 0xA8 o
  | .aop o => .m 0xA9 o
  | .acas o => .m 0xAA o
  | .saop o => .m 0xAB o
  | .sacas o => .m 0xAC o
  | .ahist o => .m 0xAD o
  | .csnap o => .m 0xAE o
  | .fence o => .m 0xB0 o
  | .synca o => .m 0xB1 o
  | .syncr o => .m 0xB2 o
  | .sack o => .m 0xB3 o
  | .bara o => .m 0xB4 o
  | .barw o => .m 0xB5 o
  | .dcf o => .m 0xB6 o
  | .claim ty o => .r 0xC0 o o.d (BitVec.ofNat 25 (ty.code))
  | .acq ty o => .r 0xC1 o o.d (BitVec.ofNat 25 (ty.code))
  | .acqTry ty o => .r 0xC2 o o.d (BitVec.ofNat 25 (ty.code))
  | .rel ty o => .r 0xC3 o o.d (BitVec.ofNat 25 (ty.code))
  | .rstat ty it o => .r 0xC4 o o.d (BitVec.ofNat 25 (ty.code + 4 * it.code))
  | .copy op ch o => .r 0xC8 o o.d (BitVec.ofNat 25 (ch.toNat + 16 * op.code))
  | .qfence mask o => .r 0xC9 o o.d (BitVec.ofNat 25 (mask.toNat))
  | .cpoll mask o => .r 0xCA o o.d (BitVec.ofNat 25 (mask.toNat))
  | .sleept o => .r 0xCB o o.d 0
  | .mma o => .a 0xD0 o
  | .copym o => .a 0xD6 o
  | .mld o => .a 0xD3 o
  | .mst o => .a 0xD4 o
  | .mzero o => .a 0xD5 o
  | .mbatch o => .r 0xD1 o o.d 0
  | .mwait o => .r 0xD2 o o.d 0
  | .vquant o => .r 0xD8 o o.d 0
  | .vdeq km1 ctr bf o => .r 0xD9 o o.d (BitVec.ofNat 25 (km1.toNat + 8 * ctr.toNat + 16 * bf.toNat))
  | .wpop o => .r 0xE0 o o.d 0
  | .enq o => .r 0xE1 o o.d 0
  | .sigop op sc acq o => .r 0xE2 o o.d (BitVec.ofNat 25 (op.code + 4 * sc.code + 32 * acq.toNat))
  | .sigwait cd sc o => .r 0xE3 o o.d (BitVec.ofNat 25 (cd.code + 4 * sc.code))
  | .trap o => .r 0xE8 o o.d 0
  | .tret o => .r 0xE9 o o.d 0
  | .brk o => .r 0xEA o o.d 0
  | .ppt o => .r 0xEB o o.d 0
  | .rdsr o => .r 0xEC o o.d 0
  | .wrsr o => .r 0xED o o.d 0
  | .trmark o => .r 0xEE o o.d 0
  | .bist cls o => .r 0xEF o o.d (BitVec.ofNat 25 (cls.code))
  | .sleepWake _ => .event
  | .barrierPhaseComplete _ => .event
  | .gangRoundMessage _ _ _ _ => .event
  | .relTakesEffect _ => .event
  | .reeveTest _ => .event
  | .reeveFreeze _ _ => .event
  | .admission _ _ _ _ _ => .event
  | .blockComplete _ => .event
  | .sleeptWake _ => .event
  | .carterOperationStart _ _ => .event
  | .carterOperationComplete _ _ => .event
  | .gleanerGather _ => .event
  | .arrayOperationStart _ => .event
  | .arrayOperationComplete _ => .event
  | .subarrayGate _ => .event
  | .clauseWaitSatisfied _ => .event
  | .fetchFault _ => .event
  | .coreDispatchCycle _ => .event
  | .passedOverPin _ => .event
  | .agePriority _ => .event
  | .ageingSwap _ => .event
  | .compaction _ => .event
  | .trapBackoffRetry _ => .event
  | .permitHoldExpiry _ => .event
  | .storeBufferDrain _ _ => .event
  | .storeAck _ => .event
  | .memoryResponse _ => .event
  | .homeRequest _ => .event
  | .remoteNak _ => .event
  | .deadlineExpiry _ => .event
  | .packageClockFault => .event
  | .pageWalk _ _ _ => .event
  | .faultResponse _ _ => .event
  | .pginv _ _ => .event
  | .pginvComplete _ => .event
  | .atsInvalidation _ _ _ => .event
  | .priResponse _ _ => .event
  | .partctlGo _ => .event
  | .partitionChangeDone => .event
  | .vdrcbWrite _ _ => .event
  | .tokenArbitration _ _ _ => .event
  | .stopRequest _ => .event
  | .pptWindowExpiry _ => .event
  | .forcedSave _ => .event
  | .blockSaveComplete _ => .event
  | .haltRaise _ _ => .event
  | .vfEnableClear => .event
  | .vdstopGo _ => .event
  | .vdstopHold _ _ => .event
  | .vdhaltRaise _ _ => .event
  | .vdhaltClear _ _ => .event
  | .blockDispatch _ => .event
  | .energyWindow => .event
  | .slicePreempt _ => .event
  | .qcfgWrite _ _ => .event
  | .qdoorWrite _ _ => .event
  | .qabort _ _ => .event
  | .packetConsume _ => .event
  | .launchStartDeferred _ => .event
  | .launchComplete _ => .event
  | .feedStartDeferred _ => .event
  | .copyPacketComplete _ => .event
  | .waitEvaluation _ => .event
  | .waitDeadlineExpiry _ => .event
  | .millPrefetch _ => .event
  | .evackWrite _ _ => .event
  | .kzctlStop _ => .event
  | .blockDebugStopped _ => .event
  | .kzctlRun _ => .event
  | .kzctlStep _ => .event
  | .kzctlQui _ => .event
  | .kzshselWrite _ => .event
  | .breakpointStop _ => .event
  | .powerWindow _ => .event
  | .idleEntry => .event
  | .idleWake => .event
  | .bistctlGo _ _ => .event
  | .bistComplete _ => .event
  | .lmargctlGo _ _ => .event
  | .lmargScanComplete _ => .event
  | .recgo _ => .event
  | .recgoCheckComplete => .event
  | .attestationRequest _ => .event
  | .coldReset _ => .event
  | .warmReset => .event
  | .functionLevelReset _ => .event
  | .cxlMemError _ _ _ => .event
  | .physWindowAccess _ _ => .event
  | .flitReceive _ _ => .event
  | .flitNak _ _ => .event
  | .replayTimeout _ => .event
  | .portDown _ => .event
  | .portRetrainTimeout _ => .event
  | .fabricRead _ => .event
  | .fabricWrite _ => .event
  | .fabricAddFp32 _ => .event
  | .fabricAddBf16 _ => .event
  | .fabricReadData _ => .event
  | .fabricAck _ => .event
  | .fabricRefusal _ => .event
  | .fabricDeadlineExpiry _ => .event
  | .registerWrite _ _ _ => .event
  | .illegalInstructionWord _ _ _ => .event
  | .wpopWaitExpiry _ => .event
  | .dcfWritebackDone _ => .event
  | .fabricPortUp _ => .event

/-- Answers the first check that fails. -/
def firstOf : List (Bool × DecodeError) → Option DecodeError
  | [] => none
  | (ok, e) :: t => if ok then firstOf t else some e

/-- The register fields of format R against the map's kinds (R38, R39, R47). -/
def rFields (f : RInfo) (o : ROps) : List (Bool × DecodeError) :=
  (match f.kd with
   | .none | .cond => [(o.d == 0, .unusedField)]
   | .v => []
   | .s => [(o.d != 63, .sReg63)]
   | .p => [(o.d.ult 8, .predRange)]) ++
  (match f.ka with
   | .none => [(o.a == 0, .unusedField), (!o.la, .lastUse)]
   | .v => []
   | .s => [(o.a != 63, .sReg63)]
   | .p => [(o.a.ult 8, .predRange), (!o.la, .lastUse)]) ++
  (match f.kb, o.b with
   | .none, .reg r => [(r == 0, .unusedField), (!o.lb, .lastUse)]
   | .v, .reg _ => []
   | .s, .reg r | .sl, .reg r => [(r != 63, .sReg63)]
   | .p, .reg r => [(r.ult 8, .predRange), (!o.lb, .lastUse)]
   | .lit, .reg _ => [(false, .literalDue)]
   | .sl, .lit _ | .lit, .lit _ => [(!o.lb, .lastUse)]
   | .none, .lit _ | .v, .lit _ | .s, .lit _ | .p, .lit _ => [(false, .unusedField)]) ++
  (match f.kc with
   | .none => [(o.c == 0, .unusedField), (!o.lc, .lastUse)]
   | .v => []
   | .s => [(o.c != 63, .sReg63)]
   | .p => [(o.c.ult 8, .predRange), (!o.lc, .lastUse)])

/-- The modifier word against the opcode's Mod rule: the negate and absolute bits only on sources
the instruction reads as numbers, and rm, k and rnd in the rule's ranges (R21, R41). -/
def modFields (f : RInfo) : Option ModWord → List (Bool × DecodeError)
  | none => []
  | some w =>
    let ra := f.ka == .v || f.ka == .s
    let rb := f.kb != .none && f.kb != .p
    let rc := f.kc == .v || f.kc == .s
    let nums := (ra || !(w.na || w.aa)) && (rb || !(w.nb || w.ab)) && (rc || !(w.nc || w.ac))
    let nonum := !(w.na || w.aa || w.nb || w.ab || w.nc || w.ac)
    let rm01 := w.rm == .none || w.rm == .sat
    match f.mod with
    | .no => [(false, .modForbidden)]
    | .i => [(rm01 && nums && w.k == 0 && w.rnd == .rne, .modField)]
    | .u => [(rm01 && nonum && w.k == 0 && w.rnd == .rne, .modField)]
    | .f => [(nums, .modField)]
    | .c => [(w.rm == .none && nums && w.k == 0 && w.rnd == .rne, .modField)]
    | .r => [(w.rm == .none && nonum && w.k == 0, .modField)]

/-- An even register field. -/
def evenReg (r : BitVec 6) : Bool := r.toNat % 2 == 0

/-- R41: an f instruction with an integer result takes rm 0 or 1 and k = 0. -/
def intResult (md : Option ModWord) : Bool :=
  match md with
  | none => true
  | some w => (w.rm == .none || w.rm == .sat) && w.k == 0

/-- What an instruction's own rule adds to the map's row, in format R and R+C: guards that must
be p0 (R46, R163, R164), even registers (R132, R138, R140), FCVT's integer results (R41, R138),
plane counts (R249), masks that must not be zero (R228, R229), RSTAT.grp (R216). -/
def rOwn : Instr → List (Bool × DecodeError)
  | .brx o | .ret o | .join o | .nop o | .tret o | .ppt o => [(o.g == 0, .guarded)]
  | .vcvti cv o =>
    match cv with
    | .i64i32 | .u64u32 => [(evenReg o.d, .misalignedReg)]
    | .i32i64 | .u32u64 => [(evenReg o.a, .misalignedReg)]
    | _ => []
  | .fcvt cv o =>
    match cv with
    | .i32f32 | .u32f32 => [(intResult o.md, .modField)]
    | .i64f32 | .u64f32 => [(evenReg o.d, .misalignedReg), (intResult o.md, .modField)]
    | .f32i64 | .f32u64 => [(evenReg o.a, .misalignedReg)]
    | _ => []
  | .hcvt2 cv o =>
    match cv with
    | .bf2f32 => [(evenReg o.a, .misalignedReg)]
    | .f32bf2 => [(evenReg o.d, .misalignedReg)]
    | _ => []
  | .vdeq km1 _ _ _ => [(km1 != 0, .badK)]
  | .qfence mask _ => [(mask != 0, .selUndefined)]
  | .cpoll mask _ => [(mask != 0, .selUndefined)]
  | .rstat ty it _ => [(it != .grp || ty == .reg, .selUndefined)]
  | _ => []

/-- What the scope field of a format-M instruction may hold (R178, R185, R190, R192). -/
inductive ScopeRule where
  | zero | withOrder | any | barrier
  deriving DecidableEq, Repr

/-- What the disp field of a format-M instruction may hold (R178, R192, R278). -/
inductive DispRule where
  | any | zero | slot | count
  deriving DecidableEq, Repr

/-- What the x field of a format-M instruction may hold (R178, R186, R278). -/
inductive XRule where
  | zero | sx | sxs | any | sel | atomic | dcf
  deriving DecidableEq, Repr

/-- One row of the opcode map in format M, with the fields its own rule accepts (R54, R178, R186
to R188, R190, R192, R278). -/
structure MInfo where
  kd    : Kind
  ka    : Kind
  useH  : Bool
  sizes : List MemSize
  ords  : List MemOrd
  scope : ScopeRule
  hints : List MemHint
  ld    : Bool
  x     : XRule
  disp  : DispRule
  deriving DecidableEq, Repr

/-- Registers a lane's value takes (R179). -/
def sizeRegs : MemSize → Nat
  | .b8 | .b16 | .b32 => 1
  | .b64 => 2
  | .b128 => 4

/-- Every hint. -/
def allHints : List MemHint := [.policy, .stream, .retain, .noL1]

/-- Every order. -/
def allOrders : List MemOrd := [.rlx, .acq, .rel, .acqrel]

/-- The rows of the opcode map in format M, by opcode (R54, R178, R186 to R188, R190, R192, R278). -/
def mInfo : Nat → Option MInfo
  | 0xA0 => some (.mk .v .v true [.b8, .b16, .b32, .b64, .b128] [.rlx, .acq] .withOrder allHints false .sx .any)
  | 0xA1 => some (.mk .v .v true [.b8, .b16, .b32, .b64, .b128] [.rlx, .rel] .withOrder allHints true .zero .any)
  | 0xA2 => some (.mk .s .s true [.b8, .b16, .b32, .b64] [.rlx, .acq] .withOrder allHints false .sxs .any)
  | 0xA3 => some (.mk .s .s true [.b8, .b16, .b32, .b64] [.rlx, .rel] .withOrder allHints true .zero .any)
  | 0xA4 => some (.mk .v .s true [.b8, .b16, .b32, .b64, .b128] [.rlx, .acq] .withOrder allHints false .sx .any)
  | 0xA5 => some (.mk .v .s true [.b32] [.rlx, .acq] .withOrder allHints false .any .any)
  | 0xA6 => some (.mk .v .s true [.b32] [.rlx, .rel] .withOrder allHints true .any .any)
  | 0xA7 => some (.mk .none .s true [.b8] [.rlx] .zero [.policy, .noL1] false .any .any)
  | 0xA8 => some (.mk .s .none true [.b8] [.rlx] .zero [.policy] false .sel .zero)
  | 0xA9 => some (.mk .v .v true [.b32, .b64] allOrders .withOrder [.policy] false .atomic .any)
  | 0xAA => some (.mk .v .v true [.b32, .b64] allOrders .withOrder [.policy] false .zero .any)
  | 0xAB => some (.mk .s .s true [.b32, .b64] allOrders .withOrder [.policy] false .atomic .any)
  | 0xAC => some (.mk .s .s true [.b32, .b64] allOrders .withOrder [.policy] false .zero .any)
  | 0xAD => some (.mk .none .v true [.b32] allOrders .withOrder [.policy] false .zero .any)
  | 0xAE => some (.mk .s .s true [.b32] allOrders .withOrder [.policy] false .any .any)
  | 0xB0 => some (.mk .none .none false [.b8] [.acq, .rel, .acqrel] .any [.policy] false .zero .zero)
  | 0xB1 => some (.mk .none .s true [.b64] [.acq] .any [.policy] false .zero .any)
  | 0xB2 => some (.mk .none .s true [.b64] [.rel] .any [.policy] false .zero .any)
  | 0xB3 => some (.mk .none .none false [.b8] [.rlx] .any [.policy] false .zero .zero)
  | 0xB4 => some (.mk .none .none false [.b8] [.rlx] .barrier [.policy] false .zero .slot)
  | 0xB5 => some (.mk .none .none false [.b8] [.rlx] .barrier [.policy] false .zero .slot)
  | 0xB6 => some (.mk .s .s true [.b8] [.rlx] .zero [.policy] false .dcf .count)
  | _ => none

/-- The number of barrier slots at a barrier scope; 0 where the scope names no level (R192). -/
def barSlots : Scope → Nat
  | .blk | .clu => 16
  | .die | .dev => 64
  | .grp | .sys => 0

/-- The fields of a format-M instruction against its row and R43. -/
def mFields (f : MInfo) (o : MOps) : List (Bool × DecodeError) :=
  (match f.kd with
   | .none => [(o.d == 0, .unusedField)]
   | .s => [(o.d != 63, .sReg63), (o.size != .b128, .badSize)]
   | .v => [(match o.size with
             | .b64 => evenReg o.d
             | .b128 => o.d.toNat % 4 == 0
             | _ => true, .misalignedReg)]
   | .p => []) ++
  (match f.ka with
   | .none => [(o.a == 0, .unusedField), (!o.la, .lastUse)]
   | .s => [(o.a != 63, .sReg63)]
   | .v | .p => []) ++
  [ (f.useH || o.h == 0, .unusedField),
    (f.sizes.contains o.size, .badSize),
    (f.ords.contains o.ord, .badOrder),
    (match f.scope with
     | .zero => o.scope == .grp
     | .withOrder => o.ord != .rlx || o.scope == .grp
     | .any => true
     | .barrier => barSlots o.scope != 0, .badScope),
    (f.hints.contains o.hint, .badHint),
    (f.ld || !o.ld, .lastUse),
    (match f.x with
     | .zero => o.x == 0
     | .sx => o.x == 0 || (o.x == 1 && (o.size == .b8 || o.size == .b16))
     | .sxs => o.x == 0 || (o.x == 1 && (o.size == .b8 || o.size == .b16 || o.size == .b32))
     | .any => true
     | .sel => o.x.ult 4
     | .atomic => o.x.ult 9 || (o.x.ult 13 && o.size == .b32)
     | .dcf => o.x.ult 4, .badX),
    (match f.disp with
     | .any => true
     | .zero => o.disp == 0
     | .slot => o.disp.toNat < barSlots o.scope
     | .count => 0 < o.disp.toInt, .badDisp) ]

/-- What an instruction's own rule adds in format M: the ranges of LDM and STM (R43), the even
registers of ACAS and SACAS (R186). SACAS's pair partner must be an s-register too (log 12, DEDUCED). -/
def mOwn : Instr → List (Bool × DecodeError)
  | .ldm o | .stm o => [(o.d.toNat + o.x.toNat < 64, .rangeEnd)]
  | .acas o => [(if o.size == .b32 then evenReg o.d else o.d.toNat % 4 == 0, .misalignedReg)]
  | .sacas o => [(evenReg o.d, .misalignedReg), (o.d.ult 62, .sReg63)]
  | _ => []

/-- The fields of format A, by opcode (R45, R240). -/
def aFields (op : Nat) (o : AOps) : List (Bool × DecodeError) :=
  let mma := op == 0xD0 || op == 0xD6
  let sa := op != 0xD5
  [ (mma || (o.vi == 0), .unusedField),
    (mma || !o.lv, .lastUse),
    (o.sa != 63, .sReg63),
    (sa || (o.sa == 0 && o.ha == 0), .unusedField),
    (sa || !o.ls, .lastUse),
    (mma || op == 0xD4 || op == 0xD5 || o.acc == 0, .unusedField),
    (mma || op == 0xD3 || o.bt == 0, .unusedField),
    (if mma then o.km1 != 0 else o.km1 == 0, .badK),
    (mma || (!o.ctr && !o.z), .unusedField) ]

/-- R58 step 3 on the fields of one instruction: the first illegal one, if any. Events carry
typed operands, so none is illegal. -/
def illegal (i : Instr) : Option DecodeError :=
  match form i with
  | .r op o _ _ =>
    match rInfo op.toNat with
    | some f => firstOf (rFields f o ++ modFields f o.md ++ rOwn i)
    | none => some .unassigned
  | .m op o =>
    match mInfo op.toNat with
    | some f => firstOf (mFields f o ++ mOwn i)
    | none => some .unassigned
  | .b op o =>
    firstOf [(op != 0x00 && op != 0x07 || (o.g == 0 && !o.n), .unusedField)]
  | .a op o => firstOf (aFields op.toNat o)
  | .event => none

/-- Whether a clause class admits an opcode (R37). -/
def classAdmits (cls : BitVec 2) (op : BitVec 8) : Bool :=
  let n := op.toNat
  let within (lo hi : Nat) := lo ≤ n && n ≤ hi
  match cls.toNat with
  | 0 => true
  | 1 => n == 0x0A || within 0x10 0x9F || n == 0xD8 || n == 0xD9
  | 2 => n == 0x0A || within 0x10 0x2F || within 0xA0 0xD6 || within 0xE0 0xE3
  | _ => within 0x00 0x2F || within 0x97 0x9E || within 0xE0 0xEF

/-- Whether an opcode must close its clause (R36). -/
def mustClose (op : BitVec 8) : Bool :=
  let n := op.toNat
  n ≤ 0x05 || n == 0x07 || n == 0x08 || n == 0x09 || n == 0xE9

/-- The opcode of an instruction word; none for an event. -/
def opcodeOf (i : Instr) : Option (BitVec 8) :=
  match form i with
  | .r op _ _ _ | .m op _ | .b op _ | .a op _ => some op
  | .event => none

end Machine

end Sys2Proof
end

