-- ==== Sys2Proof/Machine/Operands.lean ====
section
/-!
DEFINITION. Operand forms of formats R and R+C, last-use marks, and what an instruction writes when
it retires (R19, R38 to R42, R46, R47, R94, R117, R125).
The model's own choices here: DESIGN CHOICE, log 45.
-/
namespace Sys2Proof.Machine

/-- A marked source register (R47). -/
inductive Mark where
  | v (r : Nat)
  | s (r : BitVec 6)
  deriving DecidableEq, Repr

/-- Everything an instruction writes at its retirement, in the lanes of its effective set for
v-registers and predicates (R97). -/
structure Writes where
  vs    : List (Nat × Lanes)
  sreg  : Option (BitVec 6 × DWord)
  pred  : Option (BitVec 6 × Word)
  flags : Word
  marks : List Mark
  deriving DecidableEq, Repr

/-- Nothing written but the marks' effects. -/
def noWrites (marks : List Mark) : Writes := ⟨[], none, none, 0, marks⟩

/-- One scalar register written, with flags. -/
def sWrite (d : BitVec 6) (v : DWord) (flags : Word) (marks : List Mark) : Writes :=
  ⟨[], some (d, v), none, flags, marks⟩

/-- One v-register written, with flags. -/
def vWrite (d : BitVec 6) (v : Lanes) (flags : Word) (marks : List Mark) : Writes :=
  ⟨[(d.toNat, v)], none, none, flags, marks⟩

/-- One predicate written, with flags. -/
def pWrite (d : BitVec 6) (v : Word) (flags : Word) (marks : List Mark) : Writes :=
  ⟨[], none, some (d, v), flags, marks⟩

/-- The marks' effects: a marked s-register becomes 0, a marked v-register reads zero in the
path's lanes (R47, R96, R118). -/
def Group.applyMarks (g : Group) (slot : Bool) (m : Word) (marks : List Mark) : Group :=
  marks.foldl (fun g k =>
    match k with
    | .v r => g.markV slot m r
    | .s r => g.setSreg r 0) g

/-- The marks first, then the writes, which define their registers again, then the flags: a destination that is a
marked source reads zero in the path's lanes outside `e` (R26, R46, R47; log 45, DESIGN CHOICE). -/
def Group.applyWrites (g : Group) (slot : Bool) (m e : Word) (w : Writes) : Group :=
  let g := g.applyMarks slot m w.marks
  let g := w.vs.foldl (fun g x => g.setV slot x.1 e x.2) g
  let g := match w.sreg with
    | some (r, v) => g.setSreg r v
    | none => g
  let g := match w.pred with
    | some (r, v) => g.setPred r e v
    | none => g
  g.setFlags w.flags

/-- The acting instruction retires with its writes, or waits for rename registers under stall
reason 2 (R94, R148). -/
def commit (s : State) (c : Cur) (g : Group) (p : Path) (e : Word) (w : Writes) : Result :=
  if g.canWrite w.vs.length then retire s c (g.applyWrites c.p.slot p.mask e w) p
  else stay s c g p .retry 2

/-- A source's mark, by the kind of its field. -/
def markOf (on : Bool) (k : Kind) (r : BitVec 6) : List Mark :=
  if on then
    match k with
    | .v => [.v r.toNat]
    | .s => [.s r]
    | .none | .p => []
  else []

/-- The register field of a b operand. -/
def bField : BSrc → BitVec 6
  | .reg r => r
  | .lit _ => 0

/-- The marks of a format-R instruction whose fields a, b and c are of these kinds; of a register pair the even one
alone (R38, R47; log 45, DESIGN CHOICE). -/
def marksR (o : ROps) (a b c : Kind) : List Mark :=
  markOf o.la a o.a ++ markOf o.lb b (bField o.b) ++ markOf o.lc c o.c

/-- A scalar b operand: s-register, or the literal sign-extended to 64 bits (R40). -/
def scalarB (g : Group) (b : BSrc) : DWord :=
  match b with
  | .reg r => g.sreg r
  | .lit w => w.signExtend 64

/-- A .vs b operand: bits [31:0] of an s-register, or the literal (R40, R125). -/
def uniformB (g : Group) (b : BSrc) : Word :=
  match b with
  | .reg r => (g.sreg r).setWidth 32
  | .lit w => w

/-- Lane `l` of the b operand of a .vv or a .vs code (R125). -/
def laneB (vv : Bool) (g : Group) (slot : Bool) (b : BSrc) (l : Nat) : Word :=
  match vv, b with
  | true, .reg r => g.vlane slot r.toNat l
  | _, _ => uniformB g b

/-- The kind of field b under a .vv or a .vs code. -/
def bKind (vv : Bool) : Kind := if vv then .v else .s

/-- The v-registers a two-source vector instruction names (R58 step 5). -/
def vNames (vv : Bool) (o : ROps) : List Nat :=
  [o.d.toNat, o.a.toNat] ++ (if vv then [(bField o.b).toNat] else [])

/-- A group-level instruction: with an empty effective set it retires and changes nothing (R46). -/
def groupLevel (s : State) (g : BitVec 3) (vs : List Nat)
    (k : Cur → Group → Path → Word → Result) : Result :=
  guarded s g vs fun c gr p e => if e = 0 then retire s c gr p else k c gr p e

/-- A scalar instruction with sources a and b: one value and its flags, into s_d (R117). -/
def scalar2 (o : ROps) (f : DWord → DWord → DWord × Word) (s : State) : Result :=
  groupLevel s o.g [] fun c g p e =>
    let r := f (modA o.md (g.sreg o.a)) (modB o.md (scalarB g o.b))
    commit s c g p e (sWrite o.d r.1 r.2 (marksR o .s .s .none))

/-- A scalar instruction with source a alone, or a and a literal (R124). -/
def scalar1 (o : ROps) (f : DWord → BSrc → DWord) (s : State) : Result :=
  groupLevel s o.g [] fun c g p e =>
    commit s c g p e (sWrite o.d (f (g.sreg o.a) o.b) 0 (marksR o .s .none .none))

/-- A vector instruction that gives each lane a value and flags from sources a and b after the
modifier word of integer kind (R125, R126, R128). -/
def vector2 (vv : Bool) (o : ROps) (f : Word → Word → Word × Word) (s : State) : Result :=
  guarded s o.g (vNames vv o) fun c g p e =>
    let r (l : Nat) : Word × Word :=
      f (modA o.md (g.vlane c.p.slot o.a.toNat l)) (modB o.md (laneB vv g c.p.slot o.b l))
    commit s c g p e
      (vWrite o.d (lanesOf fun l => (r l).1) (laneFlags e fun l => (r l).2)
        (marksR o .v (bKind vv) .none))

/-- A vector instruction with source a alone (R128, R131). -/
def vector1 (o : ROps) (f : Word → Word) (s : State) : Result :=
  guarded s o.g [o.d.toNat, o.a.toNat] fun c g p e =>
    commit s c g p e
      (vWrite o.d (lanesOf fun l => f (g.vlane c.p.slot o.a.toNat l)) 0 (marksR o .v .none .none))

/-- A 64-bit value in an even/odd pair: bits [31:0] in the even register (R19). -/
def pairAt (g : Group) (slot : Bool) (r l : Nat) : DWord :=
  g.vlane slot (r + 1) l ++ g.vlane slot r l

/-- The words of a value of up to 128 bits, low word first, each in its own register (R19,
R179). -/
def spread (d : BitVec 6) (n : Nat) (f : Nat → Nat → Word) : List (Nat × Lanes) :=
  (List.range n).map fun k => (d.toNat + k, lanesOf fun l => f k l)

end Sys2Proof.Machine
end

