-- ==== Sys2Proof/Machine/FloatFn.lean ====
section
/-!
DEFINITION. The one-source functions, correctly rounded (R23, R136, R137), and the conversions
(R24, R138, R140). 2^x and log2 x of an argument whose value is no dyadic number are irrational, so
an enclosure between two integers decides the rounding once it is narrow enough.
The model's own choices here: DEDUCED, log 10.
-/
namespace Sys2Proof.Machine

/-- The integer square root, bit by bit from bit `n` down. -/
def isqrtFrom : Nat → Nat → Nat → Nat
  | 0, _, acc => acc
  | n + 1, x, acc =>
    let y := acc + 2 ^ n
    if y * y ≤ x then isqrtFrom n x y else isqrtFrom n x acc

/-- The integer square root. -/
def isqrt (x : Nat) : Nat := isqrtFrom (bitLen x / 2 + 1) x 0

/-- The square root of a positive magnitude (R136). -/
def sqrtMag (m : Nat) (e : Int) : FRes :=
  let m := if e % 2 = 0 then m else 2 * m
  let e := if e % 2 = 0 then e else e - 1
  let x := m * 2 ^ 80
  let r := isqrt x
  .num false r (e / 2 - 40) (r * r != x)

/-- One over the square root of a positive magnitude (R136). -/
def rsqrtMag (m : Nat) (e : Int) : FRes :=
  let m := if e % 2 = 0 then m else 2 * m
  let e := if e % 2 = 0 then e else e - 1
  let t := bitLen m + 40
  let y := isqrt (2 ^ (2 * t) / m)
  .num false y (-(e / 2) - (t : Int)) (y * y * m != 2 ^ (2 * t))

/-- An open interval of magnitudes: from `lo` to `hi`, in units of 2^e, of one sign. -/
structure Enclosure where
  neg : Bool
  lo  : Nat
  hi  : Nat
  e   : Int
  deriving DecidableEq, Repr

/-- The enclosure's rounding once both ends agree on it: tried at each precision in turn. Every
value inside then rounds so too, because rounding is monotone. The last precision is taken as it
stands (log 10, DEDUCED). -/
def decideBy (f : FloatFmt) (md : Option ModWord) (enc : Nat → Enclosure) : List Nat → FRes
  | [] => .nan
  | [p] => let x := enc p; .num x.neg x.lo x.e true
  | p :: q :: t =>
    let x := enc p
    let k := scaleOf md
    if roundTo f (rndOf md) x.neg x.lo (x.e + k) true =
        roundTo f (rndOf md) x.neg (x.hi - 1) (x.e + k) true then
      .num x.neg x.lo x.e true
    else decideBy f md enc (q :: t)

/-- The precisions tried, in bits. -/
def precisions : List Nat := [96, 256, 640]

/-- The odd power series of atanh from the term of exponent `2 k + 1` on: `t` is z^(2 k + 1) and
`z2` is z^2, in units of 2^-`p`; every step rounds down. -/
def atanhFrom : Nat → Nat → Nat → Nat → Nat → Nat
  | 0, _, _, _, _ => 0
  | n + 1, p, k, t, z2 => t / (2 * k + 1) + atanhFrom n p (k + 1) (t * z2 / 2 ^ p) z2

/-- atanh z for 0 <= z <= 1/3, in units of 2^-`p`, less than `p` units below the value. -/
def atanhFix (p z : Nat) : Nat := atanhFrom (p / 3 + 2) p 0 z (z * z / 2 ^ p)

/-- ln 2 = 2 atanh (1/3), in units of 2^-`p`. -/
def ln2Fix (p : Nat) : Nat := 2 * atanhFix p (2 ^ p / 3)

/-- The power series of exp from the term of index `k` on, whose value is `t`. -/
def expFrom : Nat → Nat → Nat → Nat → Nat → Nat
  | 0, _, _, _, _ => 0
  | n + 1, p, k, t, x => t + expFrom n p (k + 1) (t * x / 2 ^ p / (k + 1)) x

/-- The enclosure of 2^(`n` + `fm` / 2^`fe`), where the fraction lies strictly between 0 and 1:
32 guard bits take up the errors of the series. -/
def exp2Enclosure (n : Int) (fm fe : Nat) (p : Nat) : Enclosure :=
  let g := p + 32
  let x := fm * ln2Fix g / 2 ^ fe
  let y := expFrom (p + 8) g 0 (2 ^ g) x
  let lo := y / 2 ^ 32
  ⟨false, lo, lo + 2, n - (p : Int)⟩

/-- 2^a of a finite value (R136). Beyond the formats' range the sign of the exponent decides. -/
def exp2F (f : FloatFmt) (md : Option ModWord) (neg : Bool) (m : Nat) (e : Int) : FRes :=
  if m = 0 then .num false 1 0 false
  else if 10 < e + (bitLen m : Int) then .num false (2 ^ 40) (if neg then -1000 else 1000) true
  else if 0 ≤ e then
    let a : Int := (m * 2 ^ e.toNat : Nat)
    .num false 1 (if neg then -a else a) false
  else
    let fe := (-e).toNat
    let v : Int := if neg then -(m : Int) else (m : Int)
    let n := v / (2 : Int) ^ fe
    let fm := (v % (2 : Int) ^ fe).toNat
    if fm = 0 then .num false 1 n false
    else decideBy f md (exp2Enclosure n fm fe) precisions

/-- The enclosure of the magnitude of log2 (m x 2^e), where m is no power of two. -/
def log2Enclosure (m : Nat) (e : Int) (p : Nat) : Enclosure :=
  let g := p + 32
  let l := bitLen m - 1
  let z := (m - 2 ^ l) * 2 ^ g / (m + 2 ^ l)
  let y := 2 * atanhFix g z * 2 ^ g / ln2Fix g
  let base : Int := (e + (l : Int)) * (2 : Int) ^ p
  let lo := base + (y : Int) / (2 : Int) ^ 32 - 1
  let hi := lo + 4
  if 0 ≤ lo then ⟨false, lo.toNat, hi.toNat, -(p : Int)⟩
  else ⟨true, (-hi).toNat, (-lo).toNat, -(p : Int)⟩

/-- log2 of a positive finite value (R136). -/
def log2F (f : FloatFmt) (md : Option ModWord) (m : Nat) (e : Int) : FRes :=
  let l := bitLen m - 1
  if m = 2 ^ l then
    let v := e + (l : Int)
    .num (v < 0) v.natAbs 0 false
  else decideBy f md (log2Enclosure m e) precisions

/-- The one-source functions of R136. -/
inductive FFun where
  | rcp | rsq | sqrt | exp2 | log2
  deriving DecidableEq, Repr

/-- A one-source function with its special values (R136). -/
def funF (f : FloatFmt) (fn : FFun) (md : Option ModWord) (a : FVal) : FRes × Word :=
  match a with
  | .nan s => (.nan, flagIf s flInv)
  | .inf neg =>
    match fn with
    | .rcp => (.num neg 0 0 false, 0)
    | .rsq => if neg then (.nan, flInv) else (.num false 0 0 false, 0)
    | .sqrt | .log2 => if neg then (.nan, flInv) else (.inf false, 0)
    | .exp2 => if neg then (.num false 0 0 false, 0) else (.inf false, 0)
  | .fin neg m e =>
    match fn with
    | .rcp => if m = 0 then (.inf neg, flDz) else divF (.fin false 1 0) (.fin neg m e)
    | .rsq =>
      if m = 0 then (.inf neg, flDz) else if neg then (.nan, flInv) else (rsqrtMag m e, 0)
    | .sqrt =>
      if m = 0 then (.num neg 0 0 false, 0) else if neg then (.nan, flInv) else (sqrtMag m e, 0)
    | .exp2 => (exp2F f md neg m e, 0)
    | .log2 =>
      if m = 0 then (.inf true, flDz) else if neg then (.nan, flInv) else (log2F f md m e, 0)

/-- A one-source function in one FP32 lane (R136). -/
def fun32 (fn : FFun) (md : Option ModWord) (a : Word) : Word × Word :=
  let r := finishF fmt32 md (funF fmt32 fn md (srcA fmt32 md a.toNat))
  (BitVec.ofNat 32 r.1, r.2)

/-- FRND in one lane: the scaled value rounded to an integral value; a result zero keeps the sign
(R137). -/
def frnd32 (md : Option ModWord) (a : Word) : Word × Word :=
  match srcA fmt32 md a.toNat with
  | .nan s => (BitVec.ofNat 32 (canonNan fmt32), flagIf s flInv)
  | .inf neg =>
    let y := resultMode fmt32 (rmOf md) (infBits fmt32 neg)
    (BitVec.ofNat 32 y.1, y.2)
  | .fin neg m e =>
    let r := roundAt (rndOf md) neg m (e + scaleOf md) 0 false
    let x := if 0 ≤ e + scaleOf md then roundTo fmt32 (rndOf md) neg m (e + scaleOf md) false
      else roundTo fmt32 (rndOf md) neg r.1 0 false
    let y := resultMode fmt32 (rmOf md) x.bits
    (BitVec.ofNat 32 y.1, flagIf (r.2 || x.inx) flInx ||| flagIf x.ovf flOvf ||| y.2)

/-- A value converted to a float format: an overflow saturates with OVF, INX and SAT; an infinity
saturates with SAT where the destination is narrow; then the result mode acts (R24, R138). -/
def toFloat (f : FloatFmt) (narrow : Bool) (md : Option ModWord) (v : FVal) : Nat × Word :=
  match v with
  | .nan s => (canonNan f, flagIf s flInv)
  | .inf neg =>
    if narrow then
      let y := resultMode f (rmOf md) (maxBits f neg)
      (y.1, flSat ||| y.2)
    else resultMode f (rmOf md) (infBits f neg)
  | .fin neg m e =>
    let x := roundTo f (rndOf md) neg m (e + scaleOf md) false
    let y := resultMode f (rmOf md) (if x.ovf then maxBits f neg else x.bits)
    (y.1, (if x.ovf then flOvf ||| flInx ||| flSat else flagIf x.inx flInx) ||| y.2)

/-- Whether the exact value m x 2^e with a sign lies outside a range of integers that holds 0. -/
def beyond (neg : Bool) (m : Nat) (e lo hi : Int) : Bool :=
  let top : Nat := if neg then (-lo).toNat else hi.toNat
  if 0 ≤ e then top < m * 2 ^ e.toNat else top * 2 ^ (-e).toNat < m

/-- A float converted to an integer of `n` bits: one whose value lies outside the range gives the nearer end with
SAT alone, whatever its rounding; any other is rounded in the selected mode; a NaN gives 0 with NL (R24). -/
def toInteger (n : Nat) (signed : Bool) (md : Option ModWord) (v : FVal) : BitVec n × Word :=
  let lo := if signed then sMin n else 0
  let hi := if signed then sMax n else uMax n
  match v with
  | .nan s => (0, flNl ||| flagIf s flInv)
  | .inf neg => (BitVec.ofInt n (if neg then lo else hi), flSat)
  | .fin neg m e =>
    if beyond neg m e lo hi then (BitVec.ofInt n (if neg then lo else hi), flSat)
    else
      let r := roundAt (rndOf md) neg m e 0 false
      (BitVec.ofInt n (if neg then -(r.1 : Int) else (r.1 : Int)), flagIf r.2 flInx)

/-- An integer as an exact value; zero is +0. -/
def intVal (x : Int) : FVal := .fin (x < 0) x.natAbs 0

/-- The negate bit of source a. -/
def negA (md : Option ModWord) : Bool :=
  match md with
  | some m => m.na
  | none => false

/-- Whether an FCVT conversion writes a pair, and whether it reads one (R138). -/
def fcvtPairs : FConv → Bool × Bool
  | .i64f32 | .u64f32 => (true, false)
  | .f32i64 | .f32u64 => (false, true)
  | _ => (false, false)

/-- One lane of FCVT: the value written, in 64 bits, and the flags (R24, R138). -/
def fcvtLane (cv : FConv) (md : Option ModWord) (a : Word) (pr : DWord) : DWord × Word :=
  let f32 := srcA fmt32 md a.toNat
  let wide (r : Nat × Word) : DWord × Word := (BitVec.ofNat 64 r.1, r.2)
  match cv with
  | .f16f32 => wide (toFloat fmt16 true md f32)
  | .bf16f32 => wide (toFloat fmtBf true md f32)
  | .f32f16 => wide (toFloat fmt32 false md (srcA fmt16 md (a.toNat % 65536)))
  | .f32bf16 => wide (toFloat fmt32 false md (srcA fmtBf md (a.toNat % 65536)))
  | .i32f32 => let r := toInteger 32 true md f32; (r.1.setWidth 64, r.2)
  | .u32f32 => let r := toInteger 32 false md f32; (r.1.setWidth 64, r.2)
  | .f32i32 => wide (toFloat fmt32 false md (intVal (modA md a).toInt))
  | .f32u32 => wide (toFloat fmt32 false md (intVal (uAbsNeg (negA md) a).toNat))
  | .i64f32 => toInteger 64 true md f32
  | .u64f32 => toInteger 64 false md f32
  | .f32i64 => wide (toFloat fmt32 false md (intVal (modA md pr).toInt))
  | .f32u64 => wide (toFloat fmt32 false md (intVal (uAbsNeg (negA md) pr).toNat))

/-- One lane of HCVT2: one or two words from the lane's word and its pair partner's (R140). -/
def hcvtLane (cv : HConv) (md : Option ModWord) (a a' : Word) : Word × Word × Word :=
  let lo := a.toNat % 65536
  let hi := a.toNat / 65536
  let two (x y : Nat × Word) : Word × Word × Word :=
    (BitVec.ofNat 32 (y.1 * 65536 + x.1), 0, x.2 ||| y.2)
  match cv with
  | .bf2f32 =>
    two (toFloat fmtBf true md (srcA fmt32 md a.toNat)) (toFloat fmtBf true md (srcA fmt32 md a'.toNat))
  | .f32bf2 =>
    let x := toFloat fmt32 false md (srcA fmtBf md lo)
    let y := toFloat fmt32 false md (srcA fmtBf md hi)
    (BitVec.ofNat 32 x.1, BitVec.ofNat 32 y.1, x.2 ||| y.2)
  | .h2bf2 => two (toFloat fmt16 true md (srcA fmtBf md lo)) (toFloat fmt16 true md (srcA fmtBf md hi))
  | .bf2h2 => two (toFloat fmtBf true md (srcA fmt16 md lo)) (toFloat fmtBf true md (srcA fmt16 md hi))

end Sys2Proof.Machine
end

