-- ==== Sys2Proof/Machine/Pni.lean ====
section
/-!
DEFINITION. PNI8 blocks, VQUANT and VDEQ, and the matrix sum (R27 to R33, R248, R249).
-/
namespace Sys2Proof.Machine

/-- Element `t` of a block from its plane words: bit (7 - p) is bit `t` of plane word `p` (R28). -/
def pniElem (planes : List Word) (t : Nat) : BitVec 8 :=
  (List.range 8).foldl (fun q p => if bitAt (planes.getD p 0) t
    then q ||| BitVec.ofNat 8 (2 ^ (7 - p)) else q) 0

/-- Plane word `p` of 32 elements (R28). -/
def pniPlane (qs : List (BitVec 8)) (p : Nat) : Word := maskOf fun t => (qs.getD t 0).getLsbD (7 - p)

/-- The `k`-plane value of an element, doubled and one more with the centre option: the integer
a of R29 and R32. -/
def planeInt (k : Nat) (ctr : Bool) (q : BitVec 8) : Int :=
  let qk := q.toInt / (2 : Int) ^ (8 - k)
  if ctr then 2 * qk + 1 else qk

/-- The exponent of the unit of a k-plane read under scale byte `e` (R29). -/
def planeUnit (e : BitVec 8) (k : Nat) (ctr : Bool) : Int :=
  (e.toNat : Int) - 134 + 8 - (k : Int) - (if ctr then 1 else 0)

/-- An element's k-plane value in a float format, rounded to nearest even, with whether that
changed it: +0 in a zero block, NaN in a NaN block (R29, R30). -/
def pniValue (f : FloatFmt) (e : BitVec 8) (k : Nat) (ctr : Bool) (q : BitVec 8) : Nat × Bool :=
  if e = 0 then (0, false)
  else if e = 255 then (canonNan f, false)
  else
    let a := planeInt k ctr q
    let r := roundTo f .rne (a < 0) a.natAbs (planeUnit e k ctr) false
    (r.bits, r.inx)

/-- The result of quantising a block: scale byte, elements, flags. -/
structure Quantised where
  e  : BitVec 8
  qs : List (BitVec 8)
  fl : Word
  deriving DecidableEq, Repr

/-- The magnitude bits of an element, an infinity replaced by the largest finite value (R31). -/
def quantMag (x : Word) : Nat :=
  let m := x.toNat % 2 ^ 31
  if m = 0x7F800000 then 0x7F7FFFFF else m

/-- One element on the block's scale, rounded and saturated to 8 bits (R31). -/
def quantElem (rnd : Rnd) (e : Nat) (x : Word) : BitVec 8 × Word :=
  let neg := x.msb
  let inf := x.toNat % 2 ^ 31 == 0x7F800000
  match unpack fmt32 (quantMag x) with
  | .fin _ m u =>
    let r := roundAt rnd neg m (u + 134 - (e : Int)) 0 false
    let y : Int := if neg then -(r.1 : Int) else (r.1 : Int)
    let z := saturated 8 (-128) 127 y
    (z.1, z.2 ||| flagIf r.2 flInx ||| flagIf inf flSat)
  | _ => (0, 0)

/-- quant_block (R31). -/
def quantBlock (rnd : Rnd) (xs : List Word) : Quantised :=
  let zeros := List.replicate 32 (0 : BitVec 8)
  if xs.any fun x => 0x7F800000 < x.toNat % 2 ^ 31 then ⟨255, zeros, 0⟩
  else
    let m := xs.foldl (fun acc x => max acc (quantMag x)) 0
    if m = 0 then ⟨0, zeros, 0⟩
    else
      let e := min (m / 2 ^ 23 + 1) 254
      let rs := xs.map (quantElem rnd e)
      ⟨BitVec.ofNat 8 e, rs.map fun r => r.1, rs.foldl (fun a r => a ||| r.2) 0⟩

/-- The image VQUANT writes across the lanes: plane words, scale byte, zeros (R248). -/
def quantImage (q : Quantised) (l : Nat) : Word :=
  if l < 8 then pniPlane q.qs l else if l = 8 then q.e.setWidth 32 else 0

/-- VQUANT (R248). -/
def execVquant (o : ROps) (s : State) : Result :=
  guarded s o.g [o.d.toNat, o.a.toNat] fun c g p e =>
    let q := quantBlock (rndOf o.md)
      (lanesOf fun i => if bitAt e i then g.vlane c.p.slot o.a.toNat i else 0)
    commit s c g p e (vWrite o.d (lanesOf (quantImage q)) q.fl (marksR o .v .none .none))

/-- VDEQ (R249): the block image is read in the path's own lanes (R141). -/
def execVdeq (km1 : BitVec 3) (ctr bf : Bool) (o : ROps) (s : State) : Result :=
  guarded s o.g [o.d.toNat, o.a.toNat] fun c g p e =>
    let img (l : Nat) : Word := if bitAt p.mask l then g.vlane c.p.slot o.a.toNat l else 0
    let planes := lanesOf img
    let sc : BitVec 8 := (img 8).setWidth 8
    let f := if bf then fmtBf else fmt32
    let r (l : Nat) : Nat × Bool := pniValue f sc (km1.toNat + 1) ctr (pniElem planes l)
    commit s c g p e
      (vWrite o.d (lanesOf fun l => BitVec.ofNat 32 (r l).1)
        (laneFlags e fun l => flagIf (bf && (r l).2) flInx) (marksR o .v .none .none))

/-- One block of an operand of the matrix sum: its scale byte and its 32 integers (R32). -/
structure MatBlock where
  e  : BitVec 8
  as : List Int
  deriving DecidableEq, Repr

/-- The exact sum of products of one block pair (R32). -/
def dot : List Int → List Int → Int
  | a :: as, b :: bs => a * b + dot as bs
  | _, _ => 0

/-- One FP32 element of the matrix sum: accumulator `c`, the four blocks of the row and of the
column, at `k` planes of A (R32). -/
def matrixElem (k : Nat) (ctr : Bool) (c : Word) (row col : List MatBlock) : Word :=
  let pairs := row.zip col
  if anyNan [unpack fmt32 c.toNat] || pairs.any fun x => x.1.e == 255 || x.2.e == 255 then 0x7FC00000
  else
    let t := pairs.filter fun x => x.1.e != 0 && x.2.e != 0
    match t with
    | [] => c
    | t0 :: _ =>
      let eb (x : MatBlock × MatBlock) : Int := planeUnit x.1.e k ctr + ((x.2.e.toNat : Int) - 134)
      let emax := t.foldl (fun m x => max m (eb x)) (eb t0)
      let term (x : MatBlock × MatBlock) : Int :=
        let d := emax - eb x
        let pb := dot x.1.as x.2.as
        pb * (2 : Int) ^ 24 / (2 : Int) ^ d.toNat
      let sum := t.foldl (fun a x => a + term x) 0
      match unpack fmt32 c.toNat with
      | .fin n m e =>
        let r := match addExact .rne n m e (sum < 0) sum.natAbs (emax - 24) with
          | .num n m e st => if m = 0 then 0 else (roundTo fmt32 .rne n m e st).bits
          | _ => 0
        BitVec.ofNat 32 r
      | _ => c

end Sys2Proof.Machine
end

