-- ==== Sys2Proof/Machine/Regs.lean ====
section
/-!
DEFINITION. The control region: every register's place, reset value and access codes (R7, R239,
R263, R267, R271, R272, R306 to R314, R324, R336, R341, R349 to R361, R365 to R388).
The model's own choices here: DESIGN CHOICE, log 3.
-/
namespace Sys2Proof.Machine

/-- A register bank: strictly rising keys, no entry equal to its register's reset value. -/
abbrev RegBank := List (Nat × DWord)

/-- What a field map says of a register: its reset value, its RW bits, its W1C bits (R7). Bits in
neither are read-only, write-only or reserved. -/
structure RegInfo where
  reset : DWord
  rw    : DWord
  w1c   : DWord
  deriving DecidableEq, Repr

/-- A register with these RW bits. -/
def rwReg (reset rw : DWord) : Option RegInfo := some ⟨reset, rw, 0⟩

/-- A read-only register. -/
def roReg (reset : DWord) : Option RegInfo := some ⟨reset, 0, 0⟩

/-- The die control spaces: register at `o` of die `d` (R359). Registers that only die 0 has read 0
on other dies. Of a register whose writes are events of their own, only the RW fields show here. -/
def dieReg (d o : Nat) : Option RegInfo :=
  let only0 (r : Option RegInfo) : Option RegInfo := if d == 0 then r else roReg 0
  match o with
  | 0x0000 => rwReg 0x80001000 0x800FFFFF
  | 0x0008 => rwReg 250000 0xFFFFFFFF
  | 0x0010 => rwReg 0 0xFFFFFFFF
  | 0x0018 => rwReg 1953 0xFFFFFFFF
  | 0x0020 => roReg 0x6400
  | 0x0028 => only0 (rwReg 0 0xFFFFFFFF)
  | 0x0030 => rwReg 0 0xFEF
  | 0x0038 => roReg 0
  | 0x0040 => only0 (rwReg 2400 0xFFF)
  | 0x0048 => roReg 0
  | 0x0300 | 0x0308 | 0x0310 | 0x0318 => rwReg 0 0x800000FF
  | 0x0340 => rwReg 0 0x00FFFF00FFFFFFFF
  | 0x0348 => roReg 0
  | _ =>
    if 0x100 ≤ o && o < 0x280 && o % 8 == 0 then
      match (o - 0x100) / 8 % 3 with
      | 0 => rwReg 0 0x80FFFFFFFFFF0000
      | 1 => rwReg 0 0x0000FFFFFFFF0000
      | _ => rwReg 0 0x0000FFFFFFFFFFC0
    else if 0x1000 ≤ o && o < 0x2000 && o % 8 == 0 then roReg 0
    else none

/-- The capacities of the arbiters (R311). -/
def shcap (w : Nat) : DWord :=
  match w with
  | 0 => 2048
  | 1 => 1843
  | 2 => 4000
  | 3 => 1843
  | 4 => 8000
  | 5 => 2048000
  | 6 => 3584
  | _ => 4096

/-- The package registers below the Kenzu window (R307, R311, R370, R377, R380, R383, R386 to R388). -/
def pkgReg (o : Nat) : Option RegInfo :=
  match o with
  | 0x40000 => rwReg 0 0
  | 0x40008 | 0x40010 | 0x40018 | 0x40028 => rwReg 0 0xFFFFFFFFFFFFFFFF
  | 0x40020 => rwReg 0 0xFFFFFFFF00000000
  | 0x40100 | 0x40108 | 0x40110 | 0x40118 => rwReg 0 0x0000FFF000000000
  | 0x40300 => rwReg 4095 0xFFF
  | 0x40308 => rwReg 5000000 0xFFFFFFFF
  | 0x40310 => rwReg 0 0xFFFFFFFF
  | 0x40500 => rwReg 0 0x2
  | _ =>
    if 0x40200 ≤ o && o < 0x40240 && o % 8 == 0 then roReg (shcap ((o - 0x40200) / 8))
    else if 0x40400 ≤ o && o < 0x40480 && o % 8 == 0 then some ⟨0, 0, 0xFFFFFFFF⟩
    else none

/-- The Kenzu window (R349, R350, R353, R356, R377). -/
def kenzuReg (o : Nat) : Option RegInfo :=
  match o with
  | 0x000 => rwReg 0 0xFF
  | 0x008 => rwReg 0 0x1800000000003FFF
  | 0x010 => rwReg 0 0x00000007FFFFDFFF
  | 0x018 => roReg 0
  | 0x080 | 0x088 | 0x090 | 0x098 => rwReg 0 0x80FFFFFFFFFFFFFC
  | 0x100 => rwReg 0 0xC00000000000000F
  | 0x108 => rwReg 0 0xFFFFFFFFFFFFFFFF
  | 0x110 => roReg 0
  | 0x118 | 0x120 => rwReg 0 0xFFFFFFFF
  | _ => if 0x40 ≤ o && o < 0x80 && o % 8 == 0 then roReg 0 else none

/-- A queue's registers (R324). -/
def queueReg (o : Nat) : Option RegInfo :=
  match o with
  | 0x00 => rwReg 0 0xC000000000000FFF
  | 0x08 => rwReg 0 0x00FFFFFFFFFFFFC0
  | 0x10 | 0x18 => rwReg 0 0xFFFFFFFFFFFFFFFF
  | 0x20 => rwReg 0 0xFFFFFFFF
  | 0x28 | 0x30 | 0x38 => roReg 0
  | _ => none

/-- A function block's registers (R308, R311, R314, R341, R378). -/
def functionReg (o : Nat) : Option RegInfo :=
  match o with
  | 0x000 => rwReg 0 0xC000FFFFFFFFFF81
  | 0x080 => rwReg 0 0x001F3F1F
  | 0x100 => rwReg 0 0x4000000000000000
  | 0x108 => rwReg 0 0xFFFF
  | 0x110 | 0x118 => roReg 0
  | 0x200 => rwReg 0 0xFFFFFFFFFFFFFFFF
  | 0x208 => rwReg 0 0xF
  | 0x210 => roReg 0
  | 0x218 => rwReg 0 0xFFFFFFFF
  | _ => if 0x40 ≤ o && o < 0x80 && o % 8 == 0
         then rwReg 0x0100000100000000 0xFF00FFFF00FFFFFF else none

/-- A window-export entry's registers (R385); the manual gives no reset value (log 3, DESIGN CHOICE). -/
def exportReg (o : Nat) : Option RegInfo :=
  match o with
  | 0x00 | 0x08 => rwReg 0 0xFFFFFFFFFFFFFFFF
  | 0x10 => rwReg 0 0x000001FF8FFF87FF
  | _ => roReg 0

/-- Where virtual device `v`'s copy of the Kenzu register at window offset `o` is kept; KZVD has one
copy (R348). -/
def kenzuKey (v : BitVec 8) (o : Nat) : Nat :=
  if o = 0 then 0x41000 else 0x1000000 + v.toNat * 0x1000 + o

/-- The register at a key of the bank: an offset in BAR0, or a Kenzu copy's key (R348, R377). -/
def regInfo (k : Nat) : Option RegInfo :=
  if k % 8 ≠ 0 then none
  else if k < 0x40000 then dieReg (k / 0x10000) (k % 0x10000)
  else if k < 0x41000 then pkgReg k
  else if k = 0x41000 then kenzuReg 0
  else if 0x48000 ≤ k && k < 0x4A000 then exportReg (k % 32)
  else if 0x50000 ≤ k && k < 0x60000 then queueReg (k % 64)
  else if 0x60000 ≤ k && k < 0x68000 then rwReg 0 0xFFFF
  else if 0x100000 ≤ k && k < 0x200000 then functionReg (k % 0x1000)
  else if 0x1000000 ≤ k && k < 0x1100000 then kenzuReg (k % 0x1000)
  else none

/-- A register's reset value; a reserved place holds 0 (R6, R377). -/
def regReset (k : Nat) : DWord :=
  match regInfo k with
  | some r => r.reset
  | none => 0

/-- The register at a key: what the bank lists, or its reset value. -/
def RegBank.read : RegBank → Nat → DWord
  | [], a => regReset a
  | (k, v) :: t, a => if a < k then regReset a else if a = k then v else RegBank.read t a

/-- Puts a register's value, keeping the canonical form. -/
def RegBank.write : RegBank → Nat → DWord → RegBank
  | [], a, b => if b = regReset a then [] else [(a, b)]
  | (k, v) :: t, a, b =>
    if a < k then (if b = regReset a then (k, v) :: t else (a, b) :: (k, v) :: t)
    else if a = k then (if b = regReset a then t else (k, b) :: t)
    else (k, v) :: RegBank.write t a b

/-- The canonical form of a bank. -/
def RegBank.wf : RegBank → Bool
  | [] => true
  | [(k, v)] => v != regReset k
  | (k, v) :: (k', v') :: t => v != regReset k && k < k' && RegBank.wf ((k', v') :: t)

/-- A register's stored value. -/
def State.reg (s : State) (k : Nat) : DWord := RegBank.read s.regs k

/-- Sets a register's stored value. -/
def State.setReg (s : State) (k : Nat) (v : DWord) : State :=
  { s with regs := RegBank.write s.regs k v }

/-- A write under the access codes: RW bits take the value, W1C bits clear where it is 1, every
other bit keeps (R7). -/
def RegInfo.merge (r : RegInfo) (old v : DWord) : DWord :=
  (v &&& r.rw) ||| (old &&& ~~~(v &&& r.w1c) &&& ~~~r.rw)

/-- The place of a register of die `d` (R359). -/
def dieKey (d : BitVec 2) (o : Nat) : Nat := 0x10000 * d.toNat + o

/-- The place of a register of queue `q` (R377). -/
def queueKey (q : BitVec 10) (o : Nat) : Nat := 0x50000 + 64 * q.toNat + o

/-- The place of a register of virtual device `v`'s function block (R377). -/
def vdKey (v : BitVec 8) (o : Nat) : Nat := 0x100000 + 4096 * v.toNat + o

/-- DLINE of a die, in TB ticks (R263). -/
def State.dline (s : State) (d : BitVec 2) : Nat :=
  max 10000 ((s.reg (dieKey d 8)).toNat % 2 ^ 32)

/-- The offsets of a die's rails VCORE, VSRAM, VDRAM and VSERDES in mV: 5 mV steps, beyond 30 as 30, none where EN
is 0 (R366). -/
def State.rails (s : State) (d : BitVec 2) : List Int :=
  (List.range 4).map fun n =>
    let r := s.reg (dieKey d (0x300 + 8 * n))
    if r.getLsbD 31 then 5 * max (-30) (min 30 (r.setWidth 8).toInt) else 0

/-- A 32-bit saturating count in a register rises by one (R267, R388). -/
def State.bumpReg (s : State) (k : Nat) : State :=
  let v := (s.reg k).toNat % 2 ^ 32
  s.setReg k (BitVec.ofNat 64 (min (v + 1) (2 ^ 32 - 1)))

end Sys2Proof.Machine
end

