-- ==== Sys2Proof/Machine/Walk.lean ====
section
/-!
DEFINITION. The home of an address, page tables and the walker, format ranges, and the bytes a view
shows of a frame (R258, R268 to R276, R306).
The model's own choices here: DESIGN CHOICE, log 2.
-/
namespace Sys2Proof.Machine

/-- The line an address lies in. -/
def lineOf (va : Va) : Va := va &&& 0xFFFFFFFFFFFF80

/-- The set bits of a die mask, lowest first. -/
def maskDies (m : BitVec 4) : List (BitVec 2) :=
  [(0 : BitVec 2), 1, 2, 3].filter fun d => m.getLsbD d.toNat

/-- The home die of a VA (R258). -/
def homeDie (seed : BitVec 40) (mask : BitVec 4) (va : Va) : BitVec 2 :=
  let x := va.extractLsb' 16 40 ^^^ seed
  let f : BitVec 16 := x.extractLsb' 0 16 ^^^ x.extractLsb' 16 16 ^^^ (x.extractLsb' 32 8).setWidth 16
  let ds := maskDies mask
  ds.getD (f.toNat * ds.length / 2 ^ 16) 0

/-- The home of a VA of a virtual device; without a root it has none, and 0 stands. -/
def State.homeOf (s : State) (vd : BitVec 8) (va : Va) : BitVec 2 :=
  match (s.vdev vd).root with
  | some r => homeDie r.seed r.mask va
  | none => 0

/-- Capacity DRAM ends at 48 GiB (R268). -/
def dramEnd : Nat := 0xC00000000

/-- Where the CXL range starts (R268). -/
def cxlBase : Nat := 0x10000000000

/-- Whether a die-local PA is backed by memory (R268, R381). -/
def State.backed (s : State) (die : BitVec 2) (pa : Nat) : Bool :=
  pa < dramEnd || (cxlBase ≤ pa && pa < cxlBase + s.cxlBytes.getD die.toNat 0)

/-- The place of a die-local PA in `State.mem`. -/
def frameKey (die : BitVec 2) (pa : Nat) : Nat := die.toNat * 2 ^ 48 + pa

/-- The `n` bytes of die-local memory from a PA on. -/
def State.frameBytes (s : State) (die : BitVec 2) (pa n : Nat) : List Byte :=
  Memory.readN s.mem (frameKey die pa) n

/-- An 8-byte word of die-local memory. -/
def State.frameWord (s : State) (die : BitVec 2) (pa : Nat) : DWord :=
  BitVec.ofNat 64 (natOfBytes (s.frameBytes die pa 8))

/-- A format range in force: its first and last frames and its scale region (R272). -/
structure FmtRange where
  base  : Nat
  last  : Nat
  scale : Nat
  deriving DecidableEq, Repr

/-- FR`n` of a die, if it is in force (R272). -/
def State.fmtRange (s : State) (die : BitVec 2) (n : Nat) : Option FmtRange :=
  let w0 := s.reg (dieKey die (0x100 + 24 * n))
  let base := (w0.extractLsb' 16 32).toNat
  let last := ((s.reg (dieKey die (0x108 + 24 * n))).extractLsb' 16 32).toNat
  let scale := ((s.reg (dieKey die (0x110 + 24 * n))).extractLsb' 6 42).toNat * 64
  if w0.getLsbD 63 && (w0.extractLsb' 48 8) == 1 && base ≤ last then some ⟨base, last, scale⟩
  else none

/-- The range that governs a frame: the lowest-numbered one in force that covers it (R272). -/
def State.rangeOf (s : State) (die : BitVec 2) (pfn : Nat) : Option FmtRange :=
  ((List.range 16).filterMap (s.fmtRange die)).find? fun r => r.base ≤ pfn && pfn ≤ r.last

/-- What a walk found other than a leaf (R270). -/
inductive WalkFail where
  | absent
  | tableError
  deriving DecidableEq, Repr

/-- The partition a virtual device's root names (R308). -/
def State.partOf (s : State) (vd : BitVec 8) : Option Partition :=
  match (s.vdev vd).root with
  | some r => s.parts.find? fun p => p.num.toNat == r.part
  | none => none

/-- Whether a virtual device's partition owns the channel or the CXL port a PA lies on (R305, R306). -/
def State.ownsFrame (s : State) (vd : BitVec 8) (die : BitVec 2) (pa : Nat) : Bool :=
  match s.partOf vd with
  | none => false
  | some p =>
    if pa < dramEnd then p.chan.getLsbD (16 * die.toNat + pa / 0xC0000000)
    else p.eng.getLsbD (16 + die.toNat)

/-- A level 1 to 3 entry: the next table's PA (R269, R270). -/
def nextTable (w : DWord) : Except WalkFail Nat :=
  if !w.getLsbD 0 then .error .absent
  else
    let next := (w.extractLsb' 13 35).toNat * 2 ^ 13
    if (w.extractLsb' 48 16) != 0 || (w.extractLsb' 1 12) != 0 || dramEnd ≤ next then
      .error .tableError
    else .ok next

/-- The fields of a level 4 entry (R269). -/
def leafOf (w : DWord) : Leaf :=
  { pfn := w.extractLsb' 16 32, h := w.getLsbD 11, c := w.getLsbD 10, km1 := w.extractLsb' 7 3,
    view := w.extractLsb' 4 3, x := w.getLsbD 3, w := w.getLsbD 2, r := w.getLsbD 1 }

/-- A level 4 entry: the leaf, or why it is none (R270, R306). -/
def State.checkLeaf (s : State) (vd : BitVec 8) (die : BitVec 2) (w : DWord) : Except WalkFail Leaf :=
  if !w.getLsbD 0 then .error .absent
  else
    let l := leafOf w
    let pa := l.pfn.toNat * 2 ^ 16
    let v := l.view.toNat
    let bad := (w.extractLsb' 48 16) != 0 || (w.extractLsb' 12 4) != 0 || !s.backed die pa ||
      !s.ownsFrame vd die pa || 4 ≤ v ||
      (1 ≤ v && (s.rangeOf die l.pfn.toNat).isNone) ||
      (2 ≤ v && (l.w || l.x)) ||
      (v != 3 && (l.c || l.h)) ||
      (v < 2 && l.km1 != 0) || (2 ≤ v && l.km1 == 0)
    if bad then .error .tableError else .ok l

/-- Whether walks may start from a root: every die of its mask has a valid page-table root in its capacity DRAM
(R269). -/
def Root.walks (r : Root) : Bool :=
  (maskDies r.mask).all fun d =>
    let w := r.ptroot.getD d.toNat 0
    w.getLsbD 0 && (w.extractLsb' 13 35).toNat * 2 ^ 13 < dramEnd

/-- The four-level walk of a page on a die (R269, R270). -/
def State.walk (s : State) (die : BitVec 2) (vd : BitVec 8) (va : Va) : Except WalkFail Leaf :=
  match (s.vdev vd).root with
  | none => .error .tableError
  | some r =>
    let root := r.ptroot.getD die.toNat 0
    let t1 := (root.extractLsb' 13 35).toNat * 2 ^ 13
    let entry (t : Nat) (i : BitVec 10) : DWord := s.frameWord die (t + 8 * i.toNat)
    if !r.walks || !root.getLsbD 0 then .error .tableError
    else
      match nextTable (entry t1 (va.extractLsb' 46 10)) with
      | .error e => .error e
      | .ok t2 =>
        match nextTable (entry t2 (va.extractLsb' 36 10)) with
        | .error e => .error e
        | .ok t3 =>
          match nextTable (entry t3 (va.extractLsb' 26 10)) with
          | .error e => .error e
          | .ok t4 => s.checkLeaf vd die (entry t4 (va.extractLsb' 16 10))

/-- A translation: a cached walk of the page, or a walk that is then cached (R269, R271). A view of PNI frames
needs a range that governs its frame when its line is filled, the walk cached or not (R270, R272). -/
def State.translate (s : State) (die : BitVec 2) (vd : BitVec 8) (va : Va) :
    Except WalkFail (Leaf × State) :=
  let vpn : BitVec 40 := va.extractLsb' 16 40
  match s.walks.find? fun w => w.die == die && w.vd == vd && w.vpn == vpn with
  | some w =>
    if w.leaf.view != 0 && (s.rangeOf die w.leaf.pfn.toNat).isNone then .error .tableError else .ok (w.leaf, s)
  | none =>
    match s.walk die vd va with
    | .ok l => .ok (l, { s with walks := ⟨die, vd, vpn, l⟩ :: s.walks })
    | .error e => .error e

/-- The plane words of a block: `slab` is the slab's first PA, `j` the block (R273). -/
def State.planes (s : State) (die : BitVec 2) (slab j : Nat) : List Word :=
  (List.range 8).map fun p =>
    BitVec.ofNat 32 (natOfBytes (s.frameBytes die (slab + 256 * p + 4 * j) 4))

/-- Element `e` of a frame, with its block's scale byte (R273). -/
def State.pniAt (s : State) (die : BitVec 2) (pfn e : Nat) : BitVec 8 × BitVec 8 :=
  let slab := e / 2048
  let j := e / 32 % 64
  let q := pniElem (s.planes die (pfn * 2 ^ 16 + 2048 * slab) j) (e % 32)
  let sc := match s.rangeOf die pfn with
    | some r => (s.frameBytes die (r.scale + 2048 * (pfn - r.base) + 64 * slab + j) 1).getD 0 0
    | none => 0
  (q, sc)

/-- The byte a view shows at an offset of its page (R274). -/
def State.viewByte (s : State) (die : BitVec 2) (l : Leaf) (o : Nat) : Byte :=
  let pfn := l.pfn.toNat
  match l.view.toNat with
  | 0 => (s.frameBytes die (pfn * 2 ^ 16 + o) 1).getD 0 0
  | 1 => (s.pniAt die pfn o).1
  | 2 =>
    let q := (s.pniAt die pfn o).1
    BitVec.ofInt 8 (q.toInt / (2 : Int) ^ (7 - l.km1.toNat))
  | _ =>
    let x := s.pniAt die pfn ((if l.h then 32768 else 0) + o / 2)
    let v := (pniValue fmtBf x.2 (l.km1.toNat + 1) l.c x.1).1
    BitVec.ofNat 8 (if o % 2 = 0 then v else v / 256)

/-- The 128 bytes a fill of a line reads (R274). -/
def State.fillBytes (s : State) (die : BitVec 2) (l : Leaf) (va : Va) : List Byte :=
  let o := (lineOf va).toNat % 2 ^ 16
  if l.view = 0 then s.frameBytes die (l.pfn.toNat * 2 ^ 16 + o) 128
  else (List.range 128).map fun i => s.viewByte die l (o + i)

/-- Puts the 8 bits of element `e` of a frame into its plane words (R275). -/
def State.putElem (s : State) (die : BitVec 2) (pfn e : Nat) (q : Byte) : State :=
  let slab := pfn * 2 ^ 16 + 2048 * (e / 2048)
  let j := e / 32 % 64
  let t := e % 32
  { s with mem := (List.range 8).foldl (fun m p =>
      let a := frameKey die (slab + 256 * p + 4 * j + t / 8)
      let b := Memory.read m a
      let bit : Byte := BitVec.ofNat 8 (2 ^ (t % 8))
      Memory.write m a (if q.getLsbD (7 - p) then b ||| bit else b &&& ~~~bit)) s.mem }

/-- The write-back of a line's dirty bytes to the frame it was filled from (R268, R275). -/
def State.writeBack (s : State) (h : HomeLine) : State :=
  let o := h.va.toNat % 2 ^ 16
  let pfn := h.leaf.pfn.toNat
  if h.leaf.view = 0 then
    let marks := (List.range 128).map fun i => h.dirty.getLsbD i
    { s with mem := Memory.writeMarked s.mem (frameKey h.die (pfn * 2 ^ 16 + o)) (h.bytes.zip marks) }
  else (List.range 128).foldl (fun s i =>
    if h.dirty.getLsbD i then s.putElem h.die pfn (o + i) (h.bytes.getD i 0) else s) s

/-- Whether a leaf permits an access (R270). -/
def Leaf.permits (l : Leaf) (a : Access) : Bool :=
  match a with
  | .read => l.r
  | .write => l.w
  | .atomic => l.w && l.view == 0
  | .fetch => l.x && l.view == 0

/-- Whether an optional leaf permits an access: scratch and tile lines have none and need none. -/
def leafPermits (l : Option Leaf) (a : Access) : Bool :=
  match l with
  | some l => l.permits a
  | none => true

end Sys2Proof.Machine
end

