-- ==== Sys2Proof/Machine/Event.lean ====
section
/-!
DEFINITION. Host memory and its translations, the event channel, page-fault records (R177, R277,
R341, R374, R376).
The model's own choices here: DESIGN CHOICE, logs 2, 4, 23, 25.
-/
namespace Sys2Proof.Machine

/-- The 4 KiB page of a host virtual address (R277, R374). -/
def hostVpn (va : Nat) : BitVec 48 := BitVec.ofNat 48 (va / 4096)

/-- The place of a host physical byte in `State.mem`. -/
def hostKey (hpn : BitVec 48) (va : Nat) : Nat := 2 ^ 64 + hpn.toNat * 4096 + va % 4096

/-- The translation a virtual device's host page has: the cached one, or the host's answer to a new
translation request, whose page number and presence the manual leaves to the host: a free value
(R277; log 4, DESIGN CHOICE). -/
def State.ats (s : State) (vd : BitVec 8) (vpn : BitVec 48) : AtcEntry × Bool × State :=
  match s.atc.find? fun e => e.vd == vd && e.vpn == vpn with
  | some e => (e, true, s)
  | none =>
    let w := Config.freeWord s.free
    let e : AtcEntry := ⟨vd, vpn, w.extractLsb' 0 48, w.getLsbD 48, w.getLsbD 49⟩
    let present := w.getLsbD 50
    let s := { s with free := s.free + 1 }
    (e, present, if present then { s with atc := e :: s.atc } else s)

/-- The translation used by a posted record, whose path no fault stops (R375, R376). -/
def State.atsForced (s : State) (vd : BitVec 8) (vpn : BitVec 48) : BitVec 48 × State :=
  let r := s.ats vd vpn
  (r.1.hpn, if r.2.1 then r.2.2 else { r.2.2 with atc := r.1 :: r.2.2.atc })

/-- An answer of a line's home under bytes that have come there since. -/
def LineResult.after (r : LineResult) (bs : List Byte) (m : BitVec 128) : LineResult :=
  match r with
  | .data old l => .data (mergeBytes old bs m 0) l
  | x => x

/-- The place in host memory of a virtual device's host address, by the translation die 0 has cached. -/
def State.hostPlace (s : State) (vd : BitVec 8) (va : Nat) : Option Nat :=
  (s.atc.find? fun e => e.vd == vd && e.vpn == hostVpn va).map fun e => hostKey e.hpn va

/-- Whether two keys name one line: of host memory, by whatever virtual device and address (R277, R294). -/
def State.sameLine (s : State) (k q : LineKey) : Bool :=
  k == q || match k, q with
    | .host v a, .host w b => (s.hostPlace v a.toNat).isSome && s.hostPlace v a.toNat == s.hostPlace w b.toNat
    | _, _ => false

/-- Answers that are on their way, or not taken up yet, take what their line's home takes: a read binds the
home's value when it takes its answer up, so that none is served from before an acquire, or before its own
path's write (R282, R283, R294; log 23, DESIGN CHOICE). -/
def State.freshen (s : State) (k : LineKey) (bs : List Byte) (m : BitVec 128) : State :=
  { s with resps := s.resps.map fun (x : Response) =>
      if s.sameLine k x.req.key then { x with res := x.res.after bs m } else x }

/-- What a posted write leaves in the answers for the lines it lies in. -/
def State.freshenHost (s : State) (vd : BitVec 8) (va : Nat) (bs : List Byte) : State :=
  let o := va % 128
  let k (a : Nat) : LineKey := .host vd (BitVec.ofNat 56 (a - a % 128))
  let s := s.freshen (k va) (putBytes zeroLine o (bs.take (128 - o))) (marksOf o (min bs.length (128 - o)))
  if bs.length ≤ 128 - o then s
  else s.freshen (k (va + 128)) (putBytes zeroLine 0 (bs.drop (128 - o))) (marksOf 0 (bs.length - (128 - o)))

/-- A posted write of bytes that lie in one page of host memory (R376). -/
def State.hostWrite (s : State) (vd : BitVec 8) (va : Nat) (bs : List Byte) : State :=
  let r := s.atsForced vd (hostVpn va)
  let s := r.2.freshenHost vd va bs
  { s with mem := Memory.writeN s.mem (hostKey r.1 va) bs }

/-- The 64 bytes of an event record (R341). -/
def EventRec.bytes (e : EventRec) (hseq : Word) : List Byte :=
  e.ty :: 0 :: bytesOfNat 2 e.queue.toNat ++ bytesOfNat 4 e.dseq.toNat ++ bytesOfNat 4 hseq.toNat ++
    bytesOfNat 4 e.code.toNat ++ (e.payload ++ List.replicate (32 - e.payload.length) 0).take 32 ++
    List.replicate 16 0

/-- The records an event ring holds (R341). -/
def State.evRing (s : State) (vd : BitVec 8) : Nat := 2 ^ ((s.reg (vdKey vd 0x208)).toNat % 16 + 6)

/-- Whether the ring has room for record `dseq`: fewer than its size are written and not consumed
(R341). -/
def State.evRoom (s : State) (vd : BitVec 8) (dseq : Word) : Bool :=
  (dseq - (s.reg (vdKey vd 0x218)).setWidth 32).toNat ≤ s.evRing vd

/-- Writes a record into its ring entry; EVSEQ then becomes its number, and MSI-X vector 0 follows
(R341, R374, R376). -/
def State.putEvent (s : State) (vd : BitVec 8) (e : EventRec) : State :=
  let hseq : Word :=
    if e.queue = 0xFFFF then 0 else (s.reg (queueKey (e.queue.setWidth 10) 0x28)).setWidth 32
  let at' := (s.reg (vdKey vd 0x200)).toNat + 64 * (e.dseq.toNat % s.evRing vd)
  let s := s.hostWrite vd at' (e.bytes hseq)
  let s := s.setReg (vdKey vd 0x210) (e.dseq.setWidth 64)
  { s with out := s.out ++ [.msix vd 0] }

/-- The records in the die's buffer (R341). -/
def State.evBuffered (s : State) : Nat := (s.vds.map fun d => d.evbuf.length).sum

/-- A new event record of a virtual device: into the ring if it has room and nothing is ahead of
it, else into the buffer, else into the reserve (R341). -/
def State.event (s : State) (vd : BitVec 8) (ty : BitVec 8) (queue : BitVec 16) (code : Word)
    (payload : List Byte) : State :=
  let d := s.vdev vd
  let n := d.dseq + 1
  let e : EventRec := ⟨ty, queue, n, code, payload⟩
  if d.evbuf.isEmpty && d.evresv.isEmpty && s.evRoom vd n then
    (s.setVdev { d with dseq := n }).putEvent vd e
  else if d.evresv.isEmpty && s.evBuffered < 64 then
    s.setVdev { d with dseq := n, evbuf := d.evbuf ++ [e] }
  else s.setVdev { d with dseq := n, evresv := d.evresv ++ [e] }

/-- A page-fault record: its producer waits when ring and buffer are full (R341). -/
def State.faultEvent (s : State) (vd : BitVec 8) (payload : List Byte) : State :=
  let d := s.vdev vd
  if d.evwait.isEmpty && d.evresv.isEmpty &&
      ((d.evbuf.isEmpty && s.evRoom vd (d.dseq + 1)) || s.evBuffered < 64) then
    s.event vd 1 0xFFFF 0 payload
  else s.setVdev { d with evwait := d.evwait ++ [payload] }

/-- The oldest record that waits goes into the ring, while it has room; `n` bounds the records
(R341). -/
def State.drainEvents (s : State) (vd : BitVec 8) : Nat → State
  | 0 => s
  | n + 1 =>
    let d := s.vdev vd
    match d.evbuf ++ d.evresv with
    | e :: _ =>
      if s.evRoom vd e.dseq then
        let d := if d.evbuf.isEmpty then { d with evresv := d.evresv.drop 1 }
          else { d with evbuf := d.evbuf.drop 1 ++ d.evresv.take 1, evresv := d.evresv.drop 1 }
        ((s.setVdev d).putEvent vd e).drainEvents vd n
      else s
    | [] =>
      match d.evwait with
      | p :: _ =>
        if s.evRoom vd (d.dseq + 1) then
          ((s.setVdev { d with evwait := d.evwait.drop 1 }).event vd 1 0xFFFF 0 p).drainEvents vd n
        else s
      | [] => s

/-- The *where* word of a group of a block (R177). -/
def whereOf (b : Block) (gid : Nat) : Word :=
  BitVec.ofNat 32 (gid + 16 * b.bid + 128 * b.cid + 2048 * b.dieid)

/-- The *where* word of a Carter operation of a block's channel (R177, R321). -/
def whereChan (b : Block) (ch : Nat) : Word := BitVec.ofNat 32 (ch + 128 * b.cid + 2048 * b.dieid)

/-- The tag of a virtual device's next page-fault record: replay entry, and a serial number that
rises by 1 (R177). -/
def State.newTag (s : State) (vd : BitVec 8) (entry : Nat) : Word × State :=
  let d := s.vdev vd
  (d.serial ++ BitVec.ofNat 3 entry, s.setVdev { d with serial := d.serial + 1 })

/-- The 32 bytes of a page-fault record (R177). -/
def faultPayload (va pc : Va) (lanes tag wh : Word) (vd : BitVec 8) (bits : Nat) : List Byte :=
  bytesOfNat 8 va.toNat ++ bytesOfNat 8 pc.toNat ++ bytesOfNat 4 lanes.toNat ++
    bytesOfNat 4 tag.toNat ++ bytesOfNat 4 wh.toNat ++
    bytesOfNat 4 (vd.toNat + 0x2000 + 0x10000 * bits)

/-- Sends a page-fault record with a new tag, and remembers what its answer releases: `bits` is
read 1, write 2, atomic 4, fetch 8 (R175 to R177). -/
def State.sendFault (s : State) (vd : BitVec 8) (entry : Nat) (va pc : Va) (lanes wh : Word)
    (bits : Nat) (owner : FaultOwner) : Word × State :=
  let r := s.newTag vd entry
  let d := r.2.vdev vd
  let s := r.2.setVdev { d with faults := d.faults ++ [⟨r.1, va, owner⟩] }
  (r.1, s.faultEvent vd (faultPayload va pc lanes r.1 wh vd bits))

/-- Asks the host for a host-space page through PRI, with a request number of its own; with 1,024 outstanding a
request waits until one of them is answered (R175, R277, R374). -/
def State.sendPri (s : State) (vd : BitVec 8) (vpn : BitVec 48) (owner : FaultOwner) : Nat × State :=
  let r := s.newId
  (r.1, { r.2 with priReqs := r.2.priReqs ++ [⟨r.1, vd, vpn, owner⟩],
                   out := if r.2.priReqs.length < 1024 then r.2.out ++ [.pri vd vpn r.1] else r.2.out })

/-- Page requests end, and those that waited go out in their place (R277, R374). -/
def State.endPri (s : State) (gone : PriReq → Bool) : State :=
  let rest := s.priReqs.filter fun x => !gone x
  let k := ((s.priReqs.take 1024).filter fun x => !gone x).length
  { s with priReqs := rest,
           out := s.out ++ ((rest.take 1024).drop k).map fun (x : PriReq) => .pri x.vd x.vpn x.tag }

end Sys2Proof.Machine
end

