-- ==== Sys2Proof/Machine/Access.lean ====
section
/-!
DEFINITION. The path of an access: L1, RDC, home, requests to other dies, the store buffer and the
stores on their way; the sets and ways of the caches (R12, R170 to R174, R259, R263, R267, R268, R271, R282,
R283, R288, R314).
The model's own choices here: DESIGN CHOICE, logs 23, 42, 43.
-/
namespace Sys2Proof.Machine

/-- Who makes an access: the core, the virtual device, the path. -/
structure Site where
  core : BitVec 9
  vd   : BitVec 8
  path : PathRef
  deriving DecidableEq, Repr

/-- The die of the access (R259). -/
def Site.die (st : Site) : BitVec 2 := dieOf st.core

/-- A block's tile or scratch memory, as a line key names it. -/
def State.bankOf (s : State) : LineKey → Memory
  | .scr b _ => match s.block? b with
    | some x => x.scr
    | none => []
  | .tile b _ => match s.block? b with
    | some x => x.tile
    | none => []
  | _ => []

/-- The 128 bytes of a scratch or tile line (R197). -/
def State.bankLine (s : State) (k : LineKey) : List Byte :=
  match k with
  | .scr _ o | .tile _ o => Memory.readN (s.bankOf k) o 128
  | _ => zeroLine

/-- Bytes paired with their marks. -/
def withMarks (bs : List Byte) (m : BitVec 128) : List (Byte × Bool) :=
  bs.zip ((List.range 128).map fun i => m.getLsbD i)

/-- Writes the marked bytes of a scratch or tile line; what lies above the block's allocation is nobody's
(R197, R198). -/
def State.bankWrite (s : State) (k : LineKey) (bs : List Byte) (m : BitVec 128) : State :=
  match k with
  | .scr b o =>
    match s.block? b with
    | some x => s.setBlock { x with scr := (Memory.writeMarked x.scr o (withMarks bs m)).below (unitBytes x.alloc.scr) }
    | none => s
  | .tile b o =>
    match s.block? b with
    | some x => s.setBlock { x with tile := (Memory.writeMarked x.tile o (withMarks bs m)).below (unitBytes x.alloc.tile) }
    | none => s
  | _ => s

/-- The die a line is homed on: a virtual address's home, die 0 for host space, the die of a block's bank
(R173, R258, R277, R282). -/
def State.keyDie (s : State) : LineKey → BitVec 2
  | .mem die _ _ => die
  | .host _ _ => 0
  | .scr b _ | .tile b _ => match s.block? b with
    | some x => dieOf x.core
    | none => 0

/-! ### Sets, ways and victims (R12, R306, R314; log 43, DESIGN CHOICE) -/

/-- The virtual device a line belongs to, for its quota. -/
def LineKey.owner : LineKey → BitVec 8
  | .mem _ vd _ | .host vd _ => vd
  | .scr _ _ | .tile _ _ => 0

/-- The number of a line in its address space. -/
def LineKey.number : LineKey → Nat
  | .mem _ _ va | .host _ va => va.toNat / 128
  | .scr _ o | .tile _ o => o / 128

/-- A virtual device's ways in every set of the L2, the LLC and the RDC (R314). -/
def State.l2Ways (s : State) (vd : BitVec 8) : Nat := ((s.reg (vdKey vd 0x80)).extractLsb' 0 5).toNat

@[inherit_doc State.l2Ways]
def State.llcWays (s : State) (vd : BitVec 8) : Nat := ((s.reg (vdKey vd 0x80)).extractLsb' 8 6).toNat

@[inherit_doc State.l2Ways]
def State.rdcWays (s : State) (vd : BitVec 8) : Nat := ((s.reg (vdKey vd 0x80)).extractLsb' 16 5).toNat

/-- The victim of a miss of virtual device `v` in a full set, whose lines are listed least recently used
first: the first borrowed line; else, when `v` is at or above its quota, its own first line (R314). -/
def victimOf {α : Type} (vd : α → BitVec 8) (quota : BitVec 8 → Nat) (v : BitVec 8) (set : List α) : Option α :=
  let held (w : BitVec 8) : Nat := (set.filter fun x => vd x == w).length
  match set.find? fun x => quota (vd x) < held (vd x) with
  | some x => some x
  | none => if quota v ≤ held v then set.find? fun x => vd x == v else none

/-- The set of a line in the LLC of its die, of 1,048,576 sets of 32 ways, and in an RDC, of 8,192 sets of 16
ways (R12, R268, R314). -/
def llcSet (k : LineKey) : Nat := k.number % 2 ^ 20

@[inherit_doc llcSet]
def rdcSet (k : LineKey) : Nat := k.number % 2 ^ 13

/-- The L2 banks of a die that cache a virtual device's lines (R306). -/
def State.l2Banks (s : State) (die : BitVec 2) (vd : BitVec 8) : List Nat :=
  match s.partOf vd with
  | some p => (List.range 32).filter fun k => p.l2b.getLsbD (32 * die.toNat + k)
  | none => List.range 32

/-- The bank and the set of a line in its die's L2, of 1,024 sets of 16 ways in each bank (R12, R306). -/
def State.l2Set (s : State) (die : BitVec 2) (k : LineKey) : Nat × Nat :=
  let bs := s.l2Banks die k.owner
  (bs.getD (k.number % bs.length) 0, k.number / bs.length % 1024)

/-- A line's key. -/
def HomeLine.key (h : HomeLine) : LineKey := .mem h.die h.vd h.va

/-- A line at its home (R268, R282). -/
def State.homeLine? (s : State) (die : BitVec 2) (vd : BitVec 8) (la : Va) : Option HomeLine :=
  s.home.find? fun h => h.die == die && h.vd == vd && h.va == la

/-- A line leaves its home's L2 and LLC. -/
def State.dropHome (s : State) (h : HomeLine) : State :=
  { s with home := s.home.filter fun x => !(x.die == h.die && x.vd == h.vd && x.va == h.va) }

/-- A line at its home, used last. -/
def State.putHome (s : State) (h : HomeLine) : State :=
  { s with home := (s.dropHome h).home ++ [h] }

/-- A line comes into its die's L2: the victim stays in the LLC alone; without one the line does (R268,
R314). -/
def State.enterL2 (s : State) (h : HomeLine) : State :=
  let p := s.l2Set h.die h.key
  let set := (s.dropHome h).home.filter fun x => x.inL2 && x.die == h.die && s.l2Set x.die x.key == p
  if set.length < 16 then s.putHome { h with inL2 := true }
  else
    match victimOf (fun x => x.vd) s.l2Ways h.vd set with
    | some v => (s.putHome { v with inL2 := false }).putHome { h with inL2 := true }
    | none => s.putHome { h with inL2 := false }

/-- Puts a line at its home. One that is new takes a way of its LLC set, whose victim is written back; without
a way its written bytes go to its frame at once and it stays nowhere (R268, R314). -/
def State.setHome (s : State) (h : HomeLine) : State :=
  match s.homeLine? h.die h.vd h.va with
  | some x => if x.inL2 || !h.inL2 then s.putHome h else s.enterL2 h
  | none =>
    let set := s.home.filter fun x => x.die == h.die && llcSet x.key == llcSet h.key
    if set.length < 32 then s.enterL2 h
    else
      match victimOf (fun x => x.vd) s.llcWays h.vd set with
      | some v => ((s.writeBack v).dropHome v).enterL2 h
      | none => s.writeBack h

/-- A line at its home, filled through the walker when it is absent (R259, R268, R269). -/
def State.homeFetch (s : State) (die : BitVec 2) (vd : BitVec 8) (va : Va) :
    Except WalkFail (HomeLine × State) :=
  let la := lineOf va
  match s.homeLine? die vd la with
  | some h => .ok (h, s.setHome { h with inL2 := true })
  | none =>
    match s.translate die vd la with
    | .error e => .error e
    | .ok (l, s) =>
      let h : HomeLine := ⟨die, vd, la, s.fillBytes die l la, 0, l, true⟩
      .ok (h, s.setHome h)

/-- The 128 bytes of a line at its point of coherence, where every arrived write stands (R282): the
home's line, filled through `leaf` when absent, the bank, or host memory. -/
def State.coherent (s : State) (k : LineKey) (leaf : Option Leaf) : List Byte :=
  match k with
  | .mem die vd la =>
    match s.homeLine? die vd la, leaf with
    | some h, _ => h.bytes
    | none, some l => s.fillBytes die l la
    | none, none => zeroLine
  | .host vd la =>
    Memory.readN s.mem (hostKey (s.atsForced vd (hostVpn la.toNat)).1 la.toNat) 128
  | .scr _ _ | .tile _ _ => s.bankLine k

/-- The marked bytes arrive at a line's home: the line's L2, filled through `leaf` when absent; the
bank; or host memory (R173, R271, R282). -/
def State.arriveLine (s : State) (k : LineKey) (bs : List Byte) (m : BitVec 128)
    (leaf : Option Leaf) : State :=
  match k with
  | .mem die vd la =>
    let s := s.freshen k bs m
    let h : Option HomeLine := match s.homeLine? die vd la, leaf with
      | some h, _ => some h
      | none, some l => some ⟨die, vd, la, s.fillBytes die l la, 0, l, true⟩
      | none, none => none
    match h with
    | some h => s.setHome { h with bytes := mergeBytes h.bytes bs m 0, dirty := h.dirty ||| m, inL2 := true }
    | none => s
  | .host vd la =>
    let r := s.atsForced vd (hostVpn la.toNat)
    let s := r.2.freshen k bs m
    { s with mem := Memory.writeMarked s.mem (hostKey r.1 la.toNat) (withMarks bs m) }
  | .scr _ _ | .tile _ _ => (s.freshen k bs m).bankWrite k bs m

/-- Writes bytes of one line at a VA of a virtual device, for the device itself; none where the page
refuses it. -/
def State.deviceWrite (s : State) (vd : BitVec 8) (va : Va) (bs : List Byte) : Option State :=
  match s.homeFetch (s.homeOf vd va) vd va with
  | .error _ => none
  | .ok (h, s) =>
    if !h.leaf.w then none
    else
      let o := va.toNat % 128
      some (s.arriveLine h.key (putBytes zeroLine o bs) (marksOf o bs.length) (some h.leaf))

/-- What the device's own access of some bytes on behalf of a die leaves when it is refused: another die's home that
refuses a line of them counts the refusal, as it does a request's; an absent page is none (R267; log 42, DESIGN
CHOICE). -/
def State.countRefusal (s : State) (die : BitVec 2) (vd : BitVec 8) (a : Access) (va n : Nat) : State :=
  let refuses (la : Nat) : Bool :=
    let home := s.homeOf vd (BitVec.ofNat 56 la)
    home != die && la < va + n && match s.homeFetch home vd (BitVec.ofNat 56 la) with
      | .ok (h, _) => !h.leaf.permits a
      | .error .absent => false
      | .error .tableError => true
  match ((List.range (n / 128 + 2)).map fun i => va / 128 * 128 + 128 * i).find? refuses with
  | some la => s.bumpReg (dieKey (s.homeOf vd (BitVec.ofNat 56 la)) 0x10)
  | none => s

/-- A line of a core's L1 (R170). -/
def State.l1Line? (s : State) (core : BitVec 9) (k : LineKey) : Option L1Line :=
  s.l1.find? fun x => x.core == core && x.key == k

/-- The lines of a core's L1, of 2,048 lines (R12, R170). -/
def State.l1Of (s : State) (core : BitVec 9) : List L1Line := s.l1.filter fun x => x.core == core

/-- Whether a line finds a place in an L1: it is there, or a place is free, or a line there holds no
unacknowledged store's bytes (R174). -/
def State.l1Room (s : State) (core : BitVec 9) (k : LineKey) : Bool :=
  (s.l1Line? core k).isSome || (s.l1Of core).length < 2048 || (s.l1Of core).any fun x => x.keep.isEmpty

/-- Puts a line into an L1. A new one takes the place of the line that was filled or written longest ago and
holds no unacknowledged store's bytes, once the L1 is full; without a place it stays out (R174). -/
def State.setL1 (s : State) (x : L1Line) : State :=
  let rest := s.l1.filter fun y => !(y.core == x.core && y.key == x.key)
  if (s.l1Line? x.core x.key).isSome || (s.l1Of x.core).length < 2048 then { s with l1 := rest ++ [x] }
  else
    match (s.l1Of x.core).find? fun y => y.keep.isEmpty with
    | some v => { s with l1 := (rest.filter fun y => !(y.core == v.core && y.key == v.key)) ++ [x] }
    | none => s

/-- A line of a die's RDC (R259). -/
def State.rdcLine? (s : State) (die : BitVec 2) (k : LineKey) : Option RdcLine :=
  s.rdc.find? fun x => x.die == die && x.key == k

/-- A line leaves an RDC. -/
def State.dropRdc (s : State) (die : BitVec 2) (k : LineKey) : State :=
  { s with rdc := s.rdc.filter fun y => !(y.die == die && y.key == k) }

/-- Puts a line into an RDC, used last: a new one takes a way of its set; without one it stays out (R314). -/
def State.setRdc (s : State) (x : RdcLine) : State :=
  let put (s : State) : State := { s with rdc := (s.dropRdc x.die x.key).rdc ++ [x] }
  if (s.rdcLine? x.die x.key).isSome then put s
  else
    let set := s.rdc.filter fun y => y.die == x.die && rdcSet y.key == rdcSet x.key
    if set.length < 16 then put s
    else
      match victimOf (fun y => y.key.owner) s.rdcWays x.key.owner set with
      | some v => put (s.dropRdc v.die v.key)
      | none => s

/-- All 128 bytes of a line. -/
def fullMarks : BitVec 128 := BitVec.allOnes 128

/-- Whether a PGINV in progress covers an address (R271). -/
def State.pageBusy (s : State) (vd : BitVec 8) (va : Va) : Bool :=
  match (s.vdev vd).pginv with
  | none => false
  | some v =>
    let first := (v.extractLsb' 16 40).toNat
    let p := (va.extractLsb' 16 40).toNat
    first ≤ p && p ≤ first + (v.extractLsb' 0 16).toNat

/-- Whether a PGINV in progress covers a byte of a range, so that the device's own accesses to it wait
(R271). -/
def State.rangeBusy (s : State) (vd : BitVec 8) (va n : Nat) : Bool :=
  match (s.vdev vd).pginv with
  | none => false
  | some v =>
    let first := (v.extractLsb' 16 40).toNat
    first * 65536 < va + n && va < (first + (v.extractLsb' 0 16).toNat + 1) * 65536

/-- What became of one line of an access at stage 4 of R169. -/
inductive LineOut where
  | ok (bytes : List Byte) (leaf : Option Leaf)
  | cause (c : BitVec 8)
  | wait
  deriving DecidableEq, Repr

/-- An access against a leaf: cause 0x21 at the translating die, 0x22 for a remote home (R169). -/
def checked (remote : Bool) (a : Access) (bytes : List Byte) (l : Option Leaf) : LineOut :=
  if leafPermits l a then .ok bytes l else .cause (if remote then 0x22 else 0x21)

/-- The answer of another die, as its asker sees it (R263, R264, R267, R270). -/
def answered (a : Access) : LineResult → LineOut
  | .data bytes l => checked true a bytes l
  | .permitted l => checked true a zeroLine l
  | .nak => .cause 0x22
  | .refused => .cause 0x21
  | .expired => .cause 0x60
  | .absent => .cause 0x20

/-- The answer to request `n`, if it has reached its asker. -/
def State.answerOf (s : State) (n : Nat) : Option LineResult :=
  (s.resps.find? fun x => x.n == n && x.there).map fun x => x.res

/-- Whether request `n` or its answer is on its way. -/
def State.onWay (s : State) (n : Nat) : Bool := s.reqs.any (fun q => q.n == n) || s.resps.any fun x => x.n == n

/-- Whether a line is in host space. -/
def LineKey.isHost : LineKey → Bool
  | .host _ _ => true
  | .mem _ _ _ | .scr _ _ | .tile _ _ => false

/-- The host DMA tags of a virtual device's partition, 512 for each channel it owns (R375). -/
def State.hostTags (s : State) (vd : BitVec 8) : Nat :=
  match s.partOf vd with
  | some p => 512 * ((List.range 12).filter fun i => p.eng.getLsbD (20 + i)).length
  | none => 0

/-- Whether a read of host space finds no free tag: its partition's reads that other dies have asked for and not
received hold every one. A read that die 0 makes itself is answered in its step and holds none from one step to another
(R375; log 23, DESIGN CHOICE). -/
def State.noTag (s : State) (vd : BitVec 8) (a : Access) (k : LineKey) : Bool :=
  let holds (q : Request) : Bool := q.key.isHost && q.kind == .read && s.partOf q.vd == s.partOf vd
  k.isHost && a == .read && s.hostTags vd != 0 &&
    s.hostTags vd ≤ (s.reqs.filter holds).length + (s.resps.filter fun x => !x.there && holds x.req).length

/-- Sends a request from a die to a line's home, with its deadline; an atomic takes the line from the RDC when
it is sent (R259, R263). -/
def State.send (s : State) (who : Asker) (die : BitVec 2) (vd : BitVec 8) (a : Access) (k : LineKey)
    (hidx : Nat) : Nat × State :=
  let r := s.newId
  let home := s.keyDie k
  let q : Request := ⟨r.1, die, who, vd, home, k, a, hidx, s.timebase.toNat + s.dline die,
    Transit.start die home 1, []⟩
  let s := { r.2 with reqs := r.2.reqs ++ [q] }
  (r.1, if a == .atomic then s.dropRdc die k else s)

/-- A path's request to another die: its answer if it has come, else wait; it is sent once, and a read of host space once
it has a tag (R259, R263, R375). -/
def State.askRemote (s : State) (st : Site) (p : Path) (hidx : Nat) (a : Access) (k : LineKey) :
    LineOut × Path × State :=
  let sent := p.pend.find? fun x => x.key == k
  match sent.bind fun x => s.answerOf x.n with
  | some r => (answered a r, p, s)
  | none =>
    if (sent.any fun x => s.onWay x.n) || s.noTag st.vd a k then (.wait, p, s)
    else
      let left (x : Response) : Bool := x.there && x.req.who == .path st.path && !p.pend.any fun y => y.n == x.n
      let s := { s with resps := s.resps.filter fun x => !left x }
      let r := s.send (.path st.path) st.die st.vd a k hidx
      (.wait, { p with pend := (p.pend.filter fun x => x.key != k) ++ [⟨r.1, k⟩] }, r.2)

/-- The level below the L1 for a line homed on a die; a copy in the RDC serves what its leaf permits,
and every refusal is the home's (R259, R267). -/
def State.belowMem (s : State) (st : Site) (p : Path) (hidx : Nat) (a : Access) (home : BitVec 2)
    (vd : BitVec 8) (la : Va) : LineOut × Path × State :=
  let k := LineKey.mem home vd la
  if home == st.die then
    match s.homeFetch home vd la with
    | .ok (h, s) => (checked false a h.bytes (some h.leaf), p, s)
    | .error .absent => (.cause 0x20, p, s)
    | .error .tableError => (.cause 0x21, p, s)
  else
    match a, s.rdcLine? st.die k with
    | .atomic, _ => s.askRemote st p hidx a k
    | _, some x =>
      if leafPermits x.leaf a then (.ok x.bytes x.leaf, p, s.setRdc x) else s.askRemote st p hidx a k
    | _, none => s.askRemote st p hidx a k

/-- A host-space line on die 0 (R277). -/
def State.hostLine (s : State) (a : Access) (vd : BitVec 8) (la : Va) : LineOut × State :=
  let r := s.ats vd (hostVpn la.toNat)
  let e := r.1
  if !r.2.1 then (.cause 0x20, r.2.2)
  else if (a == .read && !e.r) || (a != .read && !e.w) then (.cause 0x21, r.2.2)
  else (.ok (Memory.readN r.2.2.mem (hostKey e.hpn la.toNat) 128) none, r.2.2)

/-- The level below the L1 for a host-space line, which die 0 translates (R277). -/
def State.belowHost (s : State) (st : Site) (p : Path) (hidx : Nat) (a : Access) (vd : BitVec 8) (la : Va) :
    LineOut × Path × State :=
  if st.die = 0 then
    let r := s.hostLine a vd la
    (r.1, p, r.2)
  else s.askRemote st p hidx a (.host vd la)

/-- The level below the L1 for a scratch or tile line: the bank, on whatever die its block is
(R197, R260). -/
def State.belowBank (s : State) (st : Site) (p : Path) (hidx : Nat) (a : Access) (blk : Nat)
    (k : LineKey) : LineOut × Path × State :=
  match s.block? blk with
  | none => (.ok zeroLine none, p, s)
  | some b =>
    if dieOf b.core == st.die then (.ok (s.bankLine k) none, p, s) else s.askRemote st p hidx a k

/-- The level below the L1. -/
def State.below (s : State) (st : Site) (p : Path) (hidx : Nat) (a : Access) (k : LineKey) :
    LineOut × Path × State :=
  match k with
  | .mem home vd la => s.belowMem st p hidx a home vd la
  | .host vd la => s.belowHost st p hidx a vd la
  | .scr b _ | .tile b _ => s.belowBank st p hidx a b k

/-- Whether a miss fills the L1 with a line of this key; scratch and tile lines stay in their banks, and the
L1 holds of them what stores of the core have written and the bank has not taken yet (R172). -/
def LineKey.cached : LineKey → Bool
  | .mem _ _ _ | .host _ _ => true
  | .scr _ _ | .tile _ _ => false

/-- A line read through the L1: a hit serves it, a miss fills it; bytes that stores wrote into an
absent line stay (R171, R172). -/
def State.confirmRead (s : State) (st : Site) (p : Path) (hidx : Nat) (k : LineKey) :
    LineOut × Path × State :=
  match s.l1Line? st.core k with
  | some x =>
    if !leafPermits x.leaf .read then s.below st p hidx .read k
    else if x.valid == fullMarks then (.ok x.bytes x.leaf, p, s)
    else
      match s.below st p hidx .read k with
      | (.ok bs l, p, s) =>
        let bs := mergeBytes bs x.bytes x.valid 0
        (.ok bs l, p, if k.cached then s.setL1 { x with bytes := bs, valid := fullMarks, leaf := l } else s)
      | r => r
  | none =>
    match s.below st p hidx .read k with
    | (.ok bs l, p, s) =>
      (.ok bs l, p, if k.cached then s.setL1 ⟨st.core, k, bs, fullMarks, hidx, l, []⟩ else s)
    | r => r

/-- A store's permission for a line: a line of the L1 or the RDC with write permission confirms at
once (R97, R172). -/
def State.confirmWrite (s : State) (st : Site) (p : Path) (hidx : Nat) (k : LineKey) :
    LineOut × Path × State :=
  match s.l1Line? st.core k with
  | some x =>
    if x.leaf.isSome && leafPermits x.leaf .write then (.ok zeroLine x.leaf, p, s)
    else s.below st p hidx .write k
  | none => s.below st p hidx .write k

/-- Whether a PGINV in progress covers a line (R271). -/
def State.keyBusy (s : State) : LineKey → Bool
  | .mem _ vd la | .host vd la => s.pageBusy vd la
  | .scr _ _ | .tile _ _ => false

/-- One line of an access at stage 4 of R169; an access waits for a PGINV of its page (R271). -/
def State.confirm (s : State) (st : Site) (p : Path) (hidx : Nat) (a : Access) (k : LineKey) :
    LineOut × Path × State :=
  if s.keyBusy k then (.wait, p, s)
  else match a with
  | .read => s.confirmRead st p hidx k
  | .write => s.confirmWrite st p hidx k
  | .atomic | .fetch => s.below st p hidx a k

/-- Stores of a group on their way to their homes, oldest first. -/
def State.inFlight (s : State) (grp : Nat) : List SbEntry :=
  (s.flight.filter fun f => f.who.isNone && f.grp == grp && !f.arrived).map fun f => f.entry

/-- A line's bytes under the group's own stores that have not drained, the youngest last; those that have stand
in the core's L1 (R171, R174, R283, R393). -/
def Group.overlay (g : Group) (k : LineKey) (bs : List Byte) : List Byte :=
  (g.sb ++ g.sbRest).foldl (fun bs e => if e.key == k then mergeBytes bs e.bytes e.marks 0 else bs) bs

/-- The stores of other groups that a read of this line may have seen before they arrived (R288). -/
def State.seenStores (s : State) (st : Site) (g : Group) (k : LineKey) : List Nat :=
  (s.flight.filter fun f =>
    f.who.isNone && f.grp != g.id && !f.arrived && f.entry.key == k && dieOf f.core == st.die).map fun f => f.id

/-- The stores of other groups of the virtual device that have not arrived (R286, R288). -/
def State.otherStores (s : State) (st : Site) (g : Group) : List Nat :=
  (s.flight.filter fun f => f.who.isNone && f.grp != g.id && !f.arrived && f.vd == st.vd).map fun f => f.id

/-- A group's observed stores that have not arrived yet (R288). -/
def State.unarrived (s : State) (g : Group) : List Nat :=
  g.obs.filter fun n => s.flight.any fun f => f.id == n && !f.arrived

/-- A group observes stores (R286, R288). -/
def Group.observe (g : Group) (ns : List Nat) : Group :=
  { g with obs := g.obs ++ ns.filter fun n => !g.obs.contains n }

/-- Whether the release waits of R189 and R288 are over at a scope. -/
def State.released (s : State) (g : Group) (sc : Scope) : Bool :=
  let drained := g.sb.isEmpty && g.sbRest.isEmpty
  match sc with
  | .grp => true
  | .blk => drained
  | .clu => drained && g.cnt.clu == 0 && (s.unarrived g).isEmpty
  | .die => drained && g.cnt.die == 0 && (s.unarrived g).isEmpty
  | .dev => drained && g.cnt.dev == 0 && (s.unarrived g).isEmpty
  | .sys => drained && g.cnt.sys == 0 && (s.unarrived g).isEmpty

/-- Whether a key lies in a virtual device's memory. -/
def LineKey.inVd (k : LineKey) (vd : BitVec 8) : Bool :=
  match k with
  | .mem _ v _ | .host v _ => v == vd
  | .scr _ _ | .tile _ _ => false

/-- The bytes of a line that stores of a core have written and its home has not taken yet (R174, R283). -/
def State.unarrivedMarks (s : State) (core : BitVec 9) (k : LineKey) : BitVec 128 :=
  (s.flight.filter fun f => f.who.isNone && f.core == core && f.entry.key == k && !f.arrived).foldl
    (fun m f => m ||| f.entry.marks) 0

/-- The picked lines leave a core's L1: of one that holds unacknowledged stores those stores' bytes stay, what
a fill brought goes (R174, R283). -/
def State.dropL1 (s : State) (core : BitVec 9) (hit : L1Line → Bool) : State :=
  { s with l1 := s.l1.filterMap fun (x : L1Line) =>
      if !(x.core == core && hit x) then some x
      else if x.keep.isEmpty then none
      else some { x with valid := x.valid &&& s.unarrivedMarks core x.key } }

/-- The acquire invalidations of R189 at a scope, for the regions whose handle-table index `conc`
picks (R174). -/
def State.acquire (s : State) (st : Site) (sc : Scope) (conc : Nat → Bool) : State :=
  let hit (k : LineKey) (hidx : Nat) : Bool :=
    k.inVd st.vd && conc hidx && (sc == .sys || !k.isHost)
  let low := s.dropL1 st.core fun x => hit x.key x.hidx
  match sc with
  | .grp | .blk => s
  | .clu | .die => low
  | .dev | .sys => { low with rdc := s.rdc.filter fun x => !(x.die == st.die && hit x.key x.hidx) }

/-- A group's acquire: what is invalidated, and the stores it may have observed (R189, R286,
R288). -/
def State.acquireFor (s : State) (st : Site) (g : Group) (sc : Scope) (conc : Nat → Bool) :
    Group × State :=
  (if sc == .grp then g else g.observe (s.otherStores st g), s.acquire st sc conc)

/-- Every region of the virtual device (R189). -/
def allRegions (_ : Nat) : Bool := true

/-- The virtual device of a group. -/
def State.vdOf (s : State) (g : Group) : BitVec 8 :=
  match s.block? g.blk with
  | some b => b.vd
  | none => 0

/-- Entries of a store of more than 32 lines enter the buffer as its entries free (R393). -/
def Group.refill (g : Group) : Group :=
  { g with sb := g.sb ++ g.sbRest.take (32 - g.sb.length), sbRest := g.sbRest.drop (32 - g.sb.length) }

/-- A store that passes its die's RDC updates a copy present there, and one that a request on its way will bring
(R173, R259). -/
def State.passRdc (s : State) (die : BitVec 2) (e : SbEntry) : State :=
  let see (q : Request) : Request := if q.src == die && q.key == e.key then { q with passed := q.passed ++ [e.id] } else q
  let s := { s with
    reqs := s.reqs.map see
    resps := s.resps.map fun (x : Response) => if x.there then x else { x with req := see x.req } }
  match s.rdcLine? die e.key with
  | some r => s.setRdc { r with bytes := mergeBytes r.bytes e.bytes e.marks 0, passed := r.passed ++ [e.id] }
  | none => s

/-- A drained store-buffer entry goes into its core's L1, past the RDC of its die, and on its way to its home
(R10, R172, R173, R259). -/
def State.drainEntry (s : State) (core : BitVec 9) (g : Group) (e : SbEntry) : State :=
  let die := dieOf core
  let home := s.keyDie e.key
  let x : L1Line := match s.l1Line? core e.key with
    | some x => { x with bytes := mergeBytes x.bytes e.bytes e.marks 0, valid := x.valid ||| e.marks,
                         keep := x.keep ++ [e.id] }
    | none => ⟨core, e.key, e.bytes, e.marks, e.hidx, e.leaf, [e.id]⟩
  let s := (s.setL1 x).passRdc die e
  let f : Flight := ⟨e.id, g.id, none, s.vdOf g, core, Transit.start die home lineFlits, e, false,
    if home == die then none else some (s.timebase.toNat + s.dline die)⟩
  let g := { g with sb := removeFirst (fun y => y.id == e.id) g.sb }.refill
  { s.setGroup g with flight := s.flight ++ [f] }

/-- What an L1 line keeps of a scratch or tile line whose bank has taken bytes: what other stores of its core
still have on their way. -/
def State.trimLine (s : State) (k : LineKey) (x : L1Line) : Option L1Line :=
  let m := x.valid &&& s.unarrivedMarks x.core k
  if x.key != k then some x else if m = 0 then none else some { x with valid := m }

/-- A scratch or tile line's bytes leave the L1s once its bank has them. -/
def State.trimL1 (s : State) (k : LineKey) : State :=
  if k.cached then s else { s with l1 := s.l1.filterMap (s.trimLine k) }

/-- A store on its way arrives at its home, and its acknowledgment sets out (R10, R172, R173, R282). -/
def State.arrive (s : State) (f : Flight) : State :=
  let s := s.arriveLine f.entry.key f.entry.bytes f.entry.marks f.entry.leaf
  let back := Transit.start (s.keyDie f.entry.key) (dieOf f.core) 1
  let s := { s with
    flight := replaceFirst (fun (x : Flight) => x.id == f.id) (fun (x : Flight) => { x with arrived := true, tr := back }) s.flight,
    rdc := s.rdc.map fun (x : RdcLine) => { x with passed := x.passed.filter fun n => n != f.id } }
  s.trimL1 f.entry.key

/-- A core's L1 holds no line any more: what its stores have written has come to its homes first (R364). -/
def State.clearL1 (s : State) (core : BitVec 9) : State :=
  let s := (s.flight.filter fun f => f.who.isNone && f.core == core && !f.arrived).foldl (fun s f => s.arrive f) s
  { s with l1 := s.l1.filter fun x => x.core != core }

/-- Whether no store that must arrive before a store is still on its way: an older one to its line of its
group, of its core, or, for a line homed elsewhere, of its die, as the L1 and the RDC have taken them in that
order (R172, R173, R282). -/
def State.nextToArrive (s : State) (f : Flight) : Bool :=
  let far := s.keyDie f.entry.key != dieOf f.core
  match s.flight.find? fun x => x.entry.key == f.entry.key && !x.arrived &&
      ((x.who.isNone && f.who.isNone && (x.grp == f.grp || x.core == f.core)) || (far && dieOf x.core == dieOf f.core)) with
  | some x => x.id == f.id
  | none => false

/-- The first VA of a block's save slot (R316). -/
def State.slotVa (s : State) (b : Block) : Option Nat :=
  match (s.vdev b.vd).root, b.slot with
  | some r, some n => some (r.savepool.toNat + n * 0x400000)
  | _, _ => none

/-- Whether a PGINV covers a byte of a block's save slot (R271). -/
def State.slotBusy (s : State) (b : Block) : Bool :=
  match s.slotVa b with
  | some va => s.rangeBusy b.vd va 0x400000
  | none => false

/-- The four counters as the save area holds them (R316). -/
def Counters.image (c : Counters) : List Byte := [c.clu, c.die, c.dev, c.sys].flatMap fun w => bytesOfNat 4 w.toNat

/-- The counters of a saved group stand in its save area too, and what an acknowledgment takes from them is
taken there (R173, R293, R316). -/
def State.saveCounters (s : State) (g : Group) : State :=
  if g.phase != .saved then s
  else
    match s.block? g.blk with
    | none => s
    | some b =>
      match s.slotVa b with
      | none => s
      | some va =>
        match s.deviceWrite b.vd (BitVec.ofNat 56 (va + 0x1100 + 0x10000 * g.idx)) g.cnt.image with
        | some s => s
        | none => s.countRefusal (dieOf b.core) b.vd .write (va + 0x1100 + 0x10000 * g.idx) 16

/-- A counter goes down by one, to no less than 0. -/
def decWord (w : Word) : Word := if w = 0 then 0 else w - 1

/-- A store's acknowledgment reaches the counters of its group wherever its context lives, once; the
L1 line no longer keeps its bytes against acquires (R173, R174, R293). What another party has written is then no
longer on its way. -/
def State.ackStore (s : State) (f : Flight) : State :=
  let s := { s with
    flight := s.flight.filter fun x => x.id != f.id,
    l1 := s.l1.map fun (x : L1Line) => { x with keep := x.keep.filter fun n => n != f.id } }
  match if f.who.isNone then s.group? f.grp else none with
  | none => s
  | some g =>
    let g := { g with cnt := ⟨decWord g.cnt.clu, decWord g.cnt.die, decWord g.cnt.dev, decWord g.cnt.sys⟩ }
    (s.setGroup g).saveCounters g

end Sys2Proof.Machine
end

