-- ==== Sys2Proof/Machine/Mem.lean ====
section
/-!
DEFINITION. Handles and their regions, the four stages of R169, parking in the replay queue, reading
and storing through a handle (R166 to R176, R180, R197, R260, R375, R393).
The model's own choices here: DEDUCED, logs 13, 19, 20; DESIGN CHOICE, log 18.
-/
namespace Sys2Proof.Machine

/-- How an instruction uses a space: the columns of R167's table. -/
inductive Use where
  | ldv | lds | stv | sts | atom (add : Bool) | ahist | csnapSrc | csnapDst
  deriving DecidableEq, Repr

/-- R167's table, spaces 0 to 9. -/
def spaceAdmits (u : Use) (space : Nat) : Bool :=
  match u with
  | .ldv => space ≤ 6 || space == 8 || space == 9
  | .lds => space ≤ 6 || space == 8
  | .stv => space ≤ 3 || space == 6 || space == 8 || space == 9
  | .sts => space ≤ 3 || space == 6 || space == 8
  | .atom add => space ≤ 2 || (space == 5 && add) || space == 6
  | .ahist => space ≤ 2 || space == 5 || space == 6
  | .csnapSrc => space ≤ 1 || space == 5 || space == 6
  | .csnapDst => space ≤ 1 || space == 6

/-- The permission bit a use needs: read 0, write 1, atomic 2 (R167). -/
def usePerm (u : Use) : Nat :=
  match u with
  | .ldv | .lds => 0
  | .stv | .sts | .csnapDst => 1
  | .atom _ | .ahist | .csnapSrc => 2

/-- What a use needs of a leaf (R270). -/
def useAccess (u : Use) : Access :=
  match u with
  | .ldv | .lds => .read
  | .stv | .sts | .csnapDst => .write
  | .atom _ | .ahist | .csnapSrc => .atomic

/-- A block's copy of a window slot's entry; none where the slot counts as unmapped (R166). -/
def Block.slotAt (b : Block) (n : BitVec 8) : Option Handle := b.win.find? fun h => h.slot == n

/-- The latency class of a remote-scratch target (R260). -/
def latencyClass (b t : Block) : Nat :=
  if b.dieid == t.dieid then (if b.cid == t.cid then 0 else 1)
  else if dieOf b.core + 2 == dieOf t.core then 3 else 2

/-- The block a remote-scratch handle names (R260). -/
def State.remoteTarget (s : State) (b : Block) (spx : Word) : Option Block :=
  s.blocks.find? fun t => t.grid == b.grid && t.dieid == (spx.extractLsb' 7 2).toNat &&
    t.cid == (spx.extractLsb' 3 4).toNat && t.bid == (spx.extractLsb' 0 3).toNat

/-- A handle's region: its entry, the block whose scratch or tile memory it is, and the length that
bounds accesses (R169, R197, R260). -/
structure Region where
  h   : Handle
  blk : Nat
  len : Nat
  cap : Option Nat
  deriving DecidableEq, Repr

/-- Whether a virtual device's partition owns a host DMA channel (R305, R375). -/
def State.hasDma (s : State) (vd : BitVec 8) : Bool :=
  match s.partOf vd with
  | some p => (p.eng.extractLsb' 20 12) != 0
  | none => false

/-- A handle's region, without R167 and permissions; none where R260 or R375 give cause 0x11. -/
def State.regionOf (s : State) (b : Block) (gr : Grid) (h : Handle) : Option Region :=
  match h.space.toNat with
  | 1 => some ⟨h, b.id, h.length, some (unitBytes b.alloc.scr)⟩
  | 3 => some ⟨h, b.id, h.length, some (unitBytes b.alloc.tile)⟩
  | 2 =>
    let die := (h.spx.extractLsb' 7 2).toNat
    let cid := (h.spx.extractLsb' 3 4).toNat
    let bid := (h.spx.extractLsb' 0 3).toNat
    if !gr.desc.gang || b.diedim ≤ die || b.nclu ≤ cid || b.nblk ≤ bid then none
    else
      match s.remoteTarget b h.spx with
      | some t =>
        if gr.desc.gclass < latencyClass b t then none
        else some ⟨h, t.id, h.length, some (unitBytes t.alloc.scr)⟩
      | none => some ⟨h, b.id, h.length, some 0⟩
  | 8 => if s.hasDma b.vd then some ⟨h, b.id, h.length, none⟩ else none
  | _ => some ⟨h, b.id, h.length, none⟩

/-- Stage 1 of R169: the region, if slot, space, permission and placement admit the use. -/
def State.stage1 (s : State) (b : Block) (gr : Grid) (slot : BitVec 8) (u : Use) : Option Region :=
  match b.slotAt slot with
  | none => none
  | some h =>
    if spaceAdmits u h.space.toNat && h.perm.getLsbD (usePerm u) then s.regionOf b gr h else none

/-- The address an offset of a region names: a VA, or a block offset for scratch and tile (R168,
R197). -/
def Region.addr (r : Region) (o : Nat) : Nat := (r.h.base.toNat + o) % 2 ^ 56

/-- Stage 2 of R169 for `n` bytes at an offset: inside the length, and for scratch and tile inside
the units held. -/
def Region.inside (r : Region) (o : Int) (n : Nat) : Bool :=
  0 ≤ o && o + (n : Int) ≤ (r.len : Int) &&
    (match r.cap with
     | some cap => (r.h.base.toNat : Int) + o + (n : Int) ≤ (cap : Int)
     | none => true)

/-- The bytes of an access of `n` bytes at offset `o`, by address; a private region interleaves them
by lane and group (R168). -/
def Region.bytes (r : Region) (grpIdx lane o n : Nat) : List Nat :=
  if r.h.space == 9 then
    (List.range n).map fun i =>
      let x := o + i
      (r.h.base.toNat + 32 * r.h.length * grpIdx + (x - x % 4) * 32 + 4 * lane + x % 4) % 2 ^ 56
  else (List.range n).map fun i => r.addr (o + i)

/-- The line an address of a region lies in (R170, R254, R258). -/
def State.keyOf (s : State) (st : Site) (r : Region) (a : Nat) : LineKey :=
  let la := a / 128 * 128
  let va : Va := BitVec.ofNat 56 la
  match r.h.space.toNat with
  | 1 | 2 => .scr r.blk la
  | 3 => .tile r.blk la
  | 6 => .mem st.die st.vd va
  | 8 => .host st.vd va
  | _ => .mem (s.homeOf st.vd va) st.vd va

/-- One lane's access: its lane and its bytes' addresses. -/
structure LaneReq where
  lane  : Nat
  addrs : List Nat
  deriving DecidableEq, Repr

/-- The address of a lane's access, for a record. -/
def LaneReq.va (q : LaneReq) : Nat := q.addrs.headD 0

/-- Inserts a number into a strictly rising list. -/
def insertRising (a : Nat) : List Nat → List Nat
  | [] => [a]
  | b :: t => if a < b then a :: b :: t else if a = b then b :: t else b :: insertRising a t

/-- The lines a list of addresses touches, in ascending order (R170). -/
def linesOf (addrs : List Nat) : List Nat :=
  addrs.foldl (fun acc a => let l := a / 128 * 128; if acc.contains l then acc else insertRising l acc) []

/-- A line of an access: its first address, its key, and what became of it. -/
structure LineRes where
  la  : Nat
  key : LineKey
  out : LineOut
  deriving DecidableEq, Repr

/-- Stage 4 of R169 on every line of an access, in ascending order. -/
def State.confirmAll (s : State) (st : Site) (p : Path) (r : Region) (a : Access) :
    List Nat → List LineRes × Path × State
  | [] => ([], p, s)
  | la :: t =>
    let k := s.keyOf st r la
    match s.confirm st p r.h.idx a k with
    | (out, p, s) =>
      match State.confirmAll s st p r a t with
      | (rest, p, s) => (⟨la, k, out⟩ :: rest, p, s)

/-- The lanes whose access touches a line with a given outcome. -/
def lanesWith (reqs : List LaneReq) (rs : List LineRes) (c : LineOut) : Word :=
  let las := (rs.filter fun x => x.out == c).map fun x => x.la
  if las.isEmpty then 0
  else maskOf fun l => reqs.any fun q => q.lane == l && q.addrs.any fun a => las.contains (a / 128 * 128)

/-- What stage 4 decides for a whole instruction (R169). -/
inductive Verdict where
  | ok
  | wait
  | fatal (c : BitVec 8) (lanes : Word)
  | absent
  deriving DecidableEq, Repr

/-- The verdict on the lines: fatal causes 0x21, 0x22, 0x60 in that order, then 0x20 (R169). -/
def verdict (reqs : List LaneReq) (rs : List LineRes) : Verdict :=
  let has (c : LineOut) := rs.any fun x => x.out == c
  if has .wait then .wait
  else if has (.cause 0x21) then .fatal 0x21 (lanesWith reqs rs (.cause 0x21))
  else if has (.cause 0x22) then .fatal 0x22 (lanesWith reqs rs (.cause 0x22))
  else if has (.cause 0x60) then .fatal 0x60 (lanesWith reqs rs (.cause 0x60))
  else if has (.cause 0x20) then .absent
  else .ok

/-- The address of the lowest lane of a set (R157). -/
def lowAddr (reqs : List LaneReq) (lanes : Word) : DWord :=
  match reqs.find? fun q => bitAt lanes q.lane with
  | some q => BitVec.ofNat 64 q.va
  | none => 0

/-- The lowest free entry of the replay queue (R175). -/
def Group.freeEntry (g : Group) : Option Nat :=
  (List.range 8).find? fun n => !g.replay.any fun r => r.idx == n

/-- The kind bits of a page-fault record (R177). -/
def kindBits (a : Access) : Nat :=
  match a with
  | .read => 1
  | .write => 2
  | .atomic => 4
  | .fetch => 8

/-- Sends one record for each page: (page's first address, first faulting address, lanes) (R175,
R177, R277). -/
def State.sendFaults (s : State) (b : Block) (g : Group) (slot : Bool) (pc : Va) (idx : Nat)
    (host : Bool) (a : Access) : List (Nat × Nat × Word) → List FaultTag × State
  | [] => ([], s)
  | (page, va, lanes) :: t =>
    let owner := FaultOwner.replay g.id pc slot
    let x : Word × State :=
      if host then
        let r := s.sendPri b.vd (hostVpn page) owner
        (BitVec.ofNat 32 r.1, r.2)
      else s.sendFault b.vd idx (BitVec.ofNat 56 va) pc lanes (whereOf b g.idx) (kindBits a) owner
    match State.sendFaults x.2 b g slot pc idx host a t with
    | (ts, s) => (⟨x.1, BitVec.ofNat 56 page, lanes, host, none⟩ :: ts, s)

/-- The acting instruction parks: it takes a replay entry, its sources are logged, and the host is asked for each page of the absent lines (R99, R175). Without a free entry it waits under
stall reason 3. -/
def park (s : State) (c : Cur) (g gv : Group) (p : Path) (b : Block) (e : Word) (a : Access)
    (host : Bool) (reqs : List LaneReq) (rs : List LineRes) : Result :=
  match (match p.replay with | some n => some n | none => g.freeEntry) with
  | none => stay s c g { p with pend := [] } .retry 3
  | some idx =>
    let size := if host then 4096 else 65536
    let bad := (rs.filter fun x => x.out == .cause 0x20).map fun x => x.la
    let pages := bad.foldl (fun acc la =>
      let pg := la / size * size
      if acc.contains pg then acc else acc ++ [pg]) ([] : List Nat)
    let faulting (pg a : Nat) : Bool := a / size * size == pg && bad.contains (a / 128 * 128)
    let recs := pages.map fun pg =>
      let lanes := maskOf fun l => reqs.any fun q => q.lane == l && q.addrs.any (faulting pg)
      let va := match reqs.find? fun q => q.addrs.any (faulting pg) with
        | some q => (q.addrs.find? (faulting pg)).getD pg
        | none => pg
      (pg, va, lanes)
    match s.sendFaults b g c.p.slot p.pc idx host a recs with
    | (tags, s) =>
      let r : ReplayEntry :=
        ⟨p.liveRob.head?.map fun x => x.instr, idx, p.pc, c.p.slot, e, gv.sregs, (List.range gv.regn).map (gv.vreg c.p.slot), tags⟩
      stay s c { g.freeReplay p with replay := (g.freeReplay p).replay ++ [r] } { p with pend := [], replay := some idx }
        (.parked idx) 3

/-- The group as a replayed instruction reads it: the registers are those of the operand log (R175, R176). -/
def Group.logged (g : Group) (slot : Bool) (r : ReplayEntry) : Group :=
  { g with sregs := r.sregs, regn := r.vregs.length,
           phys := r.vregs.zipIdx.map fun (x : Lanes × Nat) => ⟨x.2, x.1⟩ }.setMap slot
    ((List.range r.vregs.length).map fun n => ⟨some n, 0⟩)

/-- A memory instruction: allocation and guard; a parked one waits for its answers, then executes again
with its effective set and its logged sources, whatever the other path has released meanwhile; its entry frees
when it retires (R175, R176). -/
def memOp (s : State) (gd : BitVec 3) (vs : List Nat)
    (k : Cur → Group → Group → Path → Word → Result) : Result :=
  withPath s fun c g p =>
    match p.replay.bind fun n => g.replay.find? fun r => r.idx == n with
    | none => guarded s gd vs fun c g p e => k c g g p e
    | some r => if r.tags.all fun t => t.answer == some true then k c g (g.logged c.p.slot r) p r.lanes else .next s

/-- Stage 4 of an instruction, and what follows when every line is confirmed. -/
def withLines (s : State) (c : Cur) (g gv : Group) (p : Path) (b : Block) (e : Word) (r : Region)
    (a : Access) (reqs : List LaneReq) (reason : Nat)
    (k : State → Path → List LineRes → Result) : Result :=
  let st : Site := ⟨b.core, b.vd, c.p⟩
  match s.confirmAll st p r a (linesOf (reqs.flatMap fun q => q.addrs)) with
  | (rs, p, s) =>
    match verdict reqs rs with
    | .wait => stay s c g p .retry (if rs.any fun x => s.keyBusy x.key then 3 else reason)
    | .fatal cz lanes => fatal s c g p cz lanes (if cz == 0x60 then 0 else lowAddr reqs lanes)
    | .absent => park s c g gv p b e a (r.h.space == 8) reqs rs
    | .ok => k s p rs

/-- The confirmed bytes of a line under the group's own stores. -/
def Group.lineBytes (g : Group) (rs : List LineRes) (la : Nat) : List Byte :=
  match rs.find? fun x => x.la == la with
  | some x =>
    match x.out with
    | .ok bs _ => g.overlay x.key bs
    | _ => zeroLine
  | none => zeroLine

/-- The lines of an access with their bytes as the group reads them. -/
def Group.linesRead (g : Group) (rs : List LineRes) : List (Nat × List Byte) :=
  rs.map fun x => (x.la, g.lineBytes rs x.la)

/-- The byte at an address. -/
def byteAt (ls : List (Nat × List Byte)) (a : Nat) : Byte :=
  match ls.find? fun x => x.1 == a / 128 * 128 with
  | some x => x.2.getD (a % 128) 0
  | none => 0

/-- The bytes of a lane's access, as a number (R3). -/
def reqValue (ls : List (Nat × List Byte)) (q : LaneReq) : Nat :=
  natOfBytes (q.addrs.map (byteAt ls))

/-- The group has read these lines: other groups' stores it may have seen are observed (R286,
R288). -/
def State.observeLines (s : State) (st : Site) (g : Group) (rs : List LineRes) : Group :=
  g.observe (rs.flatMap fun x => s.seenStores st g x.key)

/-- A byte written by a store, by address. -/
abbrev StoreByte := Nat × Byte

/-- The lowest address of some bytes. -/
def firstAddr (bs : List StoreByte) : Nat :=
  bs.foldl (fun m x => min m x.1) ((bs.map fun x => x.1).headD 0)

/-- The store-buffer entry of one line, with the lowest address the store writes there: later bytes of the list
win (R172, R264). -/
def entryFor (id la : Nat) (k : LineKey) (leaf : Option Leaf) (hidx : Nat) (bs : List StoreByte) :
    SbEntry :=
  let mine := bs.filter fun x => x.1 / 128 * 128 == la
  let bytes := mine.foldl (fun l x => putBytes l (x.1 % 128) [x.2]) zeroLine
  let marks := mine.foldl (fun m x => m ||| marksOf (x.1 % 128) 1) 0
  ⟨id, k, bytes, marks, leaf, BitVec.ofNat 56 (firstAddr mine), hidx⟩

/-- The entries of a store, in ascending order of line address. -/
def State.entriesFor (s : State) (hidx : Nat) (bs : List StoreByte) :
    List LineRes → List SbEntry × State
  | [] => ([], s)
  | x :: t =>
    let n := s.newId
    let leaf := match x.out with
      | .ok _ l => l
      | _ => none
    match State.entriesFor n.2 hidx bs t with
    | (es, s) => (entryFor n.1 x.la x.key leaf hidx bs :: es, s)

/-- Whether a store of `n` lines may enter: enough free entries, or, for more than 32, an empty
buffer; and no older store is still entering (R172, R393). -/
def Group.roomFor (g : Group) (n : Nat) : Bool :=
  g.sbRest.isEmpty && (if n ≤ 32 then g.sb.length + n ≤ 32 else g.sb.isEmpty)

/-- A store enters the buffer at its retirement and is counted (R172, R173, R393). -/
def Group.enter (g : Group) (es : List SbEntry) : Group :=
  let n : Word := BitVec.ofNat 32 es.length
  { g with sb := g.sb ++ es.take 32, sbRest := es.drop 32,
           cnt := ⟨g.cnt.clu + n, g.cnt.die + n, g.cnt.dev + n, g.cnt.sys + n⟩ }

/-- The pending SYNCR releases a store performs: those whose object it writes (R191). -/
def Group.relsHit (g : Group) (es : List SbEntry) : List PendRel :=
  g.rels.filter fun r => es.any fun e =>
    e.key == r.key && (e.marks &&& marksOf r.off 8) != 0

/-- Retirement of a store: its release, if it is one, and those of pending SYNCRs come first; then
the entries enter the buffer (R180, R189, R191). -/
def storeRetire (s : State) (c : Cur) (g : Group) (p : Path) (hidx : Nat) (sc : Option Scope)
    (bs : List StoreByte) (rs : List LineRes) (marks : List Mark) : Result :=
  match s.entriesFor hidx bs rs with
  | (es, s') =>
    let hit := g.relsHit es
    let scopes := sc.toList ++ hit.map fun r => r.scope
    if scopes.all (s.released g) && g.roomFor es.length then
      let g := { g with rels := g.rels.filter fun r => !hit.contains r }
      retire s' c ((g.enter es).applyMarks c.p.slot p.mask marks) p
    else stay s c g p .retry 12

end Sys2Proof.Machine
end

