-- ==== Sys2Proof/Machine/LoadStore.lean ====
section
/-!
DEFINITION. Loads, stores, prefetch and handle queries (R54, R178 to R184).
The model's own choices here: DEDUCED, log 19.
-/
namespace Sys2Proof.Machine

/-- Bytes of an access size (R43). -/
def sizeBytes : MemSize → Nat
  | .b8 => 1
  | .b16 => 2
  | .b32 => 4
  | .b64 => 8
  | .b128 => 16

/-- The signed displacement of format M. -/
def dispOf (o : MOps) : Int := o.disp.toInt

/-- A lane's offset in the a:v forms (R169). -/
def laneOffset (gv : Group) (slot : Bool) (o : MOps) (l : Nat) : Int :=
  ((gv.vlane slot o.a.toNat l).toNat : Int) + dispOf o

/-- The one offset of the a:s forms (R169). -/
def uniformOffset (gv : Group) (o : MOps) : Int := ((gv.sreg o.a).toNat : Int) + dispOf o

/-- The group's index in its grid, for private memory (R168). -/
def gridIndex (b : Block) (g : Group) : Nat := b.blin * b.ngrp + g.idx

/-- Sign or zero extension of `n` bytes to `w` bits (R179). -/
def extend (w n : Nat) (sx : Bool) (v : Nat) : BitVec w :=
  if sx && (v / 2 ^ (8 * n - 1)) % 2 == 1 then BitVec.ofInt w ((v : Int) - (2 : Int) ^ (8 * n))
  else BitVec.ofNat w v

/-- The words lane value `v` of a size puts into v_D and its partners (R179). -/
def loadWord (size : MemSize) (sx : Bool) (v k : Nat) : Word :=
  match size with
  | .b8 => extend 32 1 sx v
  | .b16 => extend 32 2 sx v
  | .b32 | .b64 | .b128 => BitVec.ofNat 32 (v / 2 ^ (32 * k))

/-- Stage 1, its failure a fault of all lanes of the effective set (R169). -/
def withRegion (s : State) (c : Cur) (g : Group) (p : Path) (b : Block) (gr : Grid) (e : Word)
    (slot : BitVec 8) (u : Use) (k : Region → Result) : Result :=
  match s.stage1 b gr slot u with
  | none => fatal s c g p 0x11 e 0
  | some r => k r

/-- Stage 2 for per-lane offsets: the lanes outside the region (R169). -/
def outside (r : Region) (e : Word) (off : Nat → Int) (n : Nat) : Word :=
  maskOf fun l => bitAt e l && !r.inside (off l) n

/-- The record address of the lowest failing lane: its VA, which a scratch or tile offset and a negative
private offset do not form (R157). -/
def offAddr (r : Region) (grpIdx : Nat) (lanes : Word) (off : Nat → Int) : DWord :=
  match lowLane lanes with
  | some l =>
    if r.h.space == 1 || r.h.space == 2 || r.h.space == 3 || (off l < 0 && r.h.space == 9) then 0
    else if off l < 0 then ((BitVec.ofInt 56 ((r.h.base.toNat : Int) + off l)).setWidth 64)
    else BitVec.ofNat 64 ((r.bytes grpIdx l (off l).toNat 1).headD 0)
  | none => 0

/-- The accesses of the lanes of `e`, `n` bytes each. -/
def laneReqs (r : Region) (grpIdx : Nat) (e : Word) (off : Nat → Int) (n : Nat) : List LaneReq :=
  (lanesIn e).map fun l => ⟨l, r.bytes grpIdx l (off l).toNat n⟩

/-- Stages 1, 2 and 4 of a per-lane access of `n` bytes (R169). -/
def laneAccess (s : State) (c : Cur) (g gv : Group) (p : Path) (e : Word) (slot : BitVec 8)
    (u : Use) (off : Nat → Int) (n reason : Nat)
    (k : State → Path → Block → Region → List LaneReq → List LineRes → Result) : Result :=
  withBlock s g fun b gr =>
    withRegion s c g p b gr e slot u fun r =>
      let bad := outside r e off n
      if bad ≠ 0 then fatal s c g p 0x10 bad (offAddr r (gridIndex b g) bad off)
      else
        let reqs := laneReqs r (gridIndex b g) e off n
        withLines s c g gv p b e r (useAccess u) reqs reason fun s p rs => k s p b r reqs rs

/-- One access for the group, recorded as an access of every lane of the effective set (R169). -/
def uniformAccess (s : State) (c : Cur) (g gv : Group) (p : Path) (e : Word) (slot : BitVec 8)
    (u : Use) (off : Int) (n reason : Nat)
    (k : State → Path → Block → Region → LaneReq → List LineRes → Result) : Result :=
  withBlock s g fun b gr =>
    withRegion s c g p b gr e slot u fun r =>
      if !r.inside off n then fatal s c g p 0x10 e (offAddr r 0 e fun _ => off)
      else
        let q : LaneReq := ⟨(lowLane e).getD 0, r.bytes 0 0 off.toNat n⟩
        let reqs := (lanesIn e).map fun l => { q with lane := l }
        withLines s c g gv p b e r (useAccess u) reqs reason fun s p rs => k s p b r q rs

/-- What a load writes: a replayed one writes no register that its group has released meanwhile (R87,
R176). -/
def Writes.kept (w : Writes) (g : Group) (p : Path) : Writes :=
  if p.replay.isSome then { w with vs := w.vs.filter fun x => x.1 < g.regn } else w

/-- A load retires: its values are bound, the acquire follows, the destination is written (R179,
R189). -/
def loadRetire (s : State) (c : Cur) (g : Group) (p : Path) (b : Block) (e : Word) (o : MOps)
    (rs : List LineRes) (w : Writes) : Result :=
  let w := w.kept g p
  if !g.canWrite w.vs.length then stay s c g p .retry 2
  else
    let st : Site := ⟨b.core, b.vd, c.p⟩
    let g := s.observeLines st g rs
    let x := if o.ord == .acq then s.acquireFor st g o.scope allRegions else (g, s)
    retire x.2 c (x.1.applyWrites c.p.slot p.mask e w) p

/-- The v-registers a memory instruction with `n` data registers names. -/
def memNames (o : MOps) (n : Nat) (av : Bool) : List Nat :=
  (List.range n).map (fun k => o.d.toNat + k) ++ if av then [o.a.toNat] else []

/-- The mark of field a of a memory instruction. -/
def aMark (o : MOps) (k : Kind) : List Mark := markOf o.la k o.a

/-- LD (R179). -/
def execLd (o : MOps) (s : State) : Result :=
  let n := sizeBytes o.size
  let k := sizeRegs o.size
  memOp s o.g (memNames o k true) fun c g gv p e =>
    let done (s : State) (p : Path) (b : Block) (rs : List LineRes) (v : Nat → Nat) : Result :=
      loadRetire s c g p b e o rs
        ⟨spread o.d k fun i l => loadWord o.size (o.x == 1) (v l) i, none, none, 0, aMark o .v⟩
    if e = 0 then withBlock s g fun b _ => done s p b [] fun _ => 0
    else
      laneAccess s c g gv p e o.h .ldv (laneOffset gv c.p.slot o) n 3 fun s p b _ reqs rs =>
        let ls := g.linesRead rs
        done s p b rs fun l =>
          match reqs.find? fun q => q.lane == l with
          | some q => reqValue ls q
          | none => 0

/-- LDU: one access, its value in every lane of the effective set (R179). -/
def execLdu (o : MOps) (s : State) : Result :=
  let n := sizeBytes o.size
  let k := sizeRegs o.size
  memOp s o.g (memNames o k false) fun c g gv p e =>
    let done (s : State) (p : Path) (b : Block) (rs : List LineRes) (v : Nat) : Result :=
      loadRetire s c g p b e o rs
        ⟨spread o.d k fun i _ => loadWord o.size (o.x == 1) v i, none, none, 0, aMark o .s⟩
    if e = 0 then withBlock s g fun b _ => done s p b [] 0
    else
      uniformAccess s c g gv p e o.h .lds (uniformOffset gv o) n 3 fun s p b _ q rs =>
        done s p b rs (reqValue (g.linesRead rs) q)

/-- A group-level memory instruction: with an empty effective set it retires and changes nothing
(R46). -/
def memGroup (s : State) (gd : BitVec 3) (vs : List Nat)
    (k : Cur → Group → Group → Path → Word → Result) : Result :=
  memOp s gd vs fun c g gv p e => if e = 0 then retire s c g p else k c g gv p e

/-- LDS (R179). -/
def execLds (o : MOps) (s : State) : Result :=
  memGroup s o.g [] fun c g gv p e =>
    uniformAccess s c g gv p e o.h .lds (uniformOffset gv o) (sizeBytes o.size) 3
      fun s p b _ q rs =>
        let v := reqValue (g.linesRead rs) q
        loadRetire s c g p b e o rs
          (sWrite o.d (extend 64 (sizeBytes o.size) (o.x == 1) v) 0 (aMark o .s))

/-- The scope at which a store releases, if it does (R180). -/
def storeScope (o : MOps) : Option Scope := if o.ord == .rel then some o.scope else none

/-- The bytes the lanes store, in ascending lane order, so that the highest lane wins (R172, R180). -/
def laneStores (reqs : List LaneReq) (v : Nat → Nat) : List StoreByte :=
  reqs.flatMap fun q => q.addrs.zip (bytesOfNat q.addrs.length (v q.lane))

/-- The marks of a store: field a, and the data registers when ld is set (R180). -/
def storeMarks (o : MOps) (n : Nat) (ka kd : Kind) : List Mark :=
  aMark o ka ++ (if o.ld then
    (match kd with
     | .v => (List.range n).map fun k => Mark.v (o.d.toNat + k)
     | _ => [.s o.d])
    else [])

/-- ST (R180). -/
def execSt (o : MOps) (s : State) : Result :=
  let n := sizeBytes o.size
  let k := sizeRegs o.size
  memOp s o.g (memNames o k true) fun c g gv p e =>
    let marks := storeMarks o k .v .v
    if e = 0 then storeRetire s c g p 0 (storeScope o) [] [] marks
    else
      laneAccess s c g gv p e o.h .stv (laneOffset gv c.p.slot o) n 12 fun s p _ r reqs rs =>
        let v (l : Nat) : Nat := (List.range k).foldl (fun acc i =>
          acc + (gv.vlane c.p.slot (o.d.toNat + i) l).toNat * 2 ^ (32 * i)) 0
        storeRetire s c g p r.h.idx (storeScope o) (laneStores reqs v) rs marks

/-- STS (R180). -/
def execSts (o : MOps) (s : State) : Result :=
  memGroup s o.g [] fun c g gv p e =>
    uniformAccess s c g gv p e o.h .sts (uniformOffset gv o) (sizeBytes o.size) 12
      fun s p _ r q rs =>
        storeRetire s c g p r.h.idx (storeScope o)
          (q.addrs.zip (bytesOfNat q.addrs.length (gv.sreg o.d).toNat)) rs (storeMarks o 1 .s .s)

/-- The offset of register `i` of lane `l` in an LDM or STM, relative to o (R181). -/
def rangeOffset (priv : Bool) (i l : Nat) : Nat := if priv then 4 * i else 128 * i + 4 * l

/-- Stages 1, 2 and 4 of an LDM or STM of `n` registers: every word of every lane of the effective
set (R169, R181, R182). -/
def rangeAccess (s : State) (c : Cur) (g gv : Group) (p : Path) (e : Word) (o : MOps) (u : Use)
    (n reason : Nat)
    (k : State → Path → Block → Region → List LaneReq → List LineRes → Result) : Result :=
  withBlock s g fun b gr =>
    withRegion s c g p b gr e o.h u fun r =>
      let base := uniformOffset gv o
      let priv := r.h.space == 9
      let at' (i l : Nat) : Int := base + (rangeOffset priv i l : Int)
      let bad := maskOf fun l => bitAt e l && (List.range n).any fun i => !r.inside (at' i l) 4
      if bad ≠ 0 then fatal s c g p 0x10 bad (offAddr r (gridIndex b g) bad (at' 0))
      else
        let reqs := (lanesIn e).map fun l =>
          (⟨l, (List.range n).flatMap fun i => r.bytes (gridIndex b g) l (at' i l).toNat 4⟩ : LaneReq)
        withLines s c g gv p b e r (useAccess u) reqs reason fun s p rs => k s p b r reqs rs

/-- LDM (R181, R182): every register of the range at retirement, or none. -/
def execLdm (o : MOps) (s : State) : Result :=
  let n := o.x.toNat + 1
  memOp s o.g (memNames o n false) fun c g gv p e =>
    let done (s : State) (p : Path) (b : Block) (rs : List LineRes) (v : Nat → Nat → Word) : Result :=
      loadRetire s c g p b e o rs ⟨spread o.d n v, none, none, 0, aMark o .s⟩
    if e = 0 then withBlock s g fun b _ => done s p b [] fun _ _ => 0
    else
      rangeAccess s c g gv p e o .ldv n 3 fun s p b _ reqs rs =>
        let ls := g.linesRead rs
        done s p b rs fun i l =>
          match reqs.find? fun q => q.lane == l with
          | some q => BitVec.ofNat 32 (natOfBytes (((q.addrs.drop (4 * i)).take 4).map (byteAt ls)))
          | none => 0

/-- STM (R181, R182): every line is confirmed before any entry enters the store buffer. -/
def execStm (o : MOps) (s : State) : Result :=
  let n := o.x.toNat + 1
  memOp s o.g (memNames o n false) fun c g gv p e =>
    let marks := storeMarks o n .s .v
    if e = 0 then storeRetire s c g p 0 (storeScope o) [] [] marks
    else
      rangeAccess s c g gv p e o .stv n 12 fun s p _ r reqs rs =>
        let v (l : Nat) : Nat := (List.range n).foldl (fun acc i =>
          acc + (gv.vlane c.p.slot (o.d.toNat + i) l).toNat * 2 ^ (32 * i)) 0
        storeRetire s c g p r.h.idx (storeScope o) (laneStores reqs v) rs marks

/-- A prefetched line goes into the core's L1 too, unless it is there or the PRF asks for no L1 copy (R183). -/
def State.prefetchL1 (s : State) (core : BitVec 9) (k : LineKey) (nl1 : Bool) (bs : List Byte) (hidx : Nat)
    (l : Option Leaf) : State :=
  if nl1 || (s.l1Line? core k).isSome then s else s.setL1 ⟨core, k, bs, fullMarks, hidx, l, []⟩

/-- One line of a PRF: fetched towards L2, RDC and L1 where stage 1 to 4 pass, else skipped (R183).
A line homed on another die is requested and comes with its answer, unless it finds no host tag (R375; log 23,
DESIGN CHOICE); a copy the RDC has goes on to the L1. -/
def prefetchLine (s : State) (st : Site) (r : Region) (nl1 : Bool) (a : Nat) : State :=
  let k := s.keyOf st r a
  let far (s : State) : State :=
    if s.noTag st.vd .read k then s
    else (s.send (.prf (if nl1 then none else some st.core)) st.die st.vd .read k r.h.idx).2
  if s.keyBusy k then s
  else
    match k with
    | .mem home vd la =>
      if home == st.die then
        match s.homeFetch home vd la with
        | .ok (h, s') => if h.leaf.r then s'.prefetchL1 st.core k nl1 h.bytes r.h.idx (some h.leaf) else s
        | .error _ => s
      else
        match s.rdcLine? st.die k with
        | some x => if leafPermits x.leaf .read then (s.setRdc x).prefetchL1 st.core k nl1 x.bytes r.h.idx x.leaf else s
        | none => far s
    | .host vd la =>
      if st.die = 0 then
        match s.hostLine .read vd la with
        | (.ok bs l, s') => s'.prefetchL1 st.core k nl1 bs r.h.idx l
        | _ => s
      else far s
    | .scr _ _ | .tile _ _ => s

/-- Whether PRF may touch a space (R167). -/
def prefetchable (space : Nat) : Bool := space == 0 || space == 4 || space == 5 || space == 6 || space == 8

/-- PRF (R183): it raises no memory cause and does not wait for its lines. -/
def execPrf (o : MOps) (s : State) : Result :=
  memGroup s o.g [] fun c g gv p _ =>
    withBlock s g fun b gr =>
      let st : Site := ⟨b.core, b.vd, c.p⟩
      let off := uniformOffset gv o
      let s := match b.slotAt o.h with
        | none => s
        | some h =>
          if !(prefetchable h.space.toNat && h.perm.getLsbD 0) then s
          else
            match s.regionOf b gr h with
            | none => s
            | some r =>
              let first : Int := ((h.base.toNat : Int) + off) / 128 * 128 - (h.base.toNat : Int)
              (List.range (o.x.toNat + 1)).foldl (fun s (i : Nat) =>
                let lo := first + 128 * (i : Int)
                let touch := if i = 0 then off else lo
                if r.inside touch 1 then prefetchLine s st r (o.hint == .noL1) (r.addr touch.toNat)
                else s) s
      retire s c ((g.applyMarks c.p.slot p.mask (aMark o .s))) p

/-- The value HQRY returns for a mapped slot (R184). -/
def handleField (h : Handle) (x : BitVec 4) : DWord :=
  match x.toNat with
  | 0 => h.base &&& 0x00FFFFFFFFFFFFFF
  | 1 => BitVec.ofNat 64 h.length
  | 2 => BitVec.ofNat 64 (h.space.toNat + 2 ^ 8 * (h.perm.toNat % 8) + 2 ^ 16 * (h.policy.toNat % 4) +
      (if h.bind then 2 ^ 24 else 0) + 2 ^ 32)
  | _ => h.sync

/-- HQRY (R184): never faults on its handle. -/
def execHqry (o : MOps) (s : State) : Result :=
  groupLevel s o.g [] fun c g p e =>
    withBlock s g fun b _ =>
      let v := match b.slotAt o.h with
        | some h => handleField h o.x
        | none => 0
      commit s c g p e (sWrite o.d v 0 [])

end Sys2Proof.Machine
end

