-- ==== Sys2Proof/Machine/Atomic.lean ====
section
/-!
DEFINITION. Atomics, the counter instructions AHIST and CSNAP, and the shared object checks of R169
stage 3 (R169, R185 to R188, R259, R289).
The model's own choices here: DEDUCED, logs 12, 20.
-/
namespace Sys2Proof.Machine

/-- A confirmed line of an atomic: its first address, its key, its leaf. -/
structure AtomLine where
  la   : Nat
  key  : LineKey
  leaf : Option Leaf
  deriving DecidableEq, Repr

/-- The confirmed lines of an access. -/
def atomLines (rs : List LineRes) : List AtomLine :=
  rs.map fun x => ⟨x.la, x.key, match x.out with
    | .ok _ l => l
    | _ => none⟩

/-- The value at `addrs`, which lie in one line, at its home. -/
def State.atomRead (s : State) (ls : List AtomLine) (addrs : List Nat) : Nat :=
  match ls.find? fun x => x.la == addrs.headD 0 / 128 * 128 with
  | some x => natOfBytes (((s.coherent x.key x.leaf).drop (addrs.headD 0 % 128)).take addrs.length)
  | none => 0

/-- Puts a value at `addrs`, which lie in one line, at its home; a copy of memory in the core's own L1 shows it, so
that the path never reads an older value, but for bytes that a store of the core has written there and that come to
the home later (R282, R287, R291); no copy stays in the die's RDC (R259). -/
def State.atomWrite (s : State) (st : Site) (ls : List AtomLine) (addrs : List Nat) (v : Nat) :
    State :=
  match ls.find? fun x => x.la == addrs.headD 0 / 128 * 128 with
  | none => s
  | some x =>
    let o := addrs.headD 0 % 128
    let bs := putBytes zeroLine o (bytesOfNat addrs.length v)
    let m := marksOf o addrs.length
    let s := s.arriveLine x.key bs m x.leaf
    let s := { s with rdc := s.rdc.filter fun y => !(y.die == st.die && y.key == x.key) }
    match if x.key.cached then s.l1Line? st.core x.key else none with
    | some y => s.setL1 { y with bytes := mergeBytes y.bytes bs (m &&& ~~~s.unarrivedMarks st.core x.key) 0 }
    | none => s

/-- Whether the group's older stores to these lines have drained and arrived at their homes (R185,
R282). -/
def State.linesQuiet (s : State) (g : Group) (ls : List AtomLine) : Bool :=
  ls.all fun x => !((s.inFlight g.id ++ g.sb ++ g.sbRest).any fun e => e.key == x.key)

/-- The scope of an atomic's release, and of its acquire (R185). -/
def atomRel (o : MOps) : Option Scope :=
  if o.ord == .rel || o.ord == .acqrel then some o.scope else none

@[inherit_doc atomRel]
def atomAcq (o : MOps) : Option Scope :=
  if o.ord == .acq || o.ord == .acqrel then some o.scope else none

/-- The pending SYNCR releases a write at `addrs` performs (R191). -/
def Group.relsAt (g : Group) (ls : List AtomLine) (addrs : List Nat) : List PendRel :=
  g.rels.filter fun r => addrs.any fun a =>
    (ls.any fun x => x.key == r.key && x.la == a / 128 * 128) && r.off / 8 == a % 128 / 8

/-- When an atomic may be performed: its release and those of pending SYNCRs over, its lines quiet,
its `n` destinations given registers (R94, R185, R191). -/
def atomReady (s : State) (g : Group) (o : MOps) (ls : List AtomLine) (addrs : List Nat) : Bool :=
  ((atomRel o).toList ++ (g.relsAt ls addrs).map fun r => r.scope).all (s.released g) &&
    s.linesQuiet g ls

/-- An atomic retires: its acquire, its results and marks (R185, R189). -/
def atomRetire (s : State) (c : Cur) (g : Group) (p : Path) (b : Block) (e : Word) (o : MOps)
    (hit : List PendRel) (w : Writes) : Result :=
  let g := { g with rels := g.rels.filter fun r => !hit.contains r }
  let x := match atomAcq o with
    | some sc => s.acquireFor ⟨b.core, b.vd, c.p⟩ g sc allRegions
    | none => (g, s)
  retire x.2 c (x.1.applyWrites c.p.slot p.mask e w) p

/-- An atomic whose effective set is empty performs no access: its ordering and its marks remain. -/
def atomEmpty (s : State) (c : Cur) (g : Group) (p : Path) (o : MOps) (w : Writes) : Result :=
  withBlock s g fun b _ =>
    if ((atomRel o).toList).all (s.released g) then
      if g.canWrite w.vs.length then atomRetire s c g p b 0 o [] w else stay s c g p .retry 2
    else stay s c g p .retry 12

/-- Stage 3 of R169: the lanes whose address is no multiple of `n`. -/
def misaligned (r : Region) (e : Word) (off : Nat → Int) (n : Nat) : Word :=
  maskOf fun l => bitAt e l && (r.h.base.toNat + (off l).toNat) % n != 0

/-- All four stages of R169 for an atomic of `n` bytes at per-lane offsets. -/
def atomAccess (s : State) (c : Cur) (g gv : Group) (p : Path) (e : Word) (slot : BitVec 8)
    (u : Use) (off : Nat → Int) (n : Nat)
    (k : State → Path → Block → List LaneReq → List LineRes → Result) : Result :=
  withBlock s g fun b gr =>
    withRegion s c g p b gr e slot u fun r =>
      let bad := outside r e off n
      let mis := misaligned r e off n
      if bad ≠ 0 then fatal s c g p 0x10 bad (offAddr r 0 bad off)
      else if mis ≠ 0 then fatal s c g p 0x12 mis (offAddr r 0 mis off)
      else
        let reqs := laneReqs r 0 e off n
        withLines s c g gv p b e r .atomic reqs 3 fun s p rs => k s p b reqs rs

/-- The new value of an AOP or SAOP on a memory value of `n` bits (R186). -/
def atomNew (x : BitVec 4) (n : Nat) (old val : Nat) : Nat :=
  let a : BitVec n := BitVec.ofNat n old
  let b : BitVec n := BitVec.ofNat n val
  let w (f : Word → Word → Word × Word) : Nat :=
    (f (BitVec.ofNat 32 old) (BitVec.ofNat 32 val)).1.toNat
  match x.toNat with
  | 0 => (a + b).toNat
  | 1 => (if a.slt b then a else b).toNat
  | 2 => (if a.slt b then b else a).toNat
  | 3 => (if a.ult b then a else b).toNat
  | 4 => (if a.ult b then b else a).toNat
  | 5 => (a &&& b).toNat
  | 6 => (a ||| b).toNat
  | 7 => (a ^^^ b).toNat
  | 8 => val
  | 9 => w (fadd32 none)
  | 10 => w (fmin32 none)
  | 11 => w (fmax32 none)
  | _ => w (hadd2 none)

/-- The lanes' atomics one after another in ascending lane order: each lane's old value, and the
state after them (R186). `f` gives a lane's new value from its old one. -/
def State.laneAtoms (s : State) (st : Site) (ls : List AtomLine) (f : Nat → Nat → Nat) :
    List LaneReq → List (Nat × Nat) × State
  | [] => ([], s)
  | q :: t =>
    let old := s.atomRead ls q.addrs
    match State.laneAtoms (s.atomWrite st ls q.addrs (f q.lane old)) st ls f t with
    | (rs, s) => ((q.lane, old) :: rs, s)

/-- A lane's old value. -/
def oldOf (rs : List (Nat × Nat)) (l : Nat) : Nat :=
  match rs.find? fun x => x.1 == l with
  | some x => x.2
  | none => 0

/-- A value of `k` words in the registers from `r` on, in one lane. -/
def laneValue (gv : Group) (slot : Bool) (r k l : Nat) : Nat :=
  (List.range k).foldl (fun acc i => acc + (gv.vlane slot (r + i) l).toNat * 2 ^ (32 * i)) 0

/-- A per-lane atomic: `names` v-registers from d on are named, `f` gives a lane's new value from its
old one (R185, R186). -/
def laneAtomic (o : MOps) (names : Nat) (u : Use) (f : Group → Bool → Nat → Nat → Nat)
    (s : State) : Result :=
  let n := sizeBytes o.size
  let k := sizeRegs o.size
  memOp s o.g (memNames o names true) fun c g gv p e =>
    let w (rs : List (Nat × Nat)) : Writes :=
      ⟨spread o.d k fun i l => BitVec.ofNat 32 (oldOf rs l / 2 ^ (32 * i)), none, none, 0, aMark o .v⟩
    if e = 0 then atomEmpty s c g p o (w [])
    else
      atomAccess s c g gv p e o.h u (laneOffset gv c.p.slot o) n fun s p b reqs rs =>
        let ls := atomLines rs
        let addrs := reqs.flatMap fun q => q.addrs
        if !atomReady s g o ls addrs then stay s c g p .retry 12
        else if !g.canWrite k then stay s c g p .retry 2
        else
          match s.laneAtoms ⟨b.core, b.vd, c.p⟩ ls (f gv c.p.slot) reqs with
          | (rs, s) => atomRetire s c g p b e o (g.relsAt ls addrs) ((w rs).kept g p)

/-- AOP (R186). -/
def execAop (o : MOps) (s : State) : Result :=
  laneAtomic o (sizeRegs o.size) (.atom (o.x == 0))
    (fun gv slot l old =>
      atomNew o.x (8 * sizeBytes o.size) old (laneValue gv slot o.d.toNat (sizeRegs o.size) l)) s

/-- ACAS (R186). -/
def execAcas (o : MOps) (s : State) : Result :=
  let k := sizeRegs o.size
  laneAtomic o (2 * k) (.atom false)
    (fun gv slot l old =>
      if old = laneValue gv slot o.d.toNat k l then laneValue gv slot (o.d.toNat + k) k l else old) s

/-- A group-level atomic: one access, its old value zero-extended into s_d (R186). -/
def groupAtomic (o : MOps) (u : Use) (f : Group → Nat → Nat) (s : State) : Result :=
  let n := sizeBytes o.size
  memGroup s o.g [] fun c g gv p e =>
    let off (_ : Nat) : Int := uniformOffset gv o
    atomAccess s c g gv p e o.h u off n fun s p b reqs rs =>
      let ls := atomLines rs
      let one := reqs.take 1
      let addrs := one.flatMap fun q => q.addrs
      if !atomReady s g o ls addrs then stay s c g p .retry 12
      else
        match s.laneAtoms ⟨b.core, b.vd, c.p⟩ ls (fun _ old => f gv old) one with
        | (rs, s) =>
          let old := match rs with
            | x :: _ => x.2
            | [] => 0
          atomRetire s c g p b e o (g.relsAt ls addrs)
            (sWrite o.d (BitVec.ofNat 64 old) 0 (aMark o .s))

/-- The low bytes of a scalar register that a size takes (R186). -/
def scalarValue (gv : Group) (o : MOps) (r : BitVec 6) : Nat :=
  (gv.sreg r).toNat % 2 ^ (8 * sizeBytes o.size)

/-- SAOP (R186). -/
def execSaop (o : MOps) (s : State) : Result :=
  groupAtomic o (.atom (o.x == 0))
    (fun gv old => atomNew o.x (8 * sizeBytes o.size) old (scalarValue gv o o.d)) s

/-- SACAS (R186): s_(d+1) is the pair's other register (log 12, DEDUCED). -/
def execSacas (o : MOps) (s : State) : Result :=
  groupAtomic o (.atom false)
    (fun gv old =>
      if old = scalarValue gv o o.d then scalarValue gv o (o.d ||| 1) else old) s

/-- AHIST (R187): in one step, so that no other atomic sees part of a block's increments. -/
def execAhist (o : MOps) (s : State) : Result :=
  memOp s o.g (memNames o 0 true) fun c g gv p e =>
    let w := noWrites (aMark o .v)
    if e = 0 then atomEmpty s c g p o w
    else
      atomAccess s c g gv p e o.h .ahist (laneOffset gv c.p.slot o) 4 fun s p b reqs rs =>
        let ls := atomLines rs
        let addrs := reqs.flatMap fun q => q.addrs
        if !atomReady s g o ls addrs then stay s c g p .retry 12
        else
          match s.laneAtoms ⟨b.core, b.vd, c.p⟩ ls (fun _ old => (old + 1) % 2 ^ 32) reqs with
          | (_, s) => atomRetire s c g p b e o (g.relsAt ls addrs) w

/-- A locator: a window slot and a byte offset in its region (R48). -/
structure Locator where
  slot : BitVec 8
  off  : Nat
  deriving DecidableEq, Repr

/-- Reads a locator (R48). -/
def locatorOf (v : DWord) : Locator := ⟨v.extractLsb' 56 8, (v.extractLsb' 0 56).toNat⟩

/-- Takes `n` counter words at their home, leaving zeros (R188). -/
def State.takeWords (s : State) (st : Site) (ls : List AtomLine) (a : Nat) : Nat → List Nat × State
  | 0 => ([], s)
  | n + 1 =>
    let addrs := (List.range 4).map fun i => a + i
    let v := s.atomRead ls addrs
    match State.takeWords (s.atomWrite st ls addrs 0) st ls (a + 4) n with
    | (vs, s) => (v :: vs, s)

/-- CSNAP (R188): source checks, destination checks, stage 4 of both, then the snapshot and its
stores. -/
def execCsnap (o : MOps) (s : State) : Result :=
  memGroup s o.g [] fun c g gv p e =>
    withBlock s g fun b gr =>
      let n := 16 * (o.x.toNat + 1)
      let off := uniformOffset gv o
      let at' (a : DWord) : Word → BitVec 8 → Result := fun lanes cz => fatal s c g p cz lanes a
      withRegion s c g p b gr e o.h .csnapSrc fun r =>
        let a := r.addr off.toNat
        let sa := offAddr r 0 e fun _ => off
        if !r.inside off (4 * n) then at' sa e 0x10
        else if a % 64 ≠ 0 || a / 1024 ≠ (a + 4 * n - 1) / 1024 then at' sa e 0x12
        else
          let loc := locatorOf (gv.sreg o.d)
          withRegion s c g p b gr e loc.slot .csnapDst fun rd =>
            let da := offAddr rd 0 e fun _ => (loc.off : Int)
            if !rd.inside loc.off (4 * n) then at' da e 0x10
            else if loc.off % 4 ≠ 0 then at' da e 0x12
            else
              let req (x : Region) (o : Nat) : List LaneReq :=
                (lanesIn e).map fun l => ⟨l, x.bytes 0 0 o (4 * n)⟩
              withLines s c g gv p b e r .atomic (req r off.toNat) 3 fun s p rs =>
                withLines s c g gv p b e rd .write (req rd loc.off) 12 fun s p rsd =>
                  let st : Site := ⟨b.core, b.vd, c.p⟩
                  let ls := atomLines rs
                  let src := (List.range (4 * n)).map fun i => r.addr (off.toNat + i)
                  let hit := g.relsAt ls src
                  let dst := (List.range (4 * n)).map fun i => rd.addr (loc.off + i)
                  match s.entriesFor rd.h.idx (dst.map fun x => (x, 0)) rsd with
                  | (es0, _) =>
                    let hitD := g.relsHit es0
                    let scs := (hit ++ hitD).map fun r => r.scope
                    if !(atomReady s g o ls src && scs.all (s.released g) &&
                        g.roomFor es0.length) then stay s c g p .retry 12
                    else
                      match s.takeWords st ls a n with
                      | (vs, s) =>
                        match s.entriesFor rd.h.idx
                            (dst.zip (vs.flatMap fun v => bytesOfNat 4 v)) rsd with
                        | (es, s) =>
                          atomRetire s c (g.enter es) p b e o (hit ++ hitD) (noWrites (aMark o .s))

end Sys2Proof.Machine
end

