-- ==== Sys2Proof/Machine/Slots.lean ====
section
/-!
DEFINITION. Moving paths between the slots and the divergence stack, the stack's image in the save
area, and the end of a group (R88 to R92, R95, R101, R113, R211, R316).
The model's own choices here: DESIGN CHOICE, logs 28, 31, 39.
-/
namespace Sys2Proof.Machine

/-- R92 rule 2: a path waiting at a JOIN may leave when every other path waits at a JOIN with a
higher address. `others` are the group's other paths. -/
def Path.mayLeave (p : Path) (others : List Path) : Bool :=
  others.all fun q => q.joining && p.pc < q.pc

/-- Removes element number `n`. -/
def dropAt {α : Type} : Nat → List α → List α
  | _, [] => []
  | 0, _ :: t => t
  | n + 1, x :: t => x :: dropAt n t

/-- The stacked path a fill takes: the topmost one that does not wait, or may leave its JOIN (R91). -/
def Group.fillIndex (g : Group) : Option Nat :=
  (List.range g.stack.length).find? fun n =>
    match g.stack[n]? with
    | some q => !q.joining ||
        q.mayLeave (g.slot0.toList ++ g.slot1.toList ++ dropAt n g.stack)
    | none => false

/-- The VA of stack entry `i` of a group in its block's save slot; none while the block has no slot
(R90, R316). -/
def stackVa (r : Root) (b : Block) (gidx i : Nat) : Option Va :=
  b.slot.map fun n =>
    BitVec.ofNat 56 (r.savepool.toNat + n * 0x400000 + 0x1000 + 0x10000 * gidx + 0xA000 + 16 * i)

/-- The 16 bytes of a stack entry (R90). -/
def stackBytes (p : Path) : List Byte :=
  let hoff := (p.pc.toNat - p.hdr.toNat) / 4 % 64
  bytesOfNat 8 (p.pc.toNat + hoff * 2 ^ 56 + (if p.joining then 2 ^ 62 else 0)) ++
    bytesOfNat 4 p.mask.toNat ++ bytesOfNat 2 (if p.joining then 0 else min p.age 65535) ++ [0, 0]

/-- Translates a save-area address and writes bytes there, or only checks it when there are none;
none on a translation fault (R90). -/
def State.saveArea (s : State) (vd : BitVec 8) (va : Va) (bs : List Byte) : Option State :=
  match s.homeFetch (s.homeOf vd va) vd va with
  | .error _ => none
  | .ok (h, s) =>
    if !h.leaf.w then none
    else if bs.isEmpty then some s
    else
      let o := va.toNat % 128
      some (s.arriveLine h.key (putBytes zeroLine o bs) (marksOf o bs.length) (some h.leaf))

/-- Whether a PGINV holds up accesses to a group's stack in the save area (R271). -/
def State.stackBusy (s : State) (b : Block) (gidx : Nat) : Bool :=
  match (s.vdev b.vd).root with
  | none => false
  | some r => match stackVa r b gidx 0 with
    | none => false
    | some va => s.rangeBusy b.vd va.toNat 1024

/-- The memory side of a push of a path as entry `i`, or of a pop of it (R90). -/
def State.stackAccess (s : State) (b : Block) (gidx i : Nat) (p : Option Path) : Option State :=
  match (s.vdev b.vd).root with
  | none => some s
  | some r =>
    match stackVa r b gidx i with
    | none => some s
    | some va => s.saveArea b.vd va (match p with
      | some p => stackBytes p
      | none => [])

/-- The image of the whole stack in the save area, written when an entry comes, goes or moves and when the
context is saved; the top is entry depth - 1 (R90). None on a translation fault. -/
def State.stackImage (s : State) (b : Block) (gidx : Nat) : List Path → Option State
  | [] => some s
  | p :: t =>
    match State.stackImage s b gidx t with
    | none => none
    | some s => s.stackAccess b gidx t.length (some p)

/-- The image after a group's stack has changed. -/
def State.keepStack (s : State) (b : Block) (was g : Group) : Option State :=
  if g.stack == was.stack then some s else s.stackImage b g.idx g.stack

/-- A popped path takes up an empty slot: it is as it was when it was pushed. -/
def Group.fillSlot1 (g : Group) (q : Path) (n : Nat) : Group :=
  { g.copyMap with slot1 := some q, stack := dropAt n g.stack, spills := g.spills + 1 }

/-- The path of slot 1 has moved to slot 0: what its core and its feed queue remember of it follows
(R150, R155, R338). -/
def State.movedPath (s : State) (core : BitVec 9) (grp : Nat) : State :=
  let k := s.core core
  let mv (r : PathRef) : PathRef := if r == ⟨grp, true⟩ then ⟨grp, false⟩ else r
  let s := { s with grids := s.grids.map fun (gr : Grid) =>
    { gr with levels := gr.levels.map fun (d : DieLevel) =>
        { d with feed := d.feed.map fun (f : FeedQueue) =>
            { f with sleepers := f.sleepers.map mv } } } }
  s.setCore { k with holds := k.holds.map fun x => (mv x.1, x.2), pinned := k.pinned.map mv,
                     picks := k.picks.filterMap fun (x : PickState) =>
                       if x.path == ⟨grp, false⟩ then none else some { x with path := mv x.path } }

/-- The slots after a path has left: the slot-1 path moves to an empty slot 0 with the fold of its
lanes, and slot 1 is filled from the stack (R91, R95). None on a translation fault of the fill. -/
def State.settle (s : State) (b : Block) (g : Group) : Option (State × Group) :=
  let s := if g.slot0.isNone && g.slot1.isSome then s.movedPath b.core g.id else s
  let g : Group := match g.slot0, g.slot1 with
    | none, some q =>
      let g := g.fold q.lanes true false
      { g with slot0 := some q, slot1 := none }.dropMap
    | _, none => g.dropMap
    | _, _ => g
  match g.slot1, g.fillIndex with
  | none, some n =>
    match g.stack[n]? with
    | none => some (s, g)
    | some q =>
      match s.stackAccess b g.idx (g.stack.length - 1 - n) none with
      | none => none
      | some s =>
        if g.slot0.isSome then some (s, g.fillSlot1 q n)
        else
          let g := { g with slot0 := some q, stack := dropAt n g.stack, spills := g.spills + 1 }
          match g.fillIndex with
          | none => some (s, g)
          | some m =>
            match g.stack[m]? with
            | none => some (s, g)
            | some q' =>
              match s.stackAccess b g.idx (g.stack.length - 1 - m) none with
              | none => none
              | some s => some (s, g.fillSlot1 q' m)
  | _, _ => some (s, g)

/-- Units as claimable types. -/
def Units.get (u : Units) : RType → Nat
  | .reg => u.reg
  | .tile => u.tile
  | .scr => u.scr
  | .eng => u.eng

/-- Sets one type's amount. -/
def Units.set (u : Units) (t : RType) (n : Nat) : Units :=
  match t with
  | .reg => { u with reg := n }
  | .tile => { u with tile := n }
  | .scr => { u with scr := n }
  | .eng => { u with eng := n }

/-- Units granted to an instruction that will not retire go back (R100, R208). -/
def Block.giveBack (b : Block) (x : Grant) : Block :=
  if x.ok && !x.raise then { b with pend := b.pend.set x.ty (b.pend.get x.ty - x.amt) } else b

/-- After a release or an exit on a cluster every deferred request is due for a test, oldest first
(R207). -/
def State.retestAll (s : State) (c : BitVec 6) : State :=
  let k := s.cluster c
  s.setCluster { k with retest := k.deferred.map fun r => r.id }

/-- A group with no live lane ends: its registers are freed and its REG units go back (R113, R211). -/
def State.endGroup (s : State) (b : Block) (g : Group) : State :=
  let g := { g with phase := .ended, slot0 := none, slot1 := none, stack := [], m0 := [], m1 := [],
                    phys := [] }
  let b := { b with alloc := { b.alloc with reg := b.alloc.reg - g.regn / 8 } }
  ((s.setGroup g).setBlock b).retestAll (clusterOf b.core)

/-- A path as the stack holds it: it fetches no more for a swap, and has nothing in the reorder buffer (R90,
R101). -/
def Path.pushed (p : Path) : Path := { p with leaving := false, rob := [] }

/-- A path has nothing in its half of the reorder buffer: it may be pushed (R91, R101). -/
def Path.drained (p : Path) : Bool := p.joining || (p.wait.isNone && p.liveRob.isEmpty)

/-- A path that is to be pushed does not drain in time: its oldest instruction waits for something other than
memory, or the path that is to have the slot has waited 7,936 of its 8,192 cycles. What the path has not retired is
dropped then, as at a save (R100, R102; log 28, DESIGN CHOICE). -/
def Path.mustDrop (p : Path) (waited : Nat) : Bool := 7936 ≤ waited || p.wait.any fun w => w.reason != 3

/-- A path that drops what it has not retired: its instructions execute again later; a back-off and the wait of
the default handler of 0x40 go on. -/
def Path.dropped (p : Path) : Path :=
  let p := { p with granted := none, pend := [], replay := none, rob := [], due := [], starved := none }
  match p.wait with
  | some w => (match w.kind with
    | .backoff _ => p
    | _ => if p.joining || p.handler.any (fun h => h.dflt.isSome) then p else { p with wait := none })
  | none => p

/-- What the path in a slot drops at its core's cluster: its request at the Reeve is withdrawn, units granted to it
go back, and it leaves its feed queue's line; its replay entry frees (R100, R176, R208, R338). -/
def State.dropPath (s : State) (b : Block) (g : Group) (slot : Bool) (p : Path) : State × Group :=
  let s := match p.granted with
    | some x => (s.setBlock (b.giveBack x)).retestAll (clusterOf b.core)
    | none => s
  let s := match p.wait.map fun w => w.kind with
    | some (.grant n _) => { s with clusters := s.clusters.map fun (c : Cluster) =>
        { c with queue := c.queue.filter (fun r => r.id != n), deferred := c.deferred.filter (fun r => r.id != n) } }
    | _ => s
  let s := { s with grids := s.grids.map fun (gr : Grid) =>
    { gr with levels := gr.levels.map fun (d : DieLevel) =>
        { d with feed := d.feed.map fun (f : FeedQueue) =>
            { f with sleepers := f.sleepers.filter fun r => r != ⟨g.id, slot⟩ } } } }
  (s, (g.freeReplay p).setPath slot (some p.dropped))

/-- A stacked path that ages is swapped into the slot of a displaced path, which is pushed (R101).
`n` is the stacked path's place, top first. -/
def Group.swapIn (g : Group) (slot : Bool) (displaced : Path) (n : Nat) : Group :=
  match g.stack[n]? with
  | none => g
  | some q =>
    let rest := displaced.pushed :: dropAt n g.stack
    if slot then
      let g := g.fold displaced.lanes true false
      ({ g with slot1 := some q, stack := rest, spills := g.spills + 2 }.copyMap).freePhys
    else { g with slot0 := some q, stack := rest, spills := g.spills + 2 }

end Sys2Proof.Machine
end

