-- ==== Sys2Proof/Machine/Barrier.lean ====
section
/-!
DEFINITION. Barriers at block, cluster, die and gang level (R192, R193, R231, R261, R262).
The model's own choices here: DEDUCED, log 17.
-/
namespace Sys2Proof.Machine

/-- The level a barrier's scope names (R192). -/
def levelOf : Scope → BarLevel
  | .grp | .blk | .sys => .blk
  | .clu => .clu
  | .die => .die
  | .dev => .gang

/-- The scope at which a level releases and acquires (R193, R231, R261, R262). -/
def levelScope : BarLevel → Scope
  | .blk => .blk
  | .clu => .clu
  | .die => .die
  | .gang => .dev

/-- A group's state in a slot (R193). -/
def Group.barState (g : Group) (l : BarLevel) (n : Nat) : BarState :=
  match g.bars.find? fun x => x.level == l && x.slot == n with
  | some x => x.state
  | none => .idle

/-- Sets a group's state in a slot; idle slots are not listed. -/
def Group.setBar (g : Group) (l : BarLevel) (n : Nat) (st : BarState) : Group :=
  let rest := g.bars.filter fun x => !(x.level == l && x.slot == n)
  { g with bars := if st == .idle then rest else rest ++ [⟨l, n, st⟩] }

/-- A slot's counts among a list of slots. -/
def barSlotAt (bs : List BarSlot) (n : Nat) : BarSlot :=
  match bs.find? fun x => x.slot == n with
  | some x => x
  | none => ⟨n, 0, 0⟩

/-- Changes a slot's counts. -/
def onSlot (bs : List BarSlot) (n : Nat) (f : BarSlot → BarSlot) : List BarSlot :=
  upsert (fun x => x.slot == n) (f (barSlotAt bs n)) bs

/-- A gang slot of a die level. -/
def DieLevel.gang (d : DieLevel) (n : Nat) : GangSlot :=
  match d.gangs.find? fun x => x.slot == n with
  | some x => x
  | none => ⟨n, 0, false, [], [], 0⟩

/-- Puts a gang slot back. -/
def DieLevel.setGang (d : DieLevel) (x : GangSlot) : DieLevel :=
  { d with gangs := upsert (fun y => y.slot == x.slot) x d.gangs }

/-- Changes a die level of a grid. -/
def Grid.onDie (gr : Grid) (dl : Nat) (f : DieLevel → DieLevel) : Grid :=
  { gr with levels := gr.levels.map fun d => if d.idx == dl then f d else d }

/-- Changes a cluster level of a die level. -/
def DieLevel.onClu (d : DieLevel) (cl : Nat) (f : CluLevel → CluLevel) : DieLevel :=
  { d with clus := d.clus.map fun x => if x.idx == cl then f x else x }

/-- The die level of a grid. -/
def Grid.die? (gr : Grid) (dl : Nat) : Option DieLevel := gr.levels.find? fun d => d.idx == dl

/-- One more arrival at a slot (R193, R231, R261, R262). -/
def State.arriveBar (s : State) (b : Block) (gr : Grid) (l : BarLevel) (n : Nat) : State :=
  let up (x : BarSlot) : BarSlot := { x with arrivals := x.arrivals + 1 }
  match l with
  | .blk => s.setBlock { b with bars := onSlot b.bars n up }
  | .clu => s.setGrid (gr.onDie b.dieid fun d => d.onClu b.cid fun x =>
      { x with bars := onSlot x.bars n up })
  | .die => s.setGrid (gr.onDie b.dieid fun d => { d with bars := onSlot d.bars n up })
  | .gang => s.setGrid (gr.onDie b.dieid fun d =>
      let x := d.gang n
      d.setGang { x with arrivals := x.arrivals + 1 })

/-- Cause 0x50's conditions common to BARA and BARW: more than one path, or a gang barrier outside a
gang (R193, R262). -/
def barrierBad (g : Group) (gr : Grid) (l : BarLevel) : Bool :=
  1 < g.paths.length || (l == .gang && !gr.desc.gang)

/-- Runs a barrier instruction with its level and slot (R192). -/
def barrierOp (o : MOps) (s : State)
    (k : Cur → Group → Path → Block → Grid → BarLevel → Nat → Result) : Result :=
  groupLevel s o.g [] fun c g p _ =>
    withBlock s g fun b gr => k c g p b gr (levelOf o.scope) o.disp.toNat

/-- BARA (R193). -/
def execBara (o : MOps) (s : State) : Result :=
  barrierOp o s fun c g p b gr l n =>
    if barrierBad g gr l || g.barState l n != .idle then fatal s c g p 0x50 p.mask 0
    else if !s.released g (levelScope l) then stay s c g p .retry 12
    else retire (s.arriveBar b gr l n) c (g.setBar l n .arrived) p

/-- BARW (R193): while arrived it waits under stall reason 8; a gang round that expired takes cause
0x60 (R262). -/
def execBarw (o : MOps) (s : State) : Result :=
  barrierOp o s fun c g p b gr l n =>
    if barrierBad g gr l then fatal s c g p 0x50 p.mask 0
    else
      match g.barState l n with
      | .idle => fatal s c g p 0x50 p.mask 0
      | .arrived => stay s c g p .retry 8
      | .expired => fatal s c g p 0x60 p.mask 0
      | .complete =>
        let x := s.acquireFor ⟨b.core, b.vd, c.p⟩ g (levelScope l) allRegions
        retire x.2 c (x.1.setBar l n .idle) p

/-- The blocks a barrier's parties belong to. -/
def State.barBlocks (s : State) : BarRef → List Block
  | .blk n _ => s.blocks.filter fun b => b.id == n
  | .clu gr dl cl _ => s.blocks.filter fun b => b.grid == gr && b.dieid == dl.toNat && b.cid == cl.toNat
  | .die gr dl _ | .gang gr dl _ => s.blocks.filter fun b => b.grid == gr && b.dieid == dl.toNat

/-- A barrier's level and slot. -/
def barLevel : BarRef → BarLevel × Nat
  | .blk _ n => (.blk, n.toNat)
  | .clu _ _ _ n => (.clu, n.toNat)
  | .die _ _ n => (.die, n.toNat)
  | .gang _ _ n => (.gang, n.toNat)

/-- Whether no arriving party is left, and whether every one that is left has arrived: a block that
is not resident yet has all its parties still to come (R193, R231, R261). -/
def State.partiesIn (s : State) (r : BarRef) : Bool × Bool :=
  let bs := s.barBlocks r
  let unborn := bs.any fun b => b.phase == .ready && !(s.groups.any fun g => g.blk == b.id)
  let live := s.groups.filter fun g => g.phase != .ended && bs.any fun b => b.id == g.blk
  (!unborn && live.isEmpty,
   !unborn && live.all fun g => g.barState (barLevel r).1 (barLevel r).2 == .arrived)

/-- Every arrived group's slot takes a state. -/
def State.setParties (s : State) (r : BarRef) (st : BarState) : State :=
  let bs := s.barBlocks r
  { s with groups := s.groups.map fun g =>
      if g.barState (barLevel r).1 (barLevel r).2 == .arrived && bs.any (fun b => b.id == g.blk) then
        g.setBar (barLevel r).1 (barLevel r).2 st
      else g }

/-- A slot whose phase completes (R193). -/
def BarSlot.complete (x : BarSlot) : BarSlot := { x with arrivals := 0, phase := x.phase + 1 }

/-- Rounds of a gang slot that a die level has completed locally. -/
def GangSlot.rounds (x : GangSlot) : Nat := x.phase + if x.localEnd then 1 else 0

/-- Whether die level `e` counts as complete at a gang slot that has heard it, or that has no group
left (R262). -/
def State.gangHeard (s : State) (gr : Grid) (x : GangSlot) (n : BitVec 6) (e : DieLevel) : Bool :=
  x.heard.contains e.idx || (s.partiesIn (.gang gr.id (BitVec.ofNat 2 e.idx) n)).1

/-- The round messages of a gang slot set out, one to every other die level, with their deadlines (R262,
R263). -/
def State.sendRound (s : State) (d : DieLevel) (es : List DieLevel) : List GangMsg × State :=
  let die := d.die.getD 0
  es.foldl (fun acc e =>
    let r := acc.2.newId
    let m : GangMsg := ⟨r.1, e.idx, s.timebase.toNat + s.dline die, Transit.start die (e.die.getD 0) 1⟩
    (acc.1 ++ [m], r.2)) ([], s)

/-- The local round of a gang slot: complete when every group left has arrived; its round messages set out
(R262, R263). -/
def State.gangLocal (s : State) (gr : Grid) (d : DieLevel) (x : GangSlot) : State :=
  let r := s.sendRound d (gr.levels.filter fun e => e.idx != d.idx)
  r.2.setGrid (gr.onDie d.idx fun d => d.setGang { x with localEnd := true, sent := x.sent ++ r.1 })

/-- The cross-die round of a gang slot completes the phase on a die (R262). -/
def State.gangPhase (s : State) (gr : Grid) (d : DieLevel) (x : GangSlot) (r : BarRef) : State :=
  let heard := gr.levels.foldl (fun h e => removeFirst (fun n => n == e.idx) h) x.heard
  (s.setGrid (gr.onDie d.idx fun d =>
    d.setGang { x with arrivals := 0, localEnd := false, heard := heard, phase := x.phase + 1 })).setParties
      r .complete

/-- BARRIER_PHASE_COMPLETE (R193, R231, R261, R262): when every arriving party has arrived. For a gang
slot the event is the local round's end, or the phase's end once every round message is there. -/
def execBarrierPhaseComplete (r : BarRef) (s : State) : Result :=
  let all := (s.partiesIn r).2
  let n := (barLevel r).2
  match r with
  | .blk bid _ =>
    match s.block? bid with
    | some b =>
      if all && 0 < (barSlotAt b.bars n).arrivals then
        .next ((s.setBlock { b with bars := onSlot b.bars n BarSlot.complete }).setParties r .complete)
      else .next s
    | none => .next s
  | .clu gid dl cl _ =>
    match s.grid? gid with
    | some gr =>
      let bars := match gr.die? dl.toNat with
        | some d => match d.clus.find? fun x => x.idx == cl.toNat with
          | some x => x.bars
          | none => []
        | none => []
      if all && 0 < (barSlotAt bars n).arrivals then
        .next ((s.setGrid (gr.onDie dl.toNat fun d => d.onClu cl.toNat fun x =>
          { x with bars := onSlot x.bars n BarSlot.complete })).setParties r .complete)
      else .next s
    | none => .next s
  | .die gid dl _ =>
    match s.grid? gid with
    | some gr =>
      match gr.die? dl.toNat with
      | some d =>
        if all && 0 < (barSlotAt d.bars n).arrivals then
          .next ((s.setGrid (gr.onDie dl.toNat fun d =>
            { d with bars := onSlot d.bars n BarSlot.complete })).setParties r .complete)
        else .next s
      | none => .next s
    | none => .next s
  | .gang gid dl slot =>
    match s.grid? gid with
    | some gr =>
      match gr.die? dl.toNat with
      | some d =>
        let x := d.gang n
        let others := gr.levels.filter fun e => e.idx != d.idx
        if all && 0 < x.arrivals && !x.localEnd then .next (s.gangLocal gr d x)
        else if x.localEnd && others.all (s.gangHeard gr x slot) then .next (s.gangPhase gr d x r)
        else .next s
      | none => .next s
    | none => .next s

/-- A round message's deadline has passed: cause 0x60 at the BARW of every group waiting on the slot
(R262). -/
def State.expireGang (s : State) (gr : Grid) (slot : BitVec 6) : State :=
  gr.levels.foldl (fun s d => s.setParties (.gang gr.id (BitVec.ofNat 2 d.idx) slot) .expired) s

/-- A round message leaves its slot's list. -/
def Grid.dropRound (gr : Grid) (n : Nat) : Grid :=
  { gr with levels := gr.levels.map fun (d : DieLevel) =>
      { d with gangs := d.gangs.map fun (x : GangSlot) => { x with sent := x.sent.filter fun m => m.n != n } } }

/-- GANG_ROUND_MESSAGE (R262, R263): die level `frm`'s oldest round message for the slot that has come to die
level `dst` is heard there; one that comes after its deadline finds the round expired. -/
def execGangRoundMessage (grid : Nat) (dst frm : BitVec 2) (slot : BitVec 6) (s : State) : Result :=
  match s.grid? grid with
  | none => .next s
  | some gr =>
    match gr.die? dst.toNat, gr.die? frm.toNat with
    | some _, some e =>
      match (e.gang slot.toNat).sent.find? fun m => m.dst == dst.toNat && m.tr.done with
      | none => .next s
      | some m =>
        let gr := gr.dropRound m.n
        if decide (m.deadline < s.timebase.toNat) && !s.clkFault then .next ((s.setGrid gr).expireGang gr slot)
        else .next (s.setGrid (gr.onDie dst.toNat fun d =>
          let x := d.gang slot.toNat
          d.setGang { x with heard := x.heard ++ [frm.toNat] }))
    | _, _ => .next s

end Sys2Proof.Machine
end

