-- ==== Sys2Proof/WellFormed.lean ====
section
/-!
DEFINITION. Well-formed instructions: those whose every field R34 to R48 and the instruction's own
rule admit (R58 step 3). Events carry typed operands and are always well formed.
-/
namespace Sys2Proof

/-- Every field of the instruction is legal (R58 step 3). -/
def Instr.wf (i : Instr) : Bool := (Machine.illegal i).isNone

end Sys2Proof
end

