-- ==== Sys2Proof/Decode.lean ====
section
/-!
DEFINITION. The decoder, total on any bytes, and after it the encoder (R34 to R57). Fields are
pulled out of the words here, once. The decoder answers only well-formed instructions.
-/
namespace Sys2Proof

open Machine (DecodeError RInfo rInfo mInfo form Form illegal)

/-- Bits `lo` to `lo + n - 1` of a word, as an `n`-bit field. -/
def fieldAt (w : Word) (lo n : Nat) : BitVec n := BitVec.extractLsb' lo n w

/-- The clause header (R34). -/
structure Header where
  count : BitVec 4
  cls   : BitVec 2
  wait  : BitVec 3
  thr   : BitVec 4
  deriving DecidableEq, Repr

/-- Reads a header word, or says why it is none (R34, R36). -/
def decodeHeader (w : Word) : Except DecodeError Header :=
  let h : Header := ⟨fieldAt w 24 4, fieldAt w 22 2, fieldAt w 19 3, fieldAt w 15 4⟩
  if fieldAt w 28 4 != 0xF then .error .notHeader
  else if h.count == 0 then .error .headerCount
  else if 4 ≤ h.wait.toNat then .error .headerWait
  else if h.wait == 0 && h.thr != 0 then .error .headerThr
  else if fieldAt w 0 15 != 0 then .error .headerReserved
  else .ok h

/-- The instruction an R or R+C opcode, its operands and its sel field stand for; none where the
sel field, or BRS's condition, is not defined (R39, R107). -/
def rBuild (op : Nat) (o : ROps) (sel : BitVec 25) : Option Instr :=
  let n := sel.toNat
  let dz : ROps := { o with d := 0 }
  let zsel (i : Instr) : Option Instr := if sel == 0 then some i else none
  match op with
  | 0x01 => zsel (.brx o)
  | 0x02 => (Cond.ofCode o.d.toNat).bind fun cc => zsel (.brs cc dz)
  | 0x06 => zsel (.join o)
  | 0x08 => zsel (.ret o)
  | 0x09 => zsel (.exit o)
  | 0x0A => zsel (.nop o)
  | 0x0B => zsel (.sleep o)
  | 0x0C => zsel (.yield o)
  | 0x10 => zsel (.sadd o)
  | 0x11 => zsel (.ssub o)
  | 0x12 => zsel (.smul o)
  | 0x13 => zsel (.smulh o)
  | 0x14 => zsel (.smulhU o)
  | 0x15 => zsel (.sdiv o)
  | 0x16 => zsel (.sdivU o)
  | 0x17 => zsel (.srem o)
  | 0x18 => zsel (.sremU o)
  | 0x19 => zsel (.sand o)
  | 0x1A => zsel (.sor o)
  | 0x1B => zsel (.sxor o)
  | 0x1C => zsel (.sshl o)
  | 0x1D => zsel (.sshr o)
  | 0x1E => zsel (.ssra o)
  | 0x1F => zsel (.smin o)
  | 0x20 => zsel (.sminU o)
  | 0x21 => zsel (.smax o)
  | 0x22 => zsel (.smaxU o)
  | 0x23 => if n < 16 then (Cond.ofCode (n % 8)).map fun cc => .scmp cc (decide (8 ≤ n)) o else none
  | 0x24 => (Cond.ofCode n).map fun cc => .ssel cc o
  | 0x25 => zsel (.smov o)
  | 0x26 => zsel (.slit o)
  | 0x27 => zsel (.shi o)
  | 0x28 => zsel (.sclz o)
  | 0x29 => zsel (.spopc o)
  | 0x30 => zsel (.vaddVv o)
  | 0x31 => zsel (.vaddVs o)
  | 0x32 => zsel (.vsubVv o)
  | 0x33 => zsel (.vsubVs o)
  | 0x34 => zsel (.vmulVv o)
  | 0x35 => zsel (.vmulVs o)
  | 0x36 => zsel (.vmulhVv o)
  | 0x37 => zsel (.vmulhVs o)
  | 0x38 => zsel (.vmulhUVv o)
  | 0x39 => zsel (.vmulhUVs o)
  | 0x3A => zsel (.vmadVv o)
  | 0x3B => zsel (.vmadVs o)
  | 0x3C => zsel (.vandVv o)
  | 0x3D => zsel (.vandVs o)
  | 0x3E => zsel (.vorVv o)
  | 0x3F => zsel (.vorVs o)
  | 0x40 => zsel (.vxorVv o)
  | 0x41 => zsel (.vxorVs o)
  | 0x42 => zsel (.vshlVv o)
  | 0x43 => zsel (.vshlVs o)
  | 0x44 => zsel (.vshrVv o)
  | 0x45 => zsel (.vshrVs o)
  | 0x46 => zsel (.vsraVv o)
  | 0x47 => zsel (.vsraVs o)
  | 0x48 => zsel (.vminVv o)
  | 0x49 => zsel (.vminVs o)
  | 0x4A => zsel (.vminUVv o)
  | 0x4B => zsel (.vminUVs o)
  | 0x4C => zsel (.vmaxVv o)
  | 0x4D => zsel (.vmaxVs o)
  | 0x4E => zsel (.vmaxUVv o)
  | 0x4F => zsel (.vmaxUVs o)
  | 0x50 => zsel (.vabsdVv o)
  | 0x51 => zsel (.vabsdVs o)
  | 0x52 => zsel (.vabsdUVv o)
  | 0x53 => zsel (.vabsdUVs o)
  | 0x54 => if n < 16 then (Cond.ofCode (n % 8)).map fun cc => .vcmpVv cc (decide (8 ≤ n)) o else none
  | 0x55 => if n < 16 then (Cond.ofCode (n % 8)).map fun cc => .vcmpVs cc (decide (8 ≤ n)) o else none
  | 0x56 => zsel (.vselVv o)
  | 0x57 => zsel (.vselVs o)
  | 0x58 => zsel (.vnot o)
  | 0x59 => zsel (.vclz o)
  | 0x5A => zsel (.vpopc o)
  | 0x5B => zsel (.vmov o)
  | 0x5C => zsel (.vbcast o)
  | 0x5D => zsel (.vlid o)
  | 0x5E => (IConv.ofCode n).map fun cv => .vcvti cv o
  | 0x60 => zsel (.faddVv o)
  | 0x61 => zsel (.faddVs o)
  | 0x62 => zsel (.fsubVv o)
  | 0x63 => zsel (.fsubVs o)
  | 0x64 => zsel (.fmulVv o)
  | 0x65 => zsel (.fmulVs o)
  | 0x66 => zsel (.ffmaVv o)
  | 0x67 => zsel (.ffmaVs o)
  | 0x68 => zsel (.fminVv o)
  | 0x69 => zsel (.fminVs o)
  | 0x6A => zsel (.fmaxVv o)
  | 0x6B => zsel (.fmaxVs o)
  | 0x6C => (FCond.ofCode n).map fun cc => .fcmpVv cc o
  | 0x6D => (FCond.ofCode n).map fun cc => .fcmpVs cc o
  | 0x6E => zsel (.fdivVv o)
  | 0x6F => zsel (.fdivVs o)
  | 0x70 => zsel (.frcp o)
  | 0x71 => zsel (.frsq o)
  | 0x72 => zsel (.fsqrt o)
  | 0x73 => zsel (.fexp2 o)
  | 0x74 => zsel (.flog2 o)
  | 0x75 => zsel (.frnd o)
  | 0x76 => (FConv.ofCode n).map fun cv => .fcvt cv o
  | 0x78 => zsel (.hadd2Vv o)
  | 0x79 => zsel (.hadd2Vs o)
  | 0x7A => zsel (.hmul2Vv o)
  | 0x7B => zsel (.hmul2Vs o)
  | 0x7C => zsel (.hfma2Vv o)
  | 0x7D => zsel (.hfma2Vs o)
  | 0x7E => zsel (.hmin2Vv o)
  | 0x7F => zsel (.hmin2Vs o)
  | 0x80 => zsel (.hmax2Vv o)
  | 0x81 => zsel (.hmax2Vs o)
  | 0x82 => (HConv.ofCode n).map fun cv => .hcvt2 cv o
  | 0x90 => zsel (.xshf o)
  | 0x91 => zsel (.xbrd o)
  | 0x92 => zsel (.xxor o)
  | 0x93 => zsel (.xup o)
  | 0x94 => zsel (.xdn o)
  | 0x95 => (RedOp.ofCode n).map fun op => .xred op o
  | 0x96 => if n < 32 then (RedOp.ofCode (n % 16)).map fun op => .xscan op (decide (16 ≤ n)) o else none
  | 0x97 => (Vote.ofCode n).map fun vt => .xvote vt o
  | 0x98 => zsel (.pand o)
  | 0x99 => zsel (.por o)
  | 0x9A => zsel (.pxor o)
  | 0x9B => zsel (.pnot o)
  | 0x9C => zsel (.pfrom o)
  | 0x9D => zsel (.pto o)
  | 0x9E => zsel (.pcnt o)
  | 0xC0 => (RType.ofCode n).map fun ty => .claim ty o
  | 0xC1 => (RType.ofCode n).map fun ty => .acq ty o
  | 0xC2 => (RType.ofCode n).map fun ty => .acqTry ty o
  | 0xC3 => (RType.ofCode n).map fun ty => .rel ty o
  | 0xC4 => (RType.ofCode (n % 4)).bind fun ty => (RItem.ofCode (n / 4)).map fun it => .rstat ty it o
  | 0xC8 => (CopyOp.ofCode (n / 16)).map fun op => .copy op (BitVec.ofNat 4 n) o
  | 0xC9 => if n < 65536 then some (.qfence (BitVec.ofNat 16 n) o) else none
  | 0xCA => if n < 65536 then some (.cpoll (BitVec.ofNat 16 n) o) else none
  | 0xCB => zsel (.sleept o)
  | 0xD1 => zsel (.mbatch o)
  | 0xD2 => zsel (.mwait o)
  | 0xD8 => zsel (.vquant o)
  | 0xD9 => if n < 32 then some (.vdeq (BitVec.ofNat 3 n) (decide (8 ≤ n % 16)) (decide (16 ≤ n)) o) else none
  | 0xE0 => zsel (.wpop o)
  | 0xE1 => zsel (.enq o)
  | 0xE2 => if n < 64 then (SigOp.ofCode (n % 4)).bind fun op => (Scope.ofCode (n / 4 % 8)).map fun sc =>
      .sigop op sc (decide (32 ≤ n)) o else none
  | 0xE3 => (SigCond.ofCode (n % 4)).bind fun cd => (Scope.ofCode (n / 4)).map fun sc => .sigwait cd sc o
  | 0xE8 => zsel (.trap o)
  | 0xE9 => zsel (.tret o)
  | 0xEA => zsel (.brk o)
  | 0xEB => zsel (.ppt o)
  | 0xEC => zsel (.rdsr o)
  | 0xED => zsel (.wrsr o)
  | 0xEE => zsel (.trmark o)
  | 0xEF => (BistClass.ofCode n).map fun cls => .bist cls o
  | _ => none

/-- The instruction a format-M opcode and its operands stand for (R54). -/
def mBuild (op : Nat) (o : MOps) : Option Instr :=
  match op with
  | 0xA0 => some (.ld o)
  | 0xA1 => some (.st o)
  | 0xA2 => some (.lds o)
  | 0xA3 => some (.sts o)
  | 0xA4 => some (.ldu o)
  | 0xA5 => some (.ldm o)
  | 0xA6 => some (.stm o)
  | 0xA7 => some (.prf o)
  | 0xA8 => some (.hqry o)
  | 0xA9 => some (.aop o)
  | 0xAA => some (.acas o)
  | 0xAB => some (.saop o)
  | 0xAC => some (.sacas o)
  | 0xAD => some (.ahist o)
  | 0xAE => some (.csnap o)
  | 0xB0 => some (.fence o)
  | 0xB1 => some (.synca o)
  | 0xB2 => some (.syncr o)
  | 0xB3 => some (.sack o)
  | 0xB4 => some (.bara o)
  | 0xB5 => some (.barw o)
  | 0xB6 => some (.dcf o)
  | _ => none

/-- The instruction a format-B opcode and its operands stand for (R49). -/
def bBuild (op : Nat) (o : BOps) : Option Instr :=
  match op with
  | 0x00 => some (.bra o)
  | 0x03 => some (.ball o)
  | 0x04 => some (.bany o)
  | 0x05 => some (.brv o)
  | 0x07 => some (.call o)
  | _ => none

/-- The instruction a format-A opcode and its operands stand for (R55). -/
def aBuild (op : Nat) (o : AOps) : Option Instr :=
  match op with
  | 0xD0 => some (.mma o)
  | 0xD6 => some (.copym o)
  | 0xD3 => some (.mld o)
  | 0xD4 => some (.mst o)
  | 0xD5 => some (.mzero o)
  | _ => none

/-- The modifier word (R41). -/
def decodeMod (w : Word) : Except DecodeError ModWord :=
  match RMode.ofCode (fieldAt w 30 2).toNat, Rnd.ofCode (fieldAt w 16 3).toNat with
  | some rm, some rnd =>
    if fieldAt w 0 16 != 0 then .error .modField
    else .ok ⟨rm, w.getLsbD 29, w.getLsbD 28, w.getLsbD 27, w.getLsbD 26, w.getLsbD 25,
      w.getLsbD 24, fieldAt w 19 5, rnd⟩
  | _, _ => .error .modField

/-- Takes the next word when the flag asks for one (R42). -/
def takeWord (due : Bool) : List Word → Except DecodeError (Option Word × List Word)
  | [] => if due then .error .truncated else .ok (none, [])
  | w :: t => if due then .ok (some w, t) else .ok (none, w :: t)

/-- Whether word 0 of a format-R instruction asks for a literal word (R38, R42). -/
def litDue (f : RInfo) (w : Word) : Bool :=
  (f.kb == .sl || f.kb == .lit) && fieldAt w 6 6 == 63

/-- The operands of a format-R instruction from word 0 and the words R42 puts after it. -/
def rOps (w : Word) (cw lw : Option Word) (md : Option ModWord) : ROps :=
  { d := fieldAt w 18 6, a := fieldAt w 12 6,
    b := match lw with
      | some l => .lit l
      | none => .reg (fieldAt w 6 6),
    c := match cw with
      | some x => fieldAt x 26 6
      | none => 0,
    la := w.getLsbD 5, lb := w.getLsbD 4,
    lc := match cw with
      | some x => x.getLsbD 25
      | none => false,
    g := fieldAt w 1 3, md := md }

/-- Answers an instruction only when R58 step 3 finds no illegal field. -/
def checked (i : Option Instr) (rest : List Word) : Except DecodeError (Instr × List Word) :=
  match i with
  | none => .error .selUndefined
  | some i =>
    match illegal i with
    | none => .ok (i, rest)
    | some e => .error e

/-- Format R and R+C (R38, R39, R42). -/
def decodeR (f : RInfo) (w : Word) (t : List Word) : Except DecodeError (Instr × List Word) := do
  let (cw, t) ← takeWord f.hasC t
  let (lw, t) ← takeWord (litDue f w) t
  let (mw, t) ← takeWord (w.getLsbD 0) t
  let md ← match mw with
    | none => .ok none
    | some x => (decodeMod x).map some
  let sel : BitVec 25 := match cw with
    | some x => fieldAt x 0 25
    | none => 0
  checked (rBuild (fieldAt w 24 8).toNat (rOps w cw lw md) sel) t

/-- Format M (R43). -/
def decodeM (w : Word) : List Word → Except DecodeError (Instr × List Word)
  | [] => .error .truncated
  | u :: t =>
    if w.getLsbD 0 then .error .mBit
    else match MemSize.ofCode (fieldAt u 13 3).toNat with
      | none => .error .badSize
      | some size => match Scope.ofCode (fieldAt u 10 3).toNat with
        | none => .error .badScope
        | some scope =>
          match MemOrd.ofCode (fieldAt u 8 2).toNat, MemHint.ofCode (fieldAt u 6 2).toNat with
          | some ord, some hint =>
            checked (mBuild (fieldAt w 24 8).toNat
              { d := fieldAt w 18 6, a := fieldAt w 12 6, h := fieldAt w 4 8, g := fieldAt w 1 3,
                disp := fieldAt u 16 16, size := size, scope := scope, ord := ord, hint := hint,
                ld := u.getLsbD 5, la := u.getLsbD 4, x := fieldAt u 0 4 }) t
          | _, _ => .error .badOrder

/-- Format B (R44). -/
def decodeB (w : Word) (t : List Word) : Except DecodeError (Instr × List Word) :=
  checked (bBuild (fieldAt w 24 8).toNat
    { g := fieldAt w 21 3, n := w.getLsbD 20, off := fieldAt w 0 20 }) t

/-- Format A (R45). -/
def decodeA (w : Word) : List Word → Except DecodeError (Instr × List Word)
  | [] => .error .truncated
  | u :: t =>
    if w.getLsbD 0 then .error .mBit
    else if fieldAt u 0 12 != 0 then .error .unusedField
    else checked (aBuild (fieldAt w 24 8).toNat
      { vi := fieldAt w 18 6, sa := fieldAt w 12 6, ha := fieldAt w 4 8, g := fieldAt w 1 3,
        acc := fieldAt u 26 6, bt := fieldAt u 19 7, km1 := fieldAt u 16 3, ctr := u.getLsbD 15,
        z := u.getLsbD 14, lv := u.getLsbD 13, ls := u.getLsbD 12 }) t

/-- The format of an opcode (R49 to R56). -/
inductive OpFormat where
  | r (f : RInfo) | m | b | a | header | unassigned
  deriving DecidableEq, Repr

/-- The format the opcode map gives an opcode (R49 to R57). -/
def opFormat (op : BitVec 8) : OpFormat :=
  let n := op.toNat
  if 0xF0 ≤ n then .header
  else match rInfo n with
    | some f => .r f
    | none =>
      if (mInfo n).isSome then .m
      else if n == 0x00 || n == 0x03 || n == 0x04 || n == 0x05 || n == 0x07 then .b
      else if n == 0xD0 || n == 0xD3 || n == 0xD4 || n == 0xD5 || n == 0xD6 then .a
      else .unassigned

/-- How many words the instruction has whose word 0 is `w`; 1 where the opcode is no instruction
(R42 to R45). -/
def wordsOf (w : Word) : Nat :=
  match opFormat (fieldAt w 24 8) with
  | .r f => 1 + f.hasC.toNat + (litDue f w).toNat + (w.getLsbD 0).toNat
  | .m | .a => 2
  | .b | .header | .unassigned => 1

/-- Reads one instruction from a list of words: the instruction and the words after it, or why
there is none, by R58 steps 1 to 3 in that order. -/
def decodeWords : List Word → Except DecodeError (Instr × List Word)
  | [] => .error .truncated
  | w :: t =>
    match opFormat (fieldAt w 24 8) with
    | .header => .error .headerAsInstr
    | .unassigned => .error .unassigned
    | .r f => decodeR f w t
    | .m => decodeM w t
    | .b => decodeB w t
    | .a => decodeA w t

/-- The little-endian 32-bit words of a byte list; a last part of fewer than four bytes is dropped
(R3, R34). -/
def wordsOfBytes : List Byte → List Word
  | b0 :: b1 :: b2 :: b3 :: t => (b3 ++ b2 ++ b1 ++ b0 : BitVec 32) :: wordsOfBytes t
  | _ => []

/-- Reads one instruction from bytes: total on any bytes. -/
def decode (bs : List Byte) : Except DecodeError (Instr × List Word) :=
  decodeWords (wordsOfBytes bs)

/-- The four bytes of a word, as stored (R3, R34). -/
def bytesOfWord (w : Word) : List Byte :=
  [fieldAt w 0 8, fieldAt w 8 8, fieldAt w 16 8, fieldAt w 24 8]

/-- The bytes of instruction number `w` of `nbits` bits as the opcode table numbers them, with
zero bytes after it up to the longest instruction, four words. -/
def tableBytes (nbits w : Nat) : List Byte :=
  (List.range 16).map fun k =>
    if 8 * k < nbits then BitVec.ofNat 8 (w / 2 ^ (8 * k)) else 0

/-- The instruction the decoder reads from an instruction whose bits are `w`, numbered as the
opcode table numbers them. -/
def decodeTableWord (nbits w : Nat) : Option Instr :=
  match decode (tableBytes nbits w) with
  | .ok (i, _) => some i
  | .error _ => none

/-- The modifier word of a modifier (R41). -/
def encodeMod (m : ModWord) : Word :=
  BitVec.ofNat 2 m.rm.code ++ BitVec.ofBool m.na ++ BitVec.ofBool m.aa ++ BitVec.ofBool m.nb ++
  BitVec.ofBool m.ab ++ BitVec.ofBool m.nc ++ BitVec.ofBool m.ac ++ m.k ++
  BitVec.ofNat 3 m.rnd.code ++ (0 : BitVec 16)

/-- The words of an instruction, from the same tables (R38 to R45); an event has none. -/
def encode (i : Instr) : List Word :=
  match form i with
  | .r op o dc sel =>
    let b : BitVec 6 := match o.b with
      | .reg r => r
      | .lit _ => 63
    let w0 : Word := op ++ dc ++ o.a ++ b ++ BitVec.ofBool o.la ++ BitVec.ofBool o.lb ++ o.g ++
      BitVec.ofBool o.md.isSome
    let hasC := match rInfo op.toNat with
      | some f => f.hasC
      | none => false
    w0 :: ((if hasC then [(o.c ++ BitVec.ofBool o.lc ++ sel : BitVec 32)] else []) ++
      (match o.b with
       | .reg _ => []
       | .lit l => [l]) ++
      (match o.md with
       | none => []
       | some m => [encodeMod m]))
  | .m op o =>
    [ (op ++ o.d ++ o.a ++ o.h ++ o.g ++ (0 : BitVec 1) : BitVec 32),
      (o.disp ++ BitVec.ofNat 3 o.size.code ++ BitVec.ofNat 3 o.scope.code ++
       BitVec.ofNat 2 o.ord.code ++ BitVec.ofNat 2 o.hint.code ++ BitVec.ofBool o.ld ++
       BitVec.ofBool o.la ++ o.x : BitVec 32) ]
  | .b op o => [(op ++ o.g ++ BitVec.ofBool o.n ++ o.off : BitVec 32)]
  | .a op o =>
    [ (op ++ o.vi ++ o.sa ++ o.ha ++ o.g ++ (0 : BitVec 1) : BitVec 32),
      (o.acc ++ o.bt ++ o.km1 ++ BitVec.ofBool o.ctr ++ BitVec.ofBool o.z ++ BitVec.ofBool o.lv ++
       BitVec.ofBool o.ls ++ (0 : BitVec 12) : BitVec 32) ]
  | .event => []

end Sys2Proof
end

