-- ==== Sys2Proof/Machine/Observe.lean ====
section
/-!
DEFINITION. What a group's observation of completed copies and batches invalidates (R223, R238).
The model's own choices here: DEDUCED, log 27.
-/
namespace Sys2Proof.Machine

/-- Whether a line lies in `n` bytes of an endpoint of a block on a die (R219, R223). -/
def Endpoint.covers (x : Endpoint) (die : BitVec 2) (vd : BitVec 8) (n : Nat) (k : LineKey) : Bool :=
  let a := (x.handle.base.toNat + x.off) % 2 ^ 56
  let near (la : Nat) : Bool := la < a + n && a < la + 128
  match k, x.handle.space.toNat with
  | .mem home v la, 6 => home == die && v == vd && near la.toNat
  | .mem _ v la, 0 | .mem _ v la, 4 | .mem _ v la, 5 => v == vd && near la.toNat
  | .host v la, 8 => v == vd && near la.toNat
  | _, _ => false

/-- The acquire of a completion: the range's lines leave the group's L1, but for the bytes R174 keeps, and
its die's RDC (R223). -/
def State.acquireRange (s : State) (b : Block) (x : Endpoint) (n : Nat) : State :=
  let die := dieOf b.core
  { s.dropL1 b.core (fun y => x.covers die b.vd n y.key) with
    rdc := s.rdc.filter fun y => !(y.die == die && x.covers die b.vd n y.key) }

/-- The group observes the picked completions of its copies (R223, R286). -/
def State.observeDone (s : State) (b : Block) (g : Group) (pick : DoneCopy → Bool) : Group × State :=
  ({ g with done := g.done.filter fun d => !pick d },
   (g.done.filter pick).foldl (fun s d => s.acquireRange b d.dst d.len) s)

/-- Bytes of an accumulator tile (R233). -/
def accBytes : Nat := 8192

/-- The group observes its complete batches: the lines of their MST destinations go; tile memory is
cached nowhere (R238). The device may invalidate more: those of complete MSTs outside these
batches. -/
def State.observeBatches (s : State) (b : Block) (g : Group) : Group × State :=
  ({ g with mst := [] }, g.mst.foldl (fun s x => s.acquireRange b x accBytes) s)

/-- What a satisfied clause wait observes (R35, R223, R238). -/
def State.observeWait (s : State) (b : Block) (g : Group) (w : BitVec 3) : Group × State :=
  match w.toNat with
  | 1 => s.observeBatches b g
  | 2 => s.observeDone b g fun _ => true
  | _ => (g, s)

end Sys2Proof.Machine
end

