-- ==== Sys2Proof/Machine/Fetch.lean ====
section
/-!
DEFINITION. Fetching and decoding a path's oldest instruction: the clause header, the instruction's
place in its clause, its words (R34 to R36, R42, R58, R105, R353).
The model's own choices here: DESIGN CHOICE, log 23; DEDUCED, log 27.
-/
namespace Sys2Proof.Machine

/-- What running a path comes to: nothing to execute now, or one instruction or event to execute in
the given state. -/
inductive Fetched where
  | idle (s : State)
  | run (s : State) (i : Instr)
  deriving DecidableEq, Repr

/-- Words of code, or why they are not there. -/
inductive CodeOut where
  | ok (ws : List Word)
  | cause (c : BitVec 8)
  | wait
  deriving DecidableEq, Repr

/-- The word at an address in a line's bytes. -/
def wordIn (bs : List Byte) (a : Va) : Word :=
  BitVec.ofNat 32 (natOfBytes ((bs.drop (a.toNat % 128)).take 4))

/-- One word of code through its line's home or the RDC (R105, R259, R270). -/
def State.codeWord (s : State) (st : Site) (p : Path) (a : Va) : CodeOut × Path × State :=
  let k := LineKey.mem (s.homeOf st.vd a) st.vd (lineOf a)
  match s.confirm st p 0 .fetch k with
  | (.ok bs _, p, s) => (.ok [wordIn bs a], p, s)
  | (.cause c, p, s) => (.cause c, p, s)
  | (.wait, p, s) => (.wait, p, s)

/-- `n` words of code from an address on. -/
def State.codeWords (s : State) (st : Site) (p : Path) (a : Va) : Nat → CodeOut × Path × State
  | 0 => (.ok [], p, s)
  | n + 1 =>
    match s.codeWord st p a with
    | (.ok w, p, s) =>
      match State.codeWords s st p (a + 4) n with
      | (.ok ws, p, s) => (.ok (w ++ ws), p, s)
      | r => r
    | r => r

/-- Where in its clause the word at `pc` lies: instruction `k`, none when `pc` is on no instruction
of the clause. `a` is the address of instruction `k`, `n` the instructions left. -/
def State.clauseIndex (s : State) (st : Site) (p : Path) (pc a : Va) (k : Nat) :
    Nat → Option (Option Nat) × Path × State
  | 0 => (some none, p, s)
  | n + 1 =>
    if a = pc then (some (some k), p, s)
    else
      match s.codeWord st p a with
      | (.ok [w], p, s) => State.clauseIndex s st p pc (a + BitVec.ofNat 56 (4 * wordsOf w)) (k + 1) n
      | (_, p, s) => (none, p, s)

/-- The counter a clause header waits on (R35). -/
def Group.waitCounter (g : Group) (w : BitVec 3) : Nat :=
  match w.toNat with
  | 1 => g.batches.length
  | 2 => g.copies.length
  | 3 => g.cnt.sys.toNat
  | _ => 0

/-- Whether the clause wait is over: a counter above 15 satisfies no threshold (R35). -/
def Group.clauseReady (g : Group) (h : Header) : Bool :=
  let n := g.waitCounter h.wait
  h.wait == 0 || (n ≤ 15 && n ≤ h.thr.toNat)

/-- The stall reason of a clause wait (R35). -/
def waitReason (w : BitVec 3) : Nat :=
  match w.toNat with
  | 1 => 11
  | 2 => 10
  | _ => 12

/-- Whether a path's wait is one that running the path can end; a request at the Reeve sleeps until it has its
answer (R208). -/
def Path.awake (p : Path) : Bool :=
  match p.wait with
  | none => true
  | some w =>
    match w.kind with
    | .grant _ _ => p.granted.isSome
    | .split | .retry | .wpop _ _ | .parked _ => true
    | .sleep _ _ | .sleept _ _ | .dcf _ | .clause | .backoff _ | .fetch _ | .rel _ _ _ => false

/-- Whether the block lets a path retire: not while the debugger holds it, but for the path that
steps, until it has retired or trapped (R351, R354). -/
def Block.lets (b : Block) (r : PathRef) (p : Path) : Bool :=
  b.phase == .resident && !b.dbgReq && (!b.dbg || (match b.stepReq with
    | some x => x.1.grp == r.grp && p.step == .due
    | none => false))

/-- Whether a breakpoint of the virtual device matches an address (R353). -/
def State.breakAt (s : State) (vd : BitVec 8) (pc : Va) : Bool :=
  (List.range 4).any fun n =>
    let r := s.reg (kenzuKey vd (0x80 + 8 * n))
    r.getLsbD 63 && (r.extractLsb' 2 54) == pc.extractLsb' 2 54

/-- The words at the path's pc, decoded under the clause's class and placement rules: what is to be
executed, as instruction `k` of the clause (R36, R37, R58). -/
def State.fetchInstr (s : State) (st : Site) (g : Group) (p : Path) (h : Header) (k : Nat) : Fetched :=
  let put (s : State) (p : Path) : State := s.setGroup (g.setPath st.path.slot (some p))
  match s.codeWord st p p.pc with
  | (.ok [w], p, s) =>
    match s.codeWords st p p.pc (wordsOf w) with
    | (.ok ws, p, s) =>
      let bad (c : BitVec 8) : Fetched := .run (put s p) (.illegalInstructionWord st.path p.pc c)
      match decodeWords ws with
      | .error e => bad e.cause
      | .ok (i, _) =>
        let last := k + 1 == h.count.toNat
        let op := (opcodeOf i).getD 0
        if !classAdmits h.cls op || (mustClose op && !last) || (op == 0x06 && k != 0) then bad 0x01
        else
          let c : Cur := ⟨st.path, p.pc + BitVec.ofNat 56 (4 * ws.length), last⟩
          .run { put s p with cur := some c } i
    | (.cause _, p, s) => .run (put s p) (.fetchFault st.path)
    | (.wait, p, s) => .idle (put s p)
  | (.wait, p, s) => .idle (put s p)
  | (_, p, s) => .run (put s p) (.fetchFault st.path)

/-- Whether a path's oldest instruction has not issued: the path does not wait and has dispatched nothing, or its
parked instruction has its answers and executes again (R35, R176). -/
def Group.unissued (g : Group) (p : Path) : Bool :=
  match p.wait with
  | none => p.liveRob.isEmpty
  | some w =>
    match w.kind with
    | .parked e => match g.replay.find? fun r => r.idx == e with
      | some r => r.tags.all fun t => t.answer == some true
      | none => true
    | _ => false

/-- A path whose clause's first instruction is held back by the clause wait (R35). -/
def Path.clauseWait (p : Path) (w : BitVec 3) (now : Nat) : Path :=
  { p with wait := some (match p.wait with
    | some x => { x with reason := waitReason w }
    | none => ⟨.clause, waitReason w, now, p.hdr, false⟩) }

/-- The header of the path's clause, then its instruction (R34 to R36). The clause's wait is tested when the
first instruction is to issue, after a return to it, its restore and its replay too (R35). -/
def State.fetchClause (s : State) (st : Site) (b : Block) (g : Group) (p : Path) : Fetched :=
  let put (s : State) (p : Path) : State := s.setGroup (g.setPath st.path.slot (some p))
  match s.codeWord st p p.hdr with
  | (.ok [w], p, s) =>
    match decodeHeader w with
    | .error _ => .run (put s p) (.illegalInstructionWord st.path p.hdr 0x01)
    | .ok h =>
      if p.pc = p.hdr || (p.pc = p.hdr + 4 && g.unissued p) then
        if g.clauseReady h then
          let x := s.observeWait b g h.wait
          x.2.fetchInstr st x.1 { p with pc := p.hdr + 4 } h 0
        else .idle (put s (p.clauseWait h.wait s.timebase.toNat))
      else
        match s.clauseIndex st p p.pc (p.hdr + 4) 0 h.count.toNat with
        | (some (some k), p, s) => s.fetchInstr st g p h k
        | (some none, p, s) => .run (put s p) (.illegalInstructionWord st.path p.pc 0x01)
        | (none, p, s) => .run (put s p) (.fetchFault st.path)
  | (.wait, p, s) => .idle (put s p)
  | (_, p, s) => .run (put s p) (.fetchFault st.path)

/-- Whether a path runs the default handler of cause 0x40 (R227). -/
def Path.inDefault (p : Path) : Bool := p.handler.any fun h => h.dflt.isSome

/-- The default handler of a path returns once the copies it waits for are complete, its block letting the
path retire (R156, R227, R351, R354). -/
def State.dfltReturn (s : State) (grp : Nat) (slot : Bool) : State :=
  match s.group? grp with
  | none => s
  | some g =>
    match g.path slot, s.block? g.blk with
    | some p, some b =>
      (match p.handler with
      | none => s
      | some h =>
        if h.dflt == some [] && g.phase == .running && b.lets ⟨grp, slot⟩ p then
          match trapReturn s ⟨⟨grp, slot⟩, 0, false⟩ g p h.rest p.mask with
          | .next s => s
          | _ => s
        else s)
    | _, _ => s

/-- Whether a path's next instruction meets a breakpoint now (R353). -/
def State.breaksAt (s : State) (b : Block) (p : Path) : Bool :=
  !p.bpSkip && !p.inDefault && s.breakAt b.vd (if p.pc = p.hdr then p.hdr + 4 else p.pc)

/-- The instruction of a path that has its answer from the Reeve, which is not read again (R204, R208). -/
def Path.answered (p : Path) (r : PathRef) : Option (Cur × Instr) :=
  match p.wait with
  | some ⟨.grant _ i, _, _, next, last⟩ => if p.granted.isSome then some (⟨r, next, last⟩, i) else none
  | _ => none

/-- Running a path: nothing while it is held; at a breakpoint the stop, be it a waiting instruction's; nothing
while it waits or has to leave its next instruction unfetched; else its oldest instruction; a handler restored
without its permit takes one first, a default one too (R98, R154, R208, R353). -/
def fetch (s : State) (r : PathRef) : Fetched :=
  match s.group? r.grp with
  | none => .idle s
  | some g =>
    match g.path r.slot, s.block? g.blk with
    | some p, some b =>
      if g.phase != .running || !b.lets r p then .idle s
      else if s.breaksAt b p then .run s (.breakpointStop r)
      else if !p.awake || g.stopsFetching r.slot p then .idle s
      else
        match p.answered r with
        | some x => .run { s with cur := some x.1 } x.2
        | none =>
          match p.handler with
          | none => s.fetchClause ⟨b.core, b.vd, r⟩ b g p
          | some h =>
            let k := s.core b.core
            let go (s : State) (g : Group) (p : Path) : Fetched :=
              if h.dflt.isSome then .idle (s.dfltReturn r.grp r.slot)
              else s.fetchClause ⟨b.core, b.vd, r⟩ b g p
            if h.permit then go s g p
            else if k.permitFor r then
              let p' := { p with handler := some { h with permit := true } }
              let g' := g.setPath r.slot (some p')
              go ((s.setCore (k.takePermit r)).setGroup g') g' p'
            else .idle s
    | _, _ => .idle s

end Sys2Proof.Machine
end

