-- ==== Sys2Proof/Machine/Pipe.lean ====
section
/-!
DEFINITION. What the pipes of a core see of an instruction: its port, the registers it reads and writes, what
it frees, its latency and its issue interval (R38, R43, R47, R148, R151, R396).
The model's own choices here: DESIGN CHOICE, log 18.
-/
namespace Sys2Proof.Machine

/-- The port an opcode needs (R151). -/
def portOf (op : Nat) : IssuePort :=
  let within (lo hi : Nat) : Bool := lo ≤ op && op ≤ hi
  if within 0x60 0x6D || op == 0x75 || op == 0x76 || within 0x78 0x82 then .fma
  else if op == 0x6E || op == 0x6F || within 0x70 0x74 || op == 0xD8 || op == 0xD9 then .special
  else if within 0x30 0x5E || within 0x90 0x9E then .intLogic
  else if within 0xA0 0xB6 || within 0xC8 0xCB then .memory
  else if within 0xD0 0xD6 then .matrix
  else .scalar

/-- The port an instruction needs. -/
def instrPort (i : Instr) : IssuePort :=
  match opcodeOf i with
  | some op => portOf op.toNat
  | none => .scalar

/-- The v-register an instruction reads in field a (R38, R43, R151). -/
def aReg (i : Instr) : Option Nat :=
  match form i with
  | .r op o _ _ => match rInfo op.toNat with
    | some f => if f.ka == .v then some o.a.toNat else none
    | none => none
  | .m op o => match mInfo op.toNat with
    | some f => if f.ka == .v then some o.a.toNat else none
    | none => none
  | .b _ _ | .a _ _ | .event => none

/-- The register a field names. -/
def refOf (k : Kind) (r : BitVec 6) : List RegRef :=
  match k with
  | .none => []
  | .v => [.v r.toNat]
  | .s => if r = 0 then [] else [.s r]
  | .p => if r = 0 then [] else [.p r]

/-- The register a destination field names. -/
def dstRefOf (k : DKind) (r : BitVec 6) : List RegRef :=
  match k with
  | .none | .cond => []
  | .v => refOf .v r
  | .s => refOf .s r
  | .p => refOf .p r

/-- The register field b names: an s* field of 63 is a literal. -/
def bRefOf (k : BKind) (b : BSrc) : List RegRef :=
  match k, b with
  | .v, .reg r => refOf .v r
  | .s, .reg r | .sl, .reg r => refOf .s r
  | .p, .reg r => refOf .p r
  | _, _ => []

/-- A conversion may read or write a register pair (R19): its partners count as named. -/
def withPartner (op : BitVec 8) (xs : List RegRef) : List RegRef :=
  if op == 0x5E || op == 0x76 || op == 0x82 then
    xs.flatMap fun x => match x with
      | .v r => [.v r, .v (r + 1)]
      | .s r => [.s r]
      | .p r => [.p r]
  else xs

/-- The registers from a memory instruction's field d on: one, those its size needs, a range, or an ACAS's or
SACAS's two values (R43, R180, R181, R186). -/
def dRange (op : BitVec 8) (k : Kind) (o : MOps) : List RegRef :=
  let n := if op == 0xA5 || op == 0xA6 then o.x.toNat + 1
    else if op == 0xAA then 2 * sizeRegs o.size
    else if op == 0xAC then 2
    else if k == .v then sizeRegs o.size
    else 1
  (List.range n).flatMap fun i => refOf k (o.d + BitVec.ofNat 6 i)

/-- Whether a memory instruction reads its field d, and whether it writes registers from there on (R178, R186,
R188, R278). -/
def readsD (op : BitVec 8) (f : MInfo) : Bool := f.ld || (0xA9 ≤ op.toNat && op.toNat ≤ 0xB6)

@[inherit_doc readsD]
def writesD (op : BitVec 8) (f : MInfo) : Bool := !f.ld && op != 0xAE && op != 0xB6

/-- The registers an instruction reads, its guard among them (R38, R43, R44, R46). -/
def srcsOf (i : Instr) : List RegRef :=
  match form i with
  | .r op o _ _ => match rInfo op.toNat with
    | some f => refOf .p (o.g.setWidth 6) ++
        withPartner op (refOf f.ka o.a ++ bRefOf f.kb o.b ++ refOf f.kc o.c)
    | none => []
  | .m op o => match mInfo op.toNat with
    | some f => refOf .p (o.g.setWidth 6) ++ refOf f.ka o.a ++ (if readsD op f then dRange op f.kd o else [])
    | none => []
  | .b _ o => refOf .p (o.g.setWidth 6)
  | .a op o => refOf .p (o.g.setWidth 6) ++ (if op == 0xD0 || op == 0xD6 then refOf .v o.vi else []) ++
      (if op == 0xD5 then [] else refOf .s o.sa)
  | .event => []

/-- The registers an arithmetic instruction writes (R38). -/
def dstsOf (i : Instr) : List RegRef :=
  match form i with
  | .r op _ dc _ => match rInfo op.toNat with
    | some f => withPartner op (dstRefOf f.kd dc)
    | none => []
  | .m _ _ | .b _ _ | .a _ _ | .event => []

/-- The registers an instruction writes that its pipe delivers only with its retirement: a memory instruction's, and
those of instructions that ask another unit (R97). -/
def lateDsts (i : Instr) : List RegRef :=
  match form i with
  | .m op o => match mInfo op.toNat with
    | some f => if writesD op f then dRange op f.kd o else []
    | none => []
  | .r op _ _ _ => if 0xC0 ≤ op.toNat then dstsOf i else []
  | .b _ _ | .a _ _ | .event => []

/-- Whether an instruction's retirement can free a physical register: it marks a v-register's last use, or
writes one, whose old version goes (R47, R94, R148). -/
def freesV (i : Instr) : Bool :=
  match form i with
  | .r op o _ _ => match rInfo op.toNat with
    | some f => f.kd == .v || (o.la && f.ka == .v) || (o.lb && f.kb == .v) || (o.lc && f.kc == .v)
    | none => false
  | .m op o => match mInfo op.toNat with
    | some f => (o.la && f.ka == .v) || (f.kd == .v && (o.ld || !f.ld))
    | none => false
  | .b _ _ | .a _ _ | .event => false

/-- The unloaded latency and the issue interval of an opcode, in core cycles; those of other chapters have
none here (R396). -/
def pipeTime (op : Nat) : Nat × Nat :=
  let within (lo hi : Nat) : Bool := lo ≤ op && op ≤ hi
  match portOf op with
  | .fma => (4, 1)
  | .special =>
    if op == 0x6E || op == 0x6F then (20, 8) else if op == 0xD8 || op == 0xD9 then (10, 4) else (12, 4)
  | .intLogic =>
    if op == 0x95 || op == 0x96 then (8, 2)
    else if within 0x34 0x3B || within 0x90 0x94 || op == 0x97 || op == 0x9E then (4, 1)
    else (2, 1)
  | .scalar =>
    if within 0x15 0x18 then (18, 18) else if within 0x12 0x14 then (3, 1)
    else if within 0x10 0x29 then (1, 1) else (0, 1)
  | .memory | .matrix => (0, 1)

/-- The latency and the interval of an instruction. -/
def instrTime (i : Instr) : Nat × Nat :=
  match opcodeOf i with
  | some op => pipeTime op.toNat
  | none => (0, 1)

/-- Whether an instruction reads a register that is not delivered by a cycle (R396). -/
def Path.awaits (p : Path) (i : Instr) (cycle : Nat) : Bool :=
  p.due.any fun x => cycle < x.2 && (srcsOf i).contains x.1

/-- Whether an instruction in the reorder buffer still owes a younger one a register it reads (R152). -/
def InFlight.owes (e : InFlight) (i : Instr) : Bool :=
  ((if e.done then lateDsts e.instr else dstsOf e.instr ++ lateDsts e.instr).any (srcsOf i).contains)

/-- Those of some entries of a path, oldest first behind `older`, whose instructions have not executed and may: their
operands are ready (R152, R396). -/
def Path.ready (p : Path) (cycle : Nat) (older : List InFlight) : List InFlight → List InFlight
  | [] => []
  | e :: t =>
    let rest := Path.ready p cycle (e :: older) t
    if !e.done && !p.awaits e.instr cycle && !older.any (fun o => o.owes e.instr) then e :: rest else rest

/-- The path has issued an instruction in a cycle: its results are due (R396). -/
def Path.issues (p : Path) (i : Instr) (cycle : Nat) : Path :=
  let l := (instrTime i).1
  { p with due := (p.due.filter fun x => cycle < x.2) ++
      (if l ≤ 1 then [] else (dstsOf i).map fun r => (r, cycle + l)) }

/-- Whether a unit of a port can start an instruction in a cycle (R396). -/
def Core.portFree (k : Core) (q : IssuePort) (cycle : Nat) : Bool :=
  !k.busy.any fun x => x.1 == q && cycle < x.2

/-- A unit has started an instruction (R396). -/
def Core.starts (k : Core) (i : Instr) (cycle : Nat) : Core :=
  let n := (instrTime i).2
  { k with busy := (k.busy.filter fun x => cycle < x.2) ++
      (if n ≤ 1 then [] else [(instrPort i, cycle + n)]) }

end Sys2Proof.Machine
end

