-- ==== Sys2Proof/Machine/Control.lean ====
section
/-!
DEFINITION. Control instructions and the events that move paths (R49, R88 to R92, R101, R104 to
R116).
The model's own choices here: DESIGN CHOICE, logs 6, 28, 31, 46, 48; DEDUCED, log 15.
-/
namespace Sys2Proof.Machine

/-- A format-B target: the word's own address plus four times the offset (R44, R104). -/
def targetB (p : Path) (o : BOps) : Int := branchTarget p o.off.toInt

/-- The lanes a format-B condition holds in (R108, R109). -/
def condB (g : Group) (p : Path) (o : BOps) : Word :=
  (if o.n then ~~~g.guard o.g else g.guard o.g) &&& p.mask

/-- A uniform branch of format B: taken or not as a whole (R106, R108). -/
def uniformBranch (o : BOps) (taken : Group → Path → Bool) (s : State) : Result :=
  withPath s fun c g p =>
    if taken g p then transfer s c g g p (targetB p o) else retire s c g p

/-- BRA (R108). -/
def execBra (o : BOps) (s : State) : Result := uniformBranch o (fun _ _ => true) s

/-- BALL (R108): taken when the condition holds in every lane of the path. -/
def execBall (o : BOps) (s : State) : Result :=
  uniformBranch o (fun g p => condB g p o == p.mask) s

/-- BANY (R108): taken when the condition holds in some lane of the path. -/
def execBany (o : BOps) (s : State) : Result :=
  uniformBranch o (fun g p => condB g p o != 0) s

/-- CALL (R112): s62 takes the next header's address. -/
def execCall (o : BOps) (s : State) : Result :=
  withPath s fun c g p =>
    transfer s c g (g.setSreg 62 (c.next.setWidth 64)) p (targetB p o)

/-- A transfer to the address in s_a (R104, R111). -/
def indirect (o : ROps) (s : State) : Result :=
  withPath s fun c g p =>
    transfer s c g (g.applyMarks c.p.slot p.mask (markOf o.la .s o.a)) p ((g.sreg o.a).toNat : Int)

/-- BRX (R111). -/
def execBrx (o : ROps) (s : State) : Result := indirect o s

/-- RET (R111); what a return is recorded as shows in no state of the manual's. -/
def execRet (o : ROps) (s : State) : Result := indirect o s

/-- BRS (R108): not taken when its guard leaves no lane; its mark takes effect at its retirement, taken or
not. -/
def execBrs (cc : Cond) (o : ROps) (s : State) : Result :=
  withPath s fun c g p =>
    let e := p.mask &&& g.guard o.g
    let gm := g.applyMarks c.p.slot p.mask (markOf o.la .s o.a)
    if e = 0 then retire s c gm p
    else if condHolds cc (g.sreg o.a).toInt 0 then
      transfer s c g gm p (branchTarget p (uniformB g o.b).toInt)
    else retire s c gm p

/-- NOP (R114). -/
def execNop (_ : ROps) (s : State) : Result := withPath s fun c g p => retire s c g p

/-- The other slot's path (R91). -/
def Group.sibling (g : Group) (slot : Bool) : Option Path := g.path (!slot)

/-- The slots and the stack after a third path arises: `tk` and `fl` are the halves, `q` the other
slot's path, `slot` the splitter's (R91, R95). -/
def Group.thirdPath (g : Group) (slot : Bool) (p tk fl q : Path) : Group :=
  let qVictim := !q.joining && tk.age < q.age
  if qVictim then
    let g := g.fold (if slot then p.lanes else q.lanes) true false
    { g with slot0 := some fl, slot1 := some tk, stack := q.pushed :: g.stack,
             spills := g.spills + 1 }.copyMap.freePhys
  else if slot then
    let g := g.fold tk.lanes true false
    { g with slot0 := some q, slot1 := some fl, stack := tk :: g.stack, spills := g.spills + 1 }
  else { g with slot0 := some fl, slot1 := some q, stack := tk :: g.stack, spills := g.spills + 1 }

/-- BRV (R89, R109): a split puts the taken half into slot 1, or spills one of three paths; the fall
half keeps what the path holds (log 15, DEDUCED). A target that is the BRV's own header, of which R109 says
that it must not be and no more, is run as any other (log 46, DESIGN CHOICE). -/
def execBrv (o : BOps) (s : State) : Result :=
  withPath s fun c g p =>
    let taken := condB g p o
    let fl := p.mask &&& ~~~taken
    let t := targetB p o
    if fl = 0 then transfer s c g g p t
    else if taken = 0 then retire s c g p
    else if !goodTarget t then fatal s c g p 0x01 p.mask 0
    else
      let pf := { p.advance c with mask := fl }
      let pt := { p.goto (BitVec.ofInt 56 t) with mask := taken, handler := none, backoff := 0,
                                                  starved := none, leaving := false }
      match g.sibling c.p.slot with
      | none =>
        .next (s.setGroup { g with slot0 := some pf, slot1 := some pt }.copyMap)
      | some q =>
        withBlock s g fun b gr =>
          if gr.desc.dstack ≤ g.stack.length then fatal s c g p 0x80 p.mask 0
          else if s.stackBusy b g.idx then stay s c g p .retry 3
          else
            let push := !q.joining && pt.age < q.age && !q.drained
            if push && !q.mustDrop p.age then stay s c g p .split 14
            else
              let x := if push then s.dropPath b g (!c.p.slot) q else (s, g)
              let g' := x.2.thirdPath c.p.slot p pt pf (if push then q.dropped else q)
              match x.1.stackImage b g.idx g'.stack with
              | none => fatal s c g p 0x20 p.mask 0
              | some s => .next (s.setGroup g')

/-- The handlers of two merged paths: the lanes that wait at the resume point wait together. -/
def mergeHandler (x y : Option Handler) : Option Handler :=
  match x, y with
  | some a, some b => some { a with rest := a.rest ||| b.rest, permit := a.permit || b.permit }
  | some a, none => some a
  | none, h => h

/-- Two paths waiting at one JOIN become one (R92). -/
def mergePath (p q : Path) : Path :=
  { p with mask := p.mask ||| q.mask, handler := mergeHandler p.handler q.handler }

/-- The place in the stack of a path waiting at the JOIN at `a`. -/
def Group.joinedAt (g : Group) (a : Va) : Option Nat :=
  (List.range g.stack.length).find? fun n =>
    match g.stack[n]? with
    | some q => q.joining && q.pc == a
    | none => false

/-- One merge of the path in `slot`, which waits at a JOIN, with another path that waits there, with
its fold; the slot the merged path is in. None when no path waits there (R92, R95). -/
def Group.mergeOnce (g : Group) (slot : Bool) (p : Path) : Option (Group × Bool × Path) :=
  match g.sibling slot with
  | some q =>
    if q.joining && q.pc == p.pc then
      let l := if slot then p.lanes else q.lanes
      let m := mergePath p q
      some ({ g.fold l true false with slot0 := some m, slot1 := none }.dropMap, false, m)
    else stacked
  | none => stacked
where
  /-- A merge with a stacked path. -/
  stacked : Option (Group × Bool × Path) :=
    match g.joinedAt p.pc with
    | none => none
    | some n =>
      match g.stack[n]? with
      | none => none
      | some q =>
        let m := mergePath p q
        let g := if slot then g.fold q.lanes false true else g
        some ({ g with stack := dropAt n g.stack }.setPath slot (some m), slot, m)

/-- All merges at the path's JOIN; `n` bounds the stacked paths (R92). -/
def Group.mergeAll (g : Group) (slot : Bool) (p : Path) : Nat → Group × Bool × Path
  | 0 => (g, slot, p)
  | n + 1 =>
    match g.mergeOnce slot p with
    | none => (g, slot, p)
    | some (g, slot, p) => Group.mergeAll g slot p n

/-- Whether both slots hold paths waiting at JOINs and a stacked path may leave its own (R91). -/
def Group.joinSwapIndex (g : Group) : Option Nat :=
  match g.slot0, g.slot1 with
  | some a, some b =>
    if !(a.joining && b.joining) then none
    else (List.range g.stack.length).find? fun n =>
      match g.stack[n]? with
      | some q => q.joining && q.mayLeave (a :: b :: dropAt n g.stack)
      | none => false
  | _, _ => none

/-- The join swap (R91, R95): the slot-1 path goes onto the stack with its lanes folded, and the
stacked path comes into slot 1. -/
def Group.joinSwap (g : Group) : Group :=
  match g.joinSwapIndex, g.slot1 with
  | some n, some q => g.swapIn true q n
  | _, _ => g

/-- After a path has joined or left: the slots are filled, a join swap follows, and the stack's image is what
the stack is now (R90, R91). None on a translation fault of the save area. -/
def State.afterMove (s : State) (b : Block) (was g : Group) : Option State :=
  match s.settle b g with
  | none => none
  | some (s, g) => (s.keepStack b was g.joinSwap).map fun s => s.setGroup g.joinSwap

/-- JOIN (R92, R110): a lone path passes; any other arrives, merges with the paths that wait at the
same JOIN, and leaves when every other path waits at a higher one. -/
def execJoin (_ : ROps) (s : State) : Result :=
  withPath s fun c g p =>
    if g.paths.length ≤ 1 then retire s c g p
    else
      withBlock s g fun b _ =>
        if !g.stack.isEmpty && s.stackBusy b g.idx then stay s c g p .retry 3 else
        let since := match p.wait with
          | some w => w.since
          | none => s.timebase.toNat
        let arrived := { p with
          joining := true, age := 0, quiet := p.quietNow, wait := some ⟨.retry, 8, since, c.next, c.last⟩ }
        match (g.setPath c.p.slot (some arrived)).mergeAll c.p.slot arrived (g.stack.length + 1) with
        | (g', slot, p') =>
          let s := if g'.permitsHeld < g.permitsHeld then s.returnPermit b.core else s
          let others := g'.paths.filter fun q => !(q.pc == p'.pc && q.joining)
          let g' := if p'.mayLeave others then g'.setPath slot (some (p'.advance c)) else g'
          match s.afterMove b g g' with
          | none => fatal s c g p 0x20 p.mask 0
          | some s => .next s

/-- What the check of a resume point finds (R156). -/
inductive ResumeCheck where
  | good | bad | wait
  deriving DecidableEq, Repr

/-- The check of TPC and TPH: the word at TPH is a clause header, and TPC lies on an instruction of
that clause (R156). Where the page of one of these words is absent or refuses the fetch the check has failed (R113,
R156, which give no outcome; log 48, DESIGN CHOICE). -/
def State.checkResume (s : State) (b : Block) (r : PathRef) (p : Path) (tpc tph : DWord) :
    ResumeCheck × Path × State :=
  let st : Site := ⟨b.core, b.vd, r⟩
  if (tpc.extractLsb' 56 8) != 0 || (tph.extractLsb' 56 8) != 0 || (tph.extractLsb' 0 2) != 0 then
    (.bad, p, s)
  else
    let h : Va := tph.setWidth 56
    match s.codeWord st p h with
    | (.wait, p, s) => (.wait, p, s)
    | (.ok [w], p, s) =>
      if fieldAt w 28 4 != 0xF then (.bad, p, s)
      else if tpc == tph then (.good, p, s)
      else
        match s.clauseIndex st p (tpc.setWidth 56) (h + 4) 0 (fieldAt w 24 4).toNat with
        | (some (some _), p, s) => (.good, p, s)
        | (some none, p, s) => (.bad, p, s)
        | (none, p, s) => (if p.pend.any fun x => (s.answerOf x.n).isNone then .wait else .bad, p, s)
    | (_, p, s) => (.bad, p, s)

/-- EXIT (R113): the effective lanes end; a path without lanes leaves its slot, a handler's gives its
permit back and its waiting lanes resume; a group without lanes ends. -/
def execExit (o : ROps) (s : State) : Result :=
  withPath s fun c g p =>
    let e := p.mask &&& g.guard o.g
    let m := p.mask &&& ~~~e
    if e = 0 then retire s c g p
    else if m ≠ 0 then retire s c g { p with mask := m }
    else
      withBlock s g fun b _ =>
        let leave (s' : State) : Result :=
          let g' := g.setPath c.p.slot none
          if g'.paths.isEmpty then .next (s'.endGroup b g')
          else if !g.stack.isEmpty && s.stackBusy b g.idx then stay s c g p .retry 3
          else
            match s'.afterMove b g g' with
            | none => fatal s c g p 0x20 p.mask 0
            | some s => .next s
        match p.handler with
        | none => leave s
        | some h =>
          if h.rest = 0 then leave (if h.permit then s.returnPermit b.core else s)
          else
            match s.checkResume b c.p p g.trap.pc g.trap.hdr with
            | (.good, p, s) => trapReturn s c g p h.rest 0
            | (.wait, p, s) => stay s c g p .retry 0
            | (.bad, p, s) => fatal s c g p 0x01 p.mask 0

/-- SLEEP (R115). -/
def execSleep (o : ROps) (s : State) : Result :=
  withPath s fun c g p =>
    let e := p.mask &&& g.guard o.g
    let n := (scalarB g o.b).toInt
    let gm := g.applyMarks c.p.slot p.mask (markOf o.lb .s (bField o.b))
    if e = 0 then retire s c g p
    else if n ≤ 0 then retire s c gm p
    else stay s c g p (.sleep (s.timebase.toNat + min n.toNat (2 ^ 32 - 1)) o) 10

/-- A waiting path's instruction retires: as its path's oldest, with the address after it (R97); not at a
breakpoint, where its block stops before it (R353). -/
def completeWait (s : State) (r : PathRef)
    (k : Cur → Group → Path → WaitKind → Result) : Result :=
  match s.group? r.grp with
  | none => .next s
  | some g =>
    match g.path r.slot with
    | none => .next s
    | some p =>
      match p.wait, s.block? g.blk with
      | some w, some b =>
        if g.phase == .running && b.lets r p && !s.breaksAt b p then k ⟨r, w.next, w.last⟩ g p w.kind else .next s
      | _, _ => .next s

/-- SLEEP_WAKE (R115): the SLEEP retires at or after its time. -/
def execSleepWake (r : PathRef) (s : State) : Result :=
  completeWait s r fun c g p k =>
    match k with
    | .sleep wake o =>
      if wake ≤ s.timebase.toNat then
        retire s c (g.applyMarks c.p.slot p.mask (markOf o.lb .s (bField o.b))) p
      else .next s
    | _ => .next s

/-- YIELD (R116). -/
def execYield (o : ROps) (s : State) : Result :=
  groupLevel s o.g [] fun c g p _ =>
    withBlock s g fun b _ =>
      match g.oldestStacked with
      | some n =>
        if s.stackBusy b g.idx then stay s c g p .retry 3 else
        let g' := g.swapIn c.p.slot { p.advance c with age := p.age } n
        match s.stackImage b g.idx g'.stack with
        | none => fatal s c g p 0x20 p.mask 0
        | some s => .next (s.setGroup g')
      | none => retire s c g { p with yielded := 64 }

/-- The slot whose path an ageing swap displaces: the one that has stopped fetching for it, else the one that
issued most recently; of two that issued in one cycle slot 0 (R101; log 28, DESIGN CHOICE). -/
def Group.displacedSlot (g : Group) : Bool :=
  match g.slot0, g.slot1 with
  | some a, some b => !a.leaving && (b.leaving || b.quiet < a.quiet)
  | _, _ => false

/-- No path of the group has to make room for a swap. -/
def Group.allStay (g : Group) : Group :=
  let stay (p : Path) : Path := { p with leaving := false }
  { g with slot0 := g.slot0.map stay, slot1 := g.slot1.map stay }

/-- AGEING_SWAP (R101, R102): a stacked path that does not wait and is aged 4,096 comes into the slot of
the path that issued most recently; that path stops fetching, and is pushed once its half has drained, or drops
what it has not retired. A translation fault of the save area is the displaced path's: the trap state names its
pc, its header, its lanes and its slot (R90; log 31, DESIGN CHOICE). -/
def execAgeingSwap (grp : Nat) (s : State) : Result :=
  match s.group? grp with
  | none => .next s
  | some g =>
    let slot := g.displacedSlot
    match g.oldestStacked, g.path slot, s.block? g.blk with
    | some n, some d, some b =>
      if !g.swapDue then .next (s.setGroup g.allStay)
      else if g.phase != .running || s.stackBusy b g.idx then .next s
      else if !d.drained && !d.mustDrop ((g.stack[n]?.map fun q => q.age).getD 0) then
        .next (s.setGroup (g.setPath slot (some { d with leaving := true })))
      else
        let x := if d.drained then (s, g) else s.dropPath b g slot d
        let g' := x.2.swapIn slot (if d.drained then d else d.dropped) n
        match x.1.stackImage b g.idx g'.stack with
        | none => s.freeze g slot d.pc d.hdr 0x20 d.mask 0 0
        | some s => .next (s.setGroup g')
    | _, _, _ => .next (s.setGroup g.allStay)

/-- Whether a slot's path has an unretired instruction that would free a register when it retires; a path whose
oldest instruction waits for a register itself retires none (R148). -/
def State.willFree (s : State) (r : PathRef) (o : Option Path) : Bool :=
  match o with
  | none => false
  | some p =>
    !(p.wait.any fun w => w.reason == 2) && ((p.liveRob.any fun e => freesV e.instr) ||
      (p.wait.isSome && p.handler.all (fun h => h.dflt.isNone) && (match fetch s r with
        | .run _ i => freesV i
        | .idle _ => false)))

/-- COMPACTION (R148): under two maps, when a write waits for a register and no unretired instruction of the
group would free one. -/
def execCompaction (grp : Nat) (s : State) : Result :=
  match s.group? grp with
  | none => .next s
  | some g =>
    let waits := (g.slot0.toList ++ g.slot1.toList).any fun p =>
      match p.wait with
      | some w => w.reason == 2
      | none => false
    if waits && g.slot0.isSome && g.slot1.isSome && !s.willFree ⟨grp, false⟩ g.slot0 &&
        !s.willFree ⟨grp, true⟩ g.slot1 then .next (s.setGroup g.compact) else .next s

end Sys2Proof.Machine
end

