-- ==== Sys2Proof/Machine/Order.lean ====
section
/-!
DEFINITION. The order instructions FENCE, SYNCA, SYNCR and SACK (R189 to R191, R284, R288).
-/
namespace Sys2Proof.Machine

/-- Whether an order releases, and whether it acquires (R43). -/
def releases (o : MemOrd) : Bool := o == .rel || o == .acqrel

@[inherit_doc releases]
def acquires (o : MemOrd) : Bool := o == .acq || o == .acqrel

/-- FENCE (R191): the release waits first, then the invalidations. -/
def execFence (o : MOps) (s : State) : Result :=
  groupLevel s o.g [] fun c g p _ =>
    withBlock s g fun b _ =>
      if releases o.ord && !s.released g o.scope then stay s c g p .retry 12
      else
        let x := if acquires o.ord then s.acquireFor ⟨b.core, b.vd, c.p⟩ g o.scope allRegions
          else (g, s)
        retire x.2 c x.1 p

/-- A synchronisation object: the line it lies in and its offset there (R284). -/
structure SyncObj where
  key : LineKey
  off : Nat
  deriving DecidableEq, Repr

/-- The object a location of a region is (R284). -/
def State.objAt (s : State) (st : Site) (r : Region) (o : Nat) : SyncObj :=
  let a := r.addr o
  ⟨s.keyOf st r a, a % 128⟩

/-- The object a bound entry names, where the block's window shows the entry it lies in (R77,
R284). -/
def State.boundTo (s : State) (st : Site) (b : Block) (gr : Grid) (h : Handle) : Option SyncObj :=
  match b.win.find? fun x => x.idx == (h.sync.extractLsb' 0 12).toNat with
  | none => none
  | some x => (s.regionOf b gr x).map fun r => s.objAt st r (h.sync.extractLsb' 16 48).toNat

/-- Whether a handle-table entry's region is concerned by an acquire on `f`: it is unbound or bound
to `f`; an entry whose object the window does not show counts as concerned, which R189 allows. -/
def State.concerned (s : State) (st : Site) (b : Block) (gr : Grid) (f : SyncObj) (idx : Nat) :
    Bool :=
  match b.win.find? fun x => x.idx == idx with
  | none => true
  | some h =>
    !h.bind || (match s.boundTo st b gr h with
      | some f' => f' == f
      | none => true)

/-- Stages 1 to 3 of R169 for the object of a SYNCA or SYNCR, as an 8-byte access (R191). -/
def syncObject (o : MOps) (u : Use) (s : State)
    (k : Cur → Group → Path → Block → Grid → SyncObj → Result) : Result :=
  groupLevel s o.g [] fun c g p e =>
    withBlock s g fun b gr =>
      withRegion s c g p b gr e o.h u fun r =>
        let off := uniformOffset g o
        let at' := offAddr r 0 e fun _ => off
        if !r.inside off 8 then fatal s c g p 0x10 e at'
        else if r.addr off.toNat % 8 ≠ 0 then fatal s c g p 0x12 e at'
        else k c g p b gr (s.objAt ⟨b.core, b.vd, c.p⟩ r off.toNat)

/-- SYNCA (R191). -/
def execSynca (o : MOps) (s : State) : Result :=
  syncObject o .lds s fun c g p b gr f =>
    let st : Site := ⟨b.core, b.vd, c.p⟩
    let x := s.acquireFor st g o.scope (s.concerned st b gr f)
    retire x.2 c (x.1.applyMarks c.p.slot p.mask (aMark o .s)) p

/-- SYNCR (R191): the release waits, and the release the group's next write to the object will be. -/
def execSyncr (o : MOps) (s : State) : Result :=
  syncObject o .sts s fun c g p _ _ f =>
    if s.released g o.scope then
      let r : PendRel := ⟨f.key, f.off, o.scope⟩
      retire s c ({ g with rels := g.rels ++ [r] }.applyMarks c.p.slot p.mask (aMark o .s)) p
    else stay s c g p .retry 12

/-- Whether SACK's wait at a scope is over (R191). -/
def Group.sackDone (g : Group) (sc : Scope) : Bool :=
  let drained := g.sb.isEmpty && g.sbRest.isEmpty
  match sc with
  | .grp => true
  | .blk => drained
  | .clu => drained && g.cnt.clu == 0
  | .die => drained && g.cnt.die == 0
  | .dev => drained && g.cnt.dev == 0
  | .sys => drained && g.cnt.sys == 0

/-- SACK (R191). -/
def execSack (o : MOps) (s : State) : Result :=
  groupLevel s o.g [] fun c g p _ =>
    if g.sackDone o.scope then retire s c g p else stay s c g p .retry 12

end Sys2Proof.Machine
end

