-- ==== Sys2Proof/Machine/Home.lean ====
section
/-!
DEFINITION. Stores on their way, remote requests and their answers, deadlines, walks, PGINV, ATS
invalidations and DCF (R172, R173, R259, R263 to R267, R271, R275 to R278).
The model's own choices here: DEDUCED, log 7; DESIGN CHOICE, logs 23, 42.
-/
namespace Sys2Proof.Machine

/-- STORE_BUFFER_DRAIN (R172): entry `n` of a group's store buffer drains, if no older entry to its line
is still there and the L1 has a place for the line. -/
def execStoreBufferDrain (grp n : Nat) (s : State) : Result :=
  match s.group? grp with
  | none => .next s
  | some g =>
    match g.sb.find? fun e => e.id == n, s.block? g.blk with
    | some e, some b =>
      let first := match g.sb.find? fun x => x.key == e.key with
        | some x => x.id == n
        | none => false
      if first && g.phase != .saved && s.l1Room b.core e.key then .next (s.drainEntry b.core g e) else .next s
    | _, _ => .next s

/-- The home's answer to a request (R259, R263, R267, R270): data for a read, else the permission; a
refusal is counted at the home die. -/
def State.serve (s : State) (q : Request) : LineResult × State :=
  match q.key with
  | .mem home vd la =>
    match s.homeFetch home vd la with
    | .ok (h, s) =>
      if h.leaf.permits q.kind then
        (match q.kind with
         | .read | .fetch => .data h.bytes (some h.leaf)
         | .write | .atomic => .permitted (some h.leaf), s)
      else (.nak, s.bumpReg (dieKey home 0x10))
    | .error .absent => (.absent, s)
    | .error .tableError => (.nak, s.bumpReg (dieKey home 0x10))
  | .scr _ _ | .tile _ _ =>
    (match q.kind with
     | .read | .fetch => .data (s.bankLine q.key) none
     | .write | .atomic => .permitted none, s)
  | .host vd la =>
    match s.hostLine q.kind vd la with
    | (.ok bs _, s) => (.data bs none, s)
    | (.cause c, s) => (if c = 0x20 then .absent else .refused, s)
    | (.wait, s) => (.absent, s)

/-- A die's stores to a line that have not arrived, oldest first. -/
def State.passing (s : State) (die : BitVec 2) (k : LineKey) : List Flight :=
  s.flight.filter fun f => !f.arrived && f.entry.key == k && dieOf f.core == die

/-- A request and the stores of its die keep their order on their way: none that set out before the request is served
after it (R10, R173, R282). -/
def State.inTurn (s : State) (q : Request) : Bool := (s.passing q.src q.key).all fun f => q.passed.contains f.id

/-- HOME_REQUEST: request `n`, once it is there behind the stores that set out before it, is served at its home die, and
its answer sets out (R10, R259); or drained store `n` arrives at its home, where it takes its place in the modification order (R173,
R282). -/
def execHomeRequest (n : Nat) (s : State) : Result :=
  match s.reqs.find? fun q => q.n == n with
  | some q =>
    if s.keyBusy q.key || !q.tr.done || !s.inTurn q then .next s
    else
      let r := s.serve q
      let flits := match r.1 with
        | .data _ _ => lineFlits
        | _ => 1
      let x : Response := ⟨n, q, r.1, Transit.start q.home q.src flits, false⟩
      .next { r.2 with reqs := r.2.reqs.filter fun x => x.n != n, resps := r.2.resps ++ [x] }
  | none =>
    match s.flight.find? fun f => f.id == n with
    | some f => if !f.arrived && f.tr.done && s.nextToArrive f then .next (s.arrive f) else .next s
    | none => .next s

/-- Request `n`'s answer is there for its asker; a PRF asks for none (R183). -/
def State.answer (s : State) (q : Request) (r : LineResult) : State :=
  let rest := s.resps.filter fun x => x.n != q.n
  match q.who with
  | .prf _ => { s with resps := rest }
  | .path _ | .op _ | .thread _ | .lane _ =>
    { s with resps := rest ++ [⟨q.n, q, r, Transit.start q.src q.src 1, true⟩] }

/-- The copy that a load's or a PRF's read leaves in its die's RDC, under the stores of the die that have passed the
RDC since the read was sent (R173, R183, R259). What a Carter, the array or a Mill thread reads leaves none. -/
def State.fillRdc (s : State) (q : Request) (bytes : List Byte) (l : Option Leaf) : State :=
  let fill : State :=
    let fs := (s.passing q.src q.key).filter fun f => q.passed.contains f.id
    s.setRdc ⟨q.src, q.key, fs.foldl (fun bs f => mergeBytes bs f.entry.bytes f.entry.marks 0) bytes, q.hidx, l,
      fs.map fun f => f.id⟩
  match q.key, q.kind, q.who with
  | .mem _ _ _, .read, .path _ | .mem _ _ _, .read, .prf _ => fill
  | _, _, _ => s

/-- The copies a read's answer leaves: in the die's RDC, and for a PRF in a core's L1 (R183, R259). -/
def State.fillCopies (s : State) (q : Request) (bytes : List Byte) (l : Option Leaf) : State :=
  let s := s.fillRdc q bytes l
  match q.who with
  | .prf (some core) =>
    if (s.l1Line? core q.key).isSome then s else s.setL1 ⟨core, q.key, bytes, fullMarks, q.hidx, l, []⟩
  | .prf none | .path _ | .op _ | .thread _ | .lane _ => s

/-- Whether a deadline has expired; none does while the package clock has stopped (R263, R265). -/
def State.expired (s : State) (dl : Nat) : Bool := dl < s.timebase.toNat && !s.clkFault

/-- What reaches the asker of an answer that is back at its die: an answer after its deadline is discarded, the
request has expired (R263); a read's line comes through the RDC. -/
def State.deliverAnswer (s : State) (x : Response) : State :=
  if s.expired x.req.deadline then s.answer x.req .expired
  else
    match x.res with
    | .data bs l => (s.fillCopies x.req bs l).answer x.req (.data bs l)
    | r => s.answer x.req r

/-- MEMORY_RESPONSE (R263): answer `n` is back at its die. -/
def execMemoryResponse (n : Nat) (s : State) : Result :=
  match s.resps.find? fun x => x.n == n with
  | some x => if x.res == .nak || x.there || !x.tr.done then .next s else .next (s.deliverAnswer x)
  | none => .next s

/-- REMOTE_NAK (R267): the refusal is back at its die; its asker takes cause 0x22. -/
def execRemoteNak (n : Nat) (s : State) : Result :=
  match s.resps.find? fun x => x.n == n with
  | some x => if x.res == .nak && !x.there && x.tr.done then .next (s.deliverAnswer x) else .next s
  | none => .next s

/-- Whether an operation or a queue's copy that has written still waits for its acknowledgments. -/
def State.waitsFor (s : State) (who : Asker) : Bool :=
  match who with
  | .op n => (s.blocks.any fun b => b.chans.any fun ch => ch.queue.any fun x => x.id == n) ||
      s.cores.any fun k => k.array.any fun x => x.id == n
  | .lane q => s.threads.any fun t => t.q == q && !t.lane.isEmpty
  | .path _ | .thread _ | .prf _ => false

/-- What an expired acknowledgment does: its group is frozen, but one that is frozen already keeps its cause; an
operation or a queue's copy finds it lost (R264). -/
def State.freezeStore (s : State) (f : Flight) : Result :=
  let lost := f.who.all s.waitsFor
  let s := { s with
    flight := replaceFirst (fun (x : Flight) => x.id == f.id)
      (fun x => { x with deadline := if lost then some 0 else none }) s.flight }
  match if f.who.isNone then s.group? f.grp else none with
  | none => .next s
  | some g =>
    let p := match g.slot0, g.slot1 with
      | some p, _ => p
      | none, some p => p
      | none, none => { freshPath 0 with mask := 0 }
    if g.phase == .frozen then .next s
    else s.freeze g g.slot0.isNone p.pc p.hdr 0x60 p.mask 0 (f.entry.va.setWidth 64)

/-- Whether the acknowledgment of a drained store has outlived its deadline (R263, R264). -/
def State.lateStore (s : State) (f : Flight) : Bool :=
  match f.deadline with
  | some dl => dl != 0 && s.expired dl
  | none => false

/-- STORE_ACK (R173): the acknowledgment of an arrived store, back at its core, reaches its group; one that
comes after its deadline is discarded (R263, R264). -/
def execStoreAck (n : Nat) (s : State) : Result :=
  match s.flight.find? fun f => f.id == n with
  | some f =>
    if !f.arrived || !f.tr.done || f.deadline == some 0 then .next s
    else if s.lateStore f then s.freezeStore f
    else .next (s.ackStore f)
  | none => .next s

/-- The grid and the gang slot whose round message has a number, and the message. -/
def State.gangMessage (s : State) (n : Nat) : Option (Grid × Nat × GangMsg) :=
  (s.grids.flatMap fun gr => gr.levels.flatMap fun d => d.gangs.flatMap fun x =>
    (x.sent.filter fun m => m.n == n).map fun m => (gr, x.slot, m)).head?

/-- An expired round message: its round is over with cause 0x60 (R262, R301). -/
def State.lateRound (s : State) (gr : Grid) (slot : BitVec 6) (m : GangMsg) : State :=
  (s.setGrid (gr.dropRound m.n)).expireGang (gr.dropRound m.n) slot

/-- DEADLINE_EXPIRY (R262, R264): request, answer, retired store or round message `n` has outlived its
deadline. -/
def execDeadlineExpiry (n : Nat) (s : State) : Result :=
  match s.reqs.find? fun q => q.n == n with
  | some q =>
    if s.expired q.deadline then .next ({ s with reqs := s.reqs.filter fun x => x.n != n }.answer q .expired)
    else .next s
  | none =>
    match s.resps.find? fun x => x.n == n with
    | some x => if !x.there && s.expired x.req.deadline then .next (s.answer x.req .expired) else .next s
    | none =>
      match s.flight.find? fun f => f.id == n with
      | some f => if s.lateStore f then s.freezeStore f else .next s
      | none =>
        match s.gangMessage n with
        | some (gr, slot, m) =>
          if s.expired m.deadline then .next (s.lateRound gr (BitVec.ofNat 6 slot) m) else .next s
        | none => .next s

/-- PAGE_WALK (R269 to R271): a line that misses in the die's LLC is translated, and the walk is kept;
a fault or a table error is the access's own to take. -/
def execPageWalk (die : BitVec 2) (vd : BitVec 8) (va : Va) (s : State) : Result :=
  if (s.homeLine? die vd (lineOf va)).isSome || s.pageBusy vd va then .next s
  else
    match s.translate die vd va with
    | .ok (_, s) => .next s
    | .error _ => .next s

/-- Drained stores to picked lines arrive at their homes (R278). -/
def State.landDrained (s : State) (hit : LineKey → Bool) : State :=
  (s.flight.filter fun f => hit f.entry.key && !f.arrived).foldl (fun s f => s.arrive f) s

/-- Stores of picked lines, in flight and still in store buffers, arrive at their homes, oldest first,
under the translations they retired under (R271, R293). A saved group's entries count as
acknowledged at once. -/
def State.landStores (s : State) (hit : LineKey → Bool) : State :=
  let s := s.landDrained hit
  s.groups.foldl (fun s g =>
    let core := match s.block? g.blk with
      | some b => b.core
      | none => 0
    ((g.sb ++ g.sbRest).filter fun e => hit e.key).foldl (fun s e =>
      match s.group? g.id with
      | none => s
      | some g =>
        let g := { g with sb := g.sb.filter fun x => x.id != e.id,
                          sbRest := g.sbRest.filter fun x => x.id != e.id }
        let f : Flight :=
          ⟨e.id, g.id, none, s.vdOf g, core, Transit.start (dieOf core) (dieOf core) 1, e, false, none⟩
        let s := { s.setGroup g.refill with flight := s.flight ++ [f] }
        let s := s.arrive f
        if g.phase == .saved then s.ackStore f else s) s) s

/-- Picked lines leave every L1, RDC, L2 and LLC, dirty ones written back first when `keep` holds
(R271, R277, R278). -/
def State.dropLines (s : State) (hit : LineKey → Bool) (keep : Bool) : State :=
  let mine (h : HomeLine) : Bool := hit (.mem h.die h.vd h.va)
  let s := if keep then (s.home.filter mine).foldl (fun s h => s.writeBack h) s else s
  { s with home := s.home.filter fun h => !mine h,
           l1 := s.l1.filter fun x => !hit x.key,
           rdc := s.rdc.filter fun x => !hit x.key }

/-- Answers for picked lines are made again from what the home then holds: those on their way by the home,
those that have come by asking again (R271). -/
def State.recall (s : State) (hit : LineKey → Bool) : State :=
  { s with
    reqs := s.reqs ++ (s.resps.filter fun x => hit x.req.key && !x.there).map fun x => x.req,
    resps := s.resps.filter fun x => !hit x.req.key }

/-- Every dirty line of the picked ones is written back and stays, clean (R275, R278). -/
def State.cleanLines (s : State) (hit : LineKey → Bool) : State :=
  (s.home.filter fun h => hit (.mem h.die h.vd h.va)).foldl (fun s h =>
    (s.writeBack h).setHome { h with dirty := 0 }) s

/-- PGINV (R271): GO starts it; a write while BUSY is ignored. -/
def execPginv (vd : BitVec 8) (v : DWord) (s : State) : Result :=
  inService s <|
  let d := s.vdev vd
  if v.getLsbD 63 && d.pginv.isNone then .next (s.setVdev { d with pginv := some v }) else .next s

/-- Whether a key lies in the pages a PGINV names (R271). -/
def State.inPginv (s : State) (vd : BitVec 8) : LineKey → Bool
  | .mem _ v la | .host v la => v == vd && s.pageBusy vd la
  | .scr _ _ | .tile _ _ => false

/-- PGINV_COMPLETE (R271): drains, write-backs, invalidations, the cached walks, then BUSY clears. -/
def execPginvComplete (vd : BitVec 8) (s : State) : Result :=
  match (s.vdev vd).pginv with
  | none => .next s
  | some _ =>
    let hit := s.inPginv vd
    let busy (vpn : BitVec 40) : Bool := s.pageBusy vd (vpn ++ (0 : BitVec 16))
    let s := ((s.landStores hit).dropLines hit true).recall hit
    let s := { s with walks := s.walks.filter fun w => !(w.vd == vd && busy w.vpn) }
    .next (s.setVdev { s.vdev vd with pginv := none })

/-- ATS_INVALIDATION (R277): for `n` + 1 host pages from `vpn` on, as PGINV does. -/
def execAtsInvalidation (vd : BitVec 8) (vpn : BitVec 48) (n : BitVec 16) (s : State) : Result :=
  let inRange (p : Nat) : Bool := vpn.toNat ≤ p && p ≤ vpn.toNat + n.toNat
  let hit (k : LineKey) : Bool := match k with
    | .host v la => v == vd && inRange (la.toNat / 4096)
    | _ => false
  let s := ((s.landStores hit).dropLines hit true).recall hit
  .next { s with atc := s.atc.filter fun e => !(e.vd == vd && inRange e.vpn.toNat) }

/-- Bytes per element of a DCF view (R278). -/
def viewWidth (bf : Bool) : Nat := if bf then 2 else 1

/-- Whether a DCF may use a window slot: mapped, space global, readable (R278). -/
def dcfRegion (s : State) (b : Block) (gr : Grid) (slot : BitVec 8) : Option Region :=
  match b.slotAt slot with
  | some h => if h.space == 0 && h.perm.getLsbD 0 then s.regionOf b gr h else none
  | none => none

/-- A DCF's two ranges: first address and bytes of the source and of the target (R278). -/
structure DcfRanges where
  src  : Nat
  srcN : Nat
  tgt  : Nat
  tgtN : Nat
  deriving DecidableEq, Repr

/-- The checks of R278 in their order, then `k`. -/
def dcfChecked (s : State) (c : Cur) (g : Group) (p : Path) (e : Word) (o : MOps)
    (k : Block → DcfRanges → Result) : Result :=
  withBlock s g fun b gr =>
    let n := o.disp.toNat
    let ws := viewWidth (o.x.getLsbD 0)
    let wt := viewWidth (o.x.getLsbD 1)
    let src := (g.sreg o.a).toNat
    let loc := locatorOf (g.sreg o.d)
    match dcfRegion s b gr o.h with
    | none => fatal s c g p 0x11 e 0
    | some r =>
      if !r.inside src (2048 * n * ws) then fatal s c g p 0x10 e (offAddr r 0 e fun _ => (src : Int))
      else
        match dcfRegion s b gr loc.slot with
        | none => fatal s c g p 0x11 e 0
        | some t =>
          if !t.inside loc.off (2048 * n * wt) then
            fatal s c g p 0x10 e (offAddr t 0 e fun _ => (loc.off : Int))
          else if src % (2048 * ws) ≠ 0 then fatal s c g p 0x12 e (offAddr r 0 e fun _ => (src : Int))
          else if loc.off % (2048 * wt) ≠ 0 then
            fatal s c g p 0x12 e (offAddr t 0 e fun _ => (loc.off : Int))
          else k b ⟨r.addr src, 2048 * n * ws, t.addr loc.off, 2048 * n * wt⟩

/-- DCF (R278): its checks and its device-scope release; it then waits for the write-back. -/
def execDcf (o : MOps) (s : State) : Result :=
  groupLevel s o.g [] fun c g p e =>
    dcfChecked s c g p e o fun _ _ =>
      if s.released g .dev then stay s c g p (.dcf o) 12 else stay s c g p .retry 12

/-- Whether a key's line meets a range of addresses of a virtual device's memory. -/
def keyIn (vd : BitVec 8) (a n : Nat) : LineKey → Bool
  | .mem _ v la => v == vd && la.toNat < a + n && a < la.toNat + 128
  | .host _ _ | .scr _ _ | .tile _ _ => false

/-- DCF_WRITEBACK_DONE (R278): the source range is written back, what drained stores have left of it in an L1 too, and
the target range invalidated on every die, and the DCF retires; stores its group has retired meanwhile are released
first. -/
def execDcfWritebackDone (r : PathRef) (s : State) : Result :=
  completeWait s r fun c g p k =>
    match k with
    | .dcf o =>
      dcfChecked s c g p (p.mask &&& g.guard o.g) o fun b x =>
        if !s.released g .dev then .next s else
        let src := keyIn b.vd x.src x.srcN
        let tgt := keyIn b.vd x.tgt x.tgtN
        let s := (((s.landDrained fun k => src k || tgt k).cleanLines src).dropLines tgt false).recall tgt
        match s.group? g.id with
        | none => .fault .dangling
        | some g => retire s c (g.applyMarks c.p.slot p.mask (aMark o .s)) p
    | _ => .next s

end Sys2Proof.Machine
end

