-- ==== Sys2Proof/Machine/Resource.lean ====
section
/-!
DEFINITION. The Reeve: claims, the safe-state test, deferral and freezes, and the instructions CLAIM,
ACQ, ACQ.try, REL and RSTAT (R196 to R217).
The model's own choices here: DESIGN CHOICE, logs 9, 24; DEDUCED, log 41.
-/
namespace Sys2Proof.Machine

/-- An 18-component vector (R196). -/
abbrev ResVec := List Nat

/-- Whether a vector lies below another in every component (R196). -/
def ResVec.le (a b : ResVec) : Bool := (List.range 18).all fun i => a.getD i 0 ≤ b.getD i 0

/-- Sums and differences by component. -/
def ResVec.add (a b : ResVec) : ResVec := (List.range 18).map fun i => a.getD i 0 + b.getD i 0

@[inherit_doc ResVec.add]
def ResVec.sub (a b : ResVec) : ResVec := (List.range 18).map fun i => a.getD i 0 - b.getD i 0

/-- A block's amounts as a vector: its core's index in the cluster places REG and TILE (R196). -/
def Units.vec (u : Units) (core : BitVec 9) : ResVec :=
  let c := core.toNat % 8
  (List.range 18).map fun i =>
    if i = c then u.reg else if i = 8 + c then u.tile else if i = 16 then u.scr
    else if i = 17 then u.eng else 0

/-- The physical sizes of a cluster; a removed core's are 0 (R196, R319). -/
def State.physVec (s : State) (cl : BitVec 6) : ResVec :=
  (List.range 18).map fun i =>
    let gone := (s.core (cl ++ BitVec.ofNat 3 i)).removed
    if i < 8 then (if gone then 0 else 128) else if i < 16 then (if gone then 0 else 32)
    else if i = 16 then 128 else 16

/-- The blocks resident on a cluster. -/
def State.residents (s : State) (cl : BitVec 6) : List Block :=
  s.blocks.filter fun b => b.phase == .resident && clusterOf b.core == cl

/-- Whether two blocks belong to one domain: one cluster level of one grid (R201). -/
def sameDomain (a b : Block) : Bool := a.grid == b.grid && a.dieid == b.dieid && a.cid == b.cid

/-- The resolved caps of a block's domain (R201). -/
def State.domainCap (s : State) (b : Block) : Units :=
  match (s.grid? b.grid).bind fun gr => (gr.die? b.dieid).bind fun d =>
      d.clus.find? fun x => x.idx == b.cid with
  | some x => x.cap
  | none => ⟨0, 0, 0, 0⟩

/-- A domain's capacity vector, each component limited to its physical size (R201). -/
def State.capVec (s : State) (cl : BitVec 6) (u : Units) : ResVec :=
  let ph := s.physVec cl
  (List.range 18).map fun i =>
    min (ph.getD i 0)
      (if i < 8 then u.reg else if i < 16 then u.tile else if i = 16 then u.scr else u.eng)

/-- What the Reeve tests with: a block's claim and allocation (R204). -/
structure Holding where
  b     : Block
  claim : ResVec
  alloc : ResVec
  deriving DecidableEq, Repr

/-- Sums and differences by type. -/
def Units.add (a b : Units) : Units := ⟨a.reg + b.reg, a.tile + b.tile, a.scr + b.scr, a.eng + b.eng⟩

@[inherit_doc Units.add]
def Units.sub (a b : Units) : Units := ⟨a.reg - b.reg, a.tile - b.tile, a.scr - b.scr, a.eng - b.eng⟩

/-- What the Reeve counts for a block: its units and those granted to it (R204). -/
def Block.counted (b : Block) : Units := b.alloc.add b.pend

/-- A block's holding. -/
def Block.holding (b : Block) : Holding := ⟨b, b.claim.vec b.core, b.counted.vec b.core⟩

/-- What a holding still needs (R200). -/
def Holding.need (h : Holding) : ResVec := h.claim.sub h.alloc

/-- avail of R201 over the holdings of a cluster. -/
def State.availOf (s : State) (cl : BitVec 6) (hs : List Holding) : ResVec :=
  hs.foldl (fun v h => v.sub h.alloc) (s.physVec cl)

/-- davail of R201 for a block's domain. -/
def State.davailOf (s : State) (cl : BitVec 6) (hs : List Holding) (b : Block) : ResVec :=
  hs.foldl (fun v h => if sameDomain h.b b then v.sub h.alloc else v)
    (s.capVec cl (s.domainCap b))

/-- What the Reeve decides (R204). -/
inductive Decision where
  | trap | defer | grant
  deriving DecidableEq, Repr

/-- One pass of step 4 of R204: the marked blocks give their allocations back to work and to their
domains' work. `done` are the marked blocks' ids. -/
def State.passOver (s : State) (cl : BitVec 6) (hs : List Holding) (done : List Nat) : List Nat :=
  let rest := hs.filter fun h => !done.contains h.b.id
  let work := s.availOf cl rest
  let now := rest.filter fun h =>
    h.need.le work && h.need.le (s.davailOf cl rest h.b)
  done ++ now.map fun h => h.b.id

/-- Step 4 of R204: passes until one marks no block; the marked blocks. -/
def State.finishers (s : State) (cl : BitVec 6) (hs : List Holding) : Nat → List Nat → List Nat
  | 0, done => done
  | n + 1, done =>
    let d := s.passOver cl hs done
    if d.length = done.length then done else State.finishers s cl hs n d

/-- The test of R204 for block `b` with request `x`; `hs` are the holdings of the cluster's resident
blocks and of `b`, whose claim is the one the request leaves it with. -/
def State.safeTest (s : State) (cl : BitVec 6) (hs : List Holding) (b : Block) (x : ResVec) :
    Decision :=
  match hs.find? fun h => h.b.id == b.id with
  | none => .defer
  | some h =>
    if !(h.alloc.add x).le h.claim then .trap
    else if !(x.le (s.availOf cl hs) && x.le (s.davailOf cl hs b)) then .defer
    else
      let h' := { h with alloc := h.alloc.add x }
      let hs' := replaceFirst (fun y => y.b.id == b.id) (fun _ => h') hs
      if h'.need.le (s.availOf cl hs') && h'.need.le (s.davailOf cl hs' b) then .grant
      else if (s.finishers cl hs' (hs'.length + 1) []).length = hs'.length then .grant
      else .defer

/-- The vector of an amount of one type. -/
def typeVec (t : RType) (n : Nat) (core : BitVec 9) : ResVec :=
  ((⟨0, 0, 0, 0⟩ : Units).set t n).vec core

/-- The types standing frozen on a cluster, except by one request: a request is not held back by its own freeze
(R209; log 24, DESIGN CHOICE). -/
def Cluster.frozenTypes (k : Cluster) (except' : Nat) : List RType :=
  (k.deferred.filter fun r => r.frozen && r.id != except').map fun r => r.ty

/-- Whether a freeze is due that has not been made yet (R209). -/
def Cluster.freezeDue (k : Cluster) : Bool := k.deferred.any fun r => 64 ≤ r.passed && !r.frozen

/-- The decision on one request, under the freeze rule (R204, R209). -/
def State.decide (s : State) (cl : BitVec 6) (r : ReeveReq) (b : Block) : Decision :=
  let b' := if r.raise then { b with claim := b.claim.set r.ty r.amt } else b
  let hs := (s.residents cl).map fun x => if x.id == b.id then b'.holding else x.holding
  let x := if r.raise then typeVec r.ty 0 b.core else typeVec r.ty r.amt b.core
  let need := b'.holding.need
  if ((s.cluster cl).frozenTypes r.id).contains r.ty &&
      !(need.le (s.availOf cl hs) && need.le (s.davailOf cl hs b)) then .defer
  else s.safeTest cl hs b' x

/-- A grant of a type passes over every older deferred request of that type (R209). -/
def Cluster.passed (k : Cluster) (id : Nat) (ty : RType) : Cluster :=
  { k with deferred := k.deferred.map fun (r : ReeveReq) =>
      if r.id < id && r.ty == ty then { r with passed := r.passed + 1 } else r }

/-- An admission of blocks with these base allocations passes over every deferred request of a type it asks
for (R209). -/
def Cluster.passedBy (k : Cluster) (bases : List Units) : Cluster :=
  { k with deferred := k.deferred.map fun (r : ReeveReq) =>
      if bases.any fun u => u.get r.ty != 0 then { r with passed := r.passed + 1 } else r }

/-- Whether an admission is decided now: no older request is queued, no deferred request is due for a test
and no freeze is due (R206, R207, R209; log 24, DESIGN CHOICE). -/
def Cluster.admitsNow (k : Cluster) : Bool := k.queue.isEmpty && k.retest.isEmpty && !k.freezeDue

/-- The path whose instruction made a request takes the answer. -/
def Path.reeveAnswer (id : Nat) (ok : Grant) (p : Path) : Path :=
  match p.wait with
  | some w => (match w.kind with
    | .grant n _ => if n == id then { p with granted := some ok } else p
    | _ => p)
  | none => p

/-- The same for whichever path of the group made it. -/
def Group.reeveAnswer (id : Nat) (ok : Grant) (g : Group) : Group :=
  { g with slot0 := g.slot0.map (Path.reeveAnswer id ok), slot1 := g.slot1.map (Path.reeveAnswer id ok),
           stack := g.stack.map (Path.reeveAnswer id ok) }

/-- The slot and path that wait for a request's answer. -/
def Group.asker (g : Group) (id : Nat) : Option (Bool × Path) :=
  let is (p : Path) : Bool := p.wait.any fun w => match w.kind with
    | .grant n _ => n == id
    | _ => false
  match g.slot0, g.slot1 with
  | some p, q => if is p then some (false, p) else (q.filter is).map fun p => (true, p)
  | none, q => (q.filter is).map fun p => (true, p)

/-- The block has performed an ACQ of a type (R213). -/
def Block.markAcq (b : Block) (t : RType) : Block :=
  { b with acqd := if b.acqd.contains t then b.acqd else b.acqd ++ [t] }

/-- A grant made real at the Reeve: the claim raised, or the units counted for the block (R204, R213). -/
def Block.granted (b : Block) (r : ReeveReq) : Block :=
  if r.raise then { b with claim := b.claim.set r.ty r.amt }
  else { b with pend := b.pend.set r.ty (b.pend.get r.ty + r.amt) }

/-- Units the Reeve has granted come to the block when its ACQ retires; TILE and SCR units read zero (R198,
R214). -/
def Block.takeUp (b : Block) (ty : RType) (n : Nat) : Block :=
  let was := b.alloc.get ty
  let b := { b with alloc := b.alloc.set ty (was + n), pend := b.pend.set ty (b.pend.get ty - n) }
  match ty with
  | .tile => { b with tile := b.tile.below (unitBytes was) }
  | .scr => { b with scr := b.scr.below (unitBytes was) }
  | .reg | .eng => b

/-- The outcome of a test is applied: a grant, a deferral, an ACQ.try's 0, or the trap at the
requesting instruction (R204, R207 to R209, R214). -/
def State.reeveApply (s : State) (cl : BitVec 6) (r : ReeveReq) (b : Block) : Result :=
  let k := s.cluster cl
  let out : Cluster := { k with queue := k.queue.filter (fun x => x.id != r.id),
                                deferred := k.deferred.filter (fun x => x.id != r.id),
                                retest := k.retest.filter (fun x => x != r.id) }
  let b := if r.raise then b else b.markAcq r.ty
  let tell (s : State) (ok : Bool) : State :=
    match s.group? r.path.grp with
    | some g => s.setGroup (g.reeveAnswer r.id ⟨ok, r.ty, r.amt, r.raise, r.lanes⟩)
    | none => s
  match s.decide cl r b with
  | .grant => .next (tell ((s.setBlock (b.granted r)).setCluster (out.passed r.id r.ty)) true)
  | .defer =>
    if r.try' then .next (tell ((s.setBlock b).setCluster out) false)
    else
      .next ((s.setBlock b).setCluster { out with
        deferred := if k.deferred.any (fun x => x.id == r.id) then k.deferred else out.deferred ++ [r] })
  | .trap =>
    match s.group? r.path.grp with
    | none => .next (s.setCluster out)
    | some g =>
      match g.asker r.id with
      | some (slot, p) => (s.setCluster out).freeze g slot p.pc p.hdr 0x30 r.lanes 0 0
      | none => .next (s.setCluster out)

/-- Whether a deferred request stays deferred because the debugger holds its block, but for one of the path that
steps (R352, R354). -/
def State.keepsDeferred (s : State) (b : Block) (r : ReeveReq) : Bool :=
  b.dbg && !(b.stepReq.isSome &&
    ((s.group? r.path.grp).bind fun g => g.asker r.id).any fun x => x.2.step == .due)

/-- REEVE_TEST (R204, R207): the oldest deferred request that is due for a test, else the oldest queued
one; nothing is tested before a freeze that is due (R209). -/
def execReeveTest (cl : BitVec 6) (s : State) : Result :=
  let k := s.cluster cl
  let next : Option ReeveReq := match k.retest with
    | n :: _ => k.deferred.find? fun r => r.id == n
    | [] => k.queue.head?
  if k.freezeDue then .next s
  else
    match next with
    | some r =>
      match s.block? r.blk with
      | some b =>
        if s.keepsDeferred b r && !k.retest.isEmpty then .next (s.setCluster { k with retest := k.retest.drop 1 })
        else s.reeveApply cl r b
      | none => .next (s.setCluster { k with queue := k.queue.filter fun x => x.id != r.id })
    | none => .next (s.setCluster { k with retest := k.retest.drop 1 })

/-- REEVE_FREEZE (R209): a deferred request passed over 64 times freezes its types. -/
def execReeveFreeze (cl : BitVec 6) (req : Nat) (s : State) : Result :=
  let k := s.cluster cl
  .next (s.setCluster { k with deferred := k.deferred.map fun (r : ReeveReq) =>
    if r.id == req && 64 ≤ r.passed then { r with frozen := true } else r })

/-- Whether a group has a request at the Reeve of its cluster (R206). -/
def Cluster.busyFor (k : Cluster) (grp : Nat) : Bool :=
  (k.queue ++ k.deferred).any fun r => r.path.grp == grp

/-- Whether a path of the group has an answer its instruction has not taken up yet (R206). -/
def Group.hasAnswer (g : Group) : Bool := g.paths.any fun p => p.granted.isSome

/-- Instruction `i` sends a request, or waits while the group's other path has one or the queue is full (R206,
R208). -/
def request (s : State) (c : Cur) (g : Group) (p : Path) (b : Block) (ty : RType) (amt : Nat)
    (raise try' : Bool) (e : Word) (i : Instr) : Result :=
  let k := s.cluster (clusterOf b.core)
  if k.busyFor g.id || g.hasAnswer || 16 ≤ k.queue.length then stay s c g p .retry 9
  else
    let n := s.newId
    let r : ReeveReq := { id := n.1, path := c.p, blk := b.id, ty := ty, amt := amt, raise := raise,
                          try' := try', lanes := e, passed := 0, frozen := false }
    stay (n.2.setCluster { k with queue := k.queue ++ [r] }) c g p (.grant n.1 i) 9

/-- The amount operand (R212). -/
def amountOf (g : Group) (o : ROps) : Nat := (scalarB g o.b).toNat

/-- The marks of an instruction whose operand b is scalar. -/
def bMarks (o : ROps) : List Mark := marksR o .none .s .none

/-- An instruction that may have its answer from the Reeve: it retires by it, whatever its guard and its operand
read by now; without one, `k` (R204, R208). -/
def answeredOr (s : State) (k : Result) (f : Cur → Group → Path → Grant → Result) : Result :=
  withPath s fun c g p =>
    match p.granted with
    | some x => f c g p x
    | none => k

/-- CLAIM (R213). -/
def execClaim (ty : RType) (o : ROps) (s : State) : Result :=
  answeredOr s (groupLevel s o.g [] fun c g p e =>
    withBlock s g fun b gr =>
      let new := amountOf g o
      let done (s : State) : Result := retire s c (g.applyMarks c.p.slot p.mask (bMarks o)) p
      let cap := (s.capVec (clusterOf b.core) (s.domainCap b)).getD
        (match ty with
         | .reg => b.core.toNat % 8
         | .tile => 8 + b.core.toNat % 8
         | .scr => 16
         | .eng => 17) 0
      if new < b.counted.get ty then fatal s c g p 0x30 e 0
      else if b.claim.get ty < new then
        if b.acqd.contains ty then fatal s c g p 0x31 e 0
        else if cap < new || (ty == .reg && 8 * gr.desc.groups < new) then fatal s c g p 0x30 e 0
        else request s c g p b ty new true false e (.claim ty o)
      else if new < b.claim.get ty then
        done ((s.setBlock { b with claim := b.claim.set ty new }).retestAll (clusterOf b.core))
      else done s)
    fun c g p _ => retire s c (g.applyMarks c.p.slot p.mask (bMarks o)) p

/-- What a granted ACQ leaves its group: for REG, more v-registers, which read zero (R198, R214). -/
def Group.grow (g : Group) (ty : RType) (n : Nat) : Group :=
  if ty == .reg then { g with regn := g.regn + 8 * n } else g

/-- An ACQ or ACQ.try retires: ACQ.try with 1 or 0 in s_d (R214). -/
def acquired (s : State) (c : Cur) (g : Group) (p : Path) (e : Word) (o : ROps) (try' ok : Bool) : Result :=
  if try' then commit s c g p e (sWrite o.d (if ok then 1 else 0) 0 (bMarks o))
  else retire s c (g.applyMarks c.p.slot p.mask (bMarks o)) p

/-- The checks of an ACQ or ACQ.try, its request, and its retirement by the Reeve's answer (R206, R213,
R214). An amount of 0 counts as granted (log 41, DEDUCED). -/
def acquireUnits (ty : RType) (o : ROps) (try' : Bool) (i : Instr) (s : State) : Result :=
  answeredOr s (groupLevel s o.g [] fun c g p e =>
    withBlock s g fun b _ =>
      let n := amountOf g o
      if n = 0 then acquired (s.setBlock (b.markAcq ty)) c g p e o try' true
      else if ty == .reg && 64 < g.regn + 8 * n then fatal s c g p 0x30 e 0
      else request s c g p b ty n false try' e i)
    fun c g p x =>
      withBlock s g fun b _ =>
        if x.ok then acquired (s.setBlock (b.takeUp ty x.amt)) c (g.grow ty x.amt) p x.lanes o try' true
        else acquired s c g p x.lanes o try' false

/-- ACQ (R214). -/
def execAcq (ty : RType) (o : ROps) (s : State) : Result := acquireUnits ty o false (.acq ty o) s

/-- ACQ.try (R214). -/
def execAcqTry (ty : RType) (o : ROps) (s : State) : Result := acquireUnits ty o true (.acqTry ty o) s

/-- A release of REG removes the highest-numbered registers (R87, R215); a group that then holds more
physical registers than its limit is compacted (R148; log 9, DESIGN CHOICE). -/
def Group.shrink (g : Group) (n : Nat) : Group :=
  let cut (m : List MapEntry) : List MapEntry :=
    (List.range m.length).map fun i => if i < n then mapEntry m i else ⟨none, 0⟩
  let g := { g with regn := n, m0 := cut g.m0, m1 := cut g.m1 }.freePhys
  if n + 32 < g.phys.length && g.slot1.isSome then g.compact else g

/-- REL (R215): REG goes back at once; TILE, SCR and ENG once their accesses are complete (R210). -/
def execRel (ty : RType) (o : ROps) (s : State) : Result :=
  groupLevel s o.g [] fun c g p e =>
    withBlock s g fun b _ =>
      let n := amountOf g o
      let held := if ty == .reg then g.regn / 8 else b.alloc.get ty
      if n = 0 then retire s c (g.applyMarks c.p.slot p.mask (bMarks o)) p
      else if (s.cluster (clusterOf b.core)).busyFor g.id || g.hasAnswer then stay s c g p .retry 9
      else if held < n || (ty == .reg && g.regn < 8 * n + 8) then fatal s c g p 0x32 e 0
      else if ty == .reg then
        let s := s.setBlock { b with alloc := b.alloc.set .reg (b.alloc.reg - n) }
        retire (s.retestAll (clusterOf b.core)) c
          ((g.shrink (g.regn - 8 * n)).applyMarks c.p.slot p.mask (bMarks o)) p
      else stay s c g p (.rel ty n o) 10

/-- RSTAT (R216). -/
def execRstat (ty : RType) (it : RItem) (o : ROps) (s : State) : Result :=
  groupLevel s o.g [] fun c g p e =>
    withBlock s g fun b _ =>
      let cl := clusterOf b.core
      let hs := (s.residents cl).map fun x => x.holding
      let i := match ty with
        | .reg => b.core.toNat % 8
        | .tile => 8 + b.core.toNat % 8
        | .scr => 16
        | .eng => 17
      let v := match it with
        | .held => b.alloc.get ty
        | .claim => b.claim.get ty
        | .avail => min ((s.availOf cl hs).getD i 0) ((s.davailOf cl hs b).getD i 0)
        | .grp => g.regn / 8
      commit s c g p e (sWrite o.d (BitVec.ofNat 64 v) 0 [])

end Sys2Proof.Machine
end

