-- ==== Sys2Proof/Machine/Engine.lean ====
section
/-!
DEFINITION. The memory accesses of the device's own parties: Carter, array, Mill, arriving fabric
transactions; pieces of ranges, their permissions, and the pauses for absent pages (R225, R263, R267,
R327, R394).
The model's own choices here: DESIGN CHOICE, logs 21, 42.
-/
namespace Sys2Proof.Machine

/-- A party's request to another die: its answer if it has come, else wait; it is sent once, and a read of host space
once it has a tag (R259, R263, R375). -/
def State.askOp (s : State) (die : BitVec 2) (vd : BitVec 8) (who : Asker) (a : Access) (k : LineKey) :
    LineOut × State :=
  let mine (q : Request) : Bool := q.who == who && q.key == k && q.kind == a
  match s.resps.find? fun x => x.there && mine x.req with
  | some x => (answered a x.res, s)
  | none =>
    if s.reqs.any mine || s.resps.any (fun x => mine x.req) || s.noTag vd a k then (.wait, s)
    else (.wait, (s.send who die vd a k 4096).2)

/-- A party forgets the answers it holds: its access is over. -/
def State.forgetAnswers (s : State) (who : Asker) : State :=
  { s with resps := s.resps.filter fun x => !(x.there && x.req.who == who) }

/-- One line at its home as a party of a die reaches it: of its own die at once, refused with cause 0x21; of
another die by a request (R263, R267, R394). -/
def State.reachLine (s : State) (die : BitVec 2) (vd : BitVec 8) (who : Asker) (a : Access) (k : LineKey) :
    LineOut × State :=
  if s.keyBusy k then (.wait, s)
  else if s.keyDie k != die then s.askOp die vd who a k
  else match k with
  | .mem home vd la =>
    match s.homeFetch home vd la with
    | .ok (h, s') => (checked false a h.bytes (some h.leaf), s')
    | .error .absent => (.cause 0x20, s)
    | .error .tableError => (.cause 0x21, s)
  | .host vd la => s.hostLine a vd la
  | .scr _ _ | .tile _ _ => (.ok (s.bankLine k) none, s)

/-- The lines of an access of a party. -/
def State.reachAll (s : State) (st : Site) (who : Asker) (r : Region) (a : Access) :
    List Nat → List LineRes × State
  | [] => ([], s)
  | la :: t =>
    let k := s.keyOf st r la
    match s.reachLine st.die st.vd who a k with
    | (out, s) =>
      match State.reachAll s st who r a t with
      | (rest, s) => (⟨la, k, out⟩ :: rest, s)

/-- What an access of a party comes to: its lines, a fatal cause or an absent page with its first
address, or waiting. -/
inductive Reached where
  | ok (rs : List LineRes)
  | cause (c : BitVec 8) (a : Nat)
  | wait
  deriving DecidableEq, Repr

/-- The verdict on a party's lines, in the order of R169. -/
def reached (addrs : List Nat) (rs : List LineRes) : Reached :=
  let at' (c : BitVec 8) : Option Nat :=
    match rs.find? fun x => x.out == .cause c with
    | some x => some ((addrs.find? fun a => a / 128 * 128 == x.la).getD x.la)
    | none => none
  if rs.any fun x => x.out == .wait then .wait
  else match at' 0x21, at' 0x22, at' 0x60, at' 0x20 with
    | some a, _, _, _ => .cause 0x21 a
    | none, some a, _, _ => .cause 0x22 a
    | none, none, some a, _ => .cause 0x60 a
    | none, none, none, some a => .cause 0x20 a
    | none, none, none, none => .ok rs

/-- An access of a party to a list of addresses of a region; its answers are kept. -/
def State.reachKeep (s : State) (st : Site) (who : Asker) (r : Region) (a : Access) (addrs : List Nat) :
    Reached × State :=
  match s.reachAll st who r a (linesOf addrs) with
  | (rs, s) => (reached addrs rs, s)

/-- An access of a party to a list of addresses of a region; once it does not wait any more, its answers are
used up. -/
def State.reach (s : State) (st : Site) (who : Asker) (r : Region) (a : Access) (addrs : List Nat) :
    Reached × State :=
  match s.reachKeep st who r a addrs with
  | (.wait, s) => (.wait, s)
  | (q, s) => (q, s.forgetAnswers who)

/-- The bytes of the reached lines at some addresses. -/
def reachedBytes (rs : List LineRes) (addrs : List Nat) : List Byte :=
  let ls := rs.map fun x => (x.la, match x.out with
    | .ok bs _ => bs
    | _ => zeroLine)
  addrs.map (byteAt ls)

/-- What stands at the homes of the reached lines at some addresses (R282). -/
def State.oldBytes (s : State) (rs : List LineRes) (addrs : List Nat) : List Byte :=
  let ls := rs.map fun x => (x.la, match x.out with
    | .ok _ l => s.coherent x.key l
    | _ => zeroLine)
  addrs.map (byteAt ls)

/-- Bytes that have travelled with their request and are now written at the homes of their lines; they update a copy in
the RDC of the party's die (R173, R259, R282; log 42, DESIGN CHOICE). -/
def State.storeAt (s : State) (die : BitVec 2) (rs : List LineRes) (bs : List StoreByte) : State :=
  rs.foldl (fun s x =>
    let e := entryFor 0 x.la x.key (match x.out with
      | .ok _ l => l
      | _ => none) 0 bs
    let s := s.arriveLine x.key e.bytes e.marks e.leaf
    match s.rdcLine? die x.key with
    | some r => s.setRdc { r with bytes := mergeBytes r.bytes e.bytes e.marks 0 }
    | none => s) s

/-- Bytes a party writes: those of lines homed on its own die are there at once; those of another die's set out as a
store does, past the RDC, and the party waits for their acknowledgments (R10, R173, R259, R263). -/
def State.sendAt (s : State) (st : Site) (who : Asker) (rs : List LineRes) (bs : List StoreByte) : State :=
  rs.foldl (fun s x =>
    let n := s.newId
    let e := entryFor n.1 x.la x.key (match x.out with
      | .ok _ l => l
      | _ => none) 0 bs
    let home := s.keyDie x.key
    if home == st.die then s.arriveLine x.key e.bytes e.marks e.leaf
    else
      let s := n.2.passRdc st.die e
      { s with flight := s.flight ++ [⟨n.1, 0, some who, st.vd, st.core, Transit.start st.die home lineFlits, e, false,
          some (s.timebase.toNat + s.dline st.die)⟩] }) s

/-- Whether writes of a party are on their way or unacknowledged, and whether an acknowledgment of one has expired
(R263, R264). -/
def State.sending (s : State) (who : Asker) : Bool := s.flight.any fun f => f.who == some who

@[inherit_doc State.sending]
def State.lost (s : State) (who : Asker) : Bool := s.flight.any fun f => f.who == some who && f.deadline == some 0

/-- A party that waits no more: what it has written arrives, unacknowledged. -/
def State.disown (s : State) (who : Asker) : State :=
  { s with flight := s.flight.filterMap fun (f : Flight) =>
      if f.who != some who then some f else if f.arrived then none else some { f with deadline := none } }

/-- Bytes that an atomic of a party of a die leaves at the homes of their lines; the die's RDC keeps no copy of
them (R259, R282). -/
def State.atomAt (s : State) (die : BitVec 2) (rs : List LineRes) (bs : List StoreByte) : State :=
  (rs.foldl (fun (s : State) x => s.dropRdc die x.key) s).storeAt die rs bs

/-- Whether stores to some lines are on their way that an operation handed over by a group must read: the
group's own, until they are acknowledged, and those of other groups it has observed, until they have arrived
(R222, R238, R288, R290). -/
def State.unackedIn (s : State) (grp : Nat) (keys : List LineKey) : Bool :=
  let seen := match s.group? grp with
    | some g => g.obs
    | none => []
  s.flight.any fun f => f.who.isNone && keys.contains f.entry.key && (f.grp == grp || (!f.arrived && seen.contains f.id))

/-- An endpoint's region; host space is not checked here, since a copy there completes with cause 0x41
(R220, R260, R375). -/
def State.endRegion (s : State) (b : Block) (gr : Grid) (h : Handle) : Option Region :=
  if h.space == 8 then some ⟨h, b.id, h.length, none⟩ else s.regionOf b gr h

/-- The addresses of `n` bytes of an endpoint from byte `i` on (R221). -/
def endAddrs (r : Region) (x : Endpoint) (i n : Nat) : List Nat :=
  (List.range n).map fun j => r.addr (x.off + i + j)

/-- The bytes of the next piece of a range at an address: up to the line's end, whole elements of `es`
bytes. -/
def pieceLen (a left es : Nat) : Nat :=
  let room := (128 - a % 128) / es * es
  min left (if room = 0 then es else room)

/-- An addition of an add copy on one element, by its size (R221). -/
def addElem (es old new : Nat) : Nat :=
  if es = 4 then (fadd32 none (BitVec.ofNat 32 old) (BitVec.ofNat 32 new)).1.toNat
  else (hadd2 none (BitVec.ofNat 32 old) (BitVec.ofNat 32 new)).1.toNat % 2 ^ 16

/-- The sums of the elements of two byte lists (R221); `n` bounds the elements. -/
def addBytes (es : Nat) : Nat → List Byte → List Byte → List Byte
  | 0, _, _ => []
  | n + 1, old, new =>
    if old.isEmpty then []
    else bytesOfNat es (addElem es (natOfBytes (old.take es)) (natOfBytes (new.take es))) ++
      addBytes es n (old.drop es) (new.drop es)

/-- Bytes of an element of a copy (R221). -/
def copyElem : CopyOp → Nat
  | .mov => 1
  | .fadd => 4
  | .hadd => 2

/-- What a copy needs of a destination's leaf (R219, R270). -/
def copyAccess (op : CopyOp) : Access := if op == .mov then .write else .atomic

/-- The sums of an addition's elements and what stands at their homes (R221). -/
def State.addAt (s : State) (die : BitVec 2) (op : CopyOp) (rs : List LineRes) (addrs : List Nat)
    (new : List Byte) : State :=
  s.atomAt die rs (addrs.zip (addBytes (copyElem op) addrs.length (s.oldBytes rs addrs) new))

/-- What a copy leaves at reached destination lines: bytes it writes there, or sums (R221). -/
def State.copyPiece (s : State) (st : Site) (who : Asker) (op : CopyOp) (rs : List LineRes) (addrs : List Nat)
    (new : List Byte) : State :=
  if op == .mov then s.sendAt st who rs (addrs.zip new) else s.addAt st.die op rs addrs new

end Sys2Proof.Machine
end

