-- ==== Sys2Proof/Machine/Fabric.lean ====
section
/-!
DEFINITION. Fabric flits, their CRC, ports, and the sending of transactions (R383 to R388).
The model's own choices here: DESIGN CHOICE, log 36.
-/
namespace Sys2Proof.Machine

/-- One bit of CRC-32C, reflected. -/
def crcBit (c : Word) : Word :=
  if c.getLsbD 0 then (c >>> 1) ^^^ 0x82F63B78 else c >>> 1

/-- One byte of CRC-32C. -/
def crcByte (c : Word) (b : Byte) : Word :=
  (List.range 8).foldl (fun c _ => crcBit c) (c ^^^ b.setWidth 32)

/-- CRC-32C over bytes (R368, R386). -/
def crc32c (bs : List Byte) : Word := bs.foldl crcByte 0xFFFFFFFF ^^^ 0xFFFFFFFF

/-- The fields of a flit's header word (R386). -/
structure FlitHdr where
  seq : BitVec 12
  ack : BitVec 12
  vc  : BitVec 3
  sop : Bool
  eop : Bool
  deriving DecidableEq, Repr

/-- The header word (R386). -/
def FlitHdr.word (h : FlitHdr) : Word :=
  h.seq ++ h.ack ++ h.vc ++ BitVec.ofBool h.sop ++ BitVec.ofBool h.eop ++ (0 : BitVec 3)

/-- Reads a header word (R386). -/
def hdrOf (w : Word) : FlitHdr :=
  ⟨w.extractLsb' 20 12, w.extractLsb' 8 12, w.extractLsb' 5 3, w.getLsbD 4, w.getLsbD 3⟩

/-- A flit with its CRC over bytes 0 to 59 (R386). -/
def flitOf (h : FlitHdr) (payload : List Byte) : Flit :=
  let body := (payload ++ List.replicate (56 - payload.length) 0).take 56
  ⟨h.word, body, crc32c (bytesOfNat 4 h.word.toNat ++ body)⟩

/-- The 24 header bytes of a transaction (R388). -/
def txnHeader (kind : BitVec 8) (t : Txn) : List Byte :=
  [kind, t.svd] ++ bytesOfNat 2 t.src.toNat ++ bytesOfNat 2 t.dst.toNat ++ [t.win, t.why] ++
    bytesOfNat 4 t.tag.toNat ++ bytesOfNat 4 t.len.toNat ++ bytesOfNat 8 t.off.toNat

/-- The payloads of the flits that carry some bytes, 56 each; `n` bounds the flits. -/
def payloads : Nat → List Byte → List (List Byte)
  | 0, _ => []
  | n + 1, bs => if bs.length ≤ 56 then [bs] else bs.take 56 :: payloads n (bs.drop 56)

/-- A fabric port; a port nothing has used is down (R386). -/
def State.port (s : State) (n : BitVec 4) : Port :=
  match s.ports.find? fun p => p.num == n with
  | some p => p
  | none => ⟨n, .down, 0, 0, [], [], false, none, 0⟩

/-- Puts a port back. -/
def State.setPort (s : State) (p : Port) : State :=
  { s with ports := upsert (fun x => x.num == p.num) p s.ports }

/-- The place of FPSTATn (R377). -/
def fpstatKey (n : BitVec 4) : Nat := 0x40400 + 8 * n.toNat

/-- The package's fabric identity; 4,095 is unset (R383). -/
def State.fabId (s : State) : BitVec 12 := (s.reg 0x40300).setWidth 12

/-- The ports a virtual device's partition owns among those that lead to a peer, lowest first (R305,
R384). -/
def State.usablePorts (s : State) (vd : BitVec 8) (peer : BitVec 12) : List (BitVec 4) :=
  match s.partOf vd with
  | none => []
  | some p =>
    ((List.range 16).filter fun n =>
      (s.reg (0x60000 + 8 * peer.toNat)).getLsbD n && p.eng.getLsbD n).map fun n => BitVec.ofNat 4 n

/-- A transaction's bytes as flit payloads (R386, R388). -/
def txnPayloads (kind : BitVec 8) (t : Txn) : List (List Byte) :=
  let bs := txnHeader kind t ++ t.data
  payloads (bs.length / 56 + 1) bs

/-- Whether a port can keep some more flits beside those it keeps and those it has still to send (R387). -/
def Port.hasRoom (p : Port) (n : Nat) : Bool :=
  p.state == .up && p.sent.length + (p.queue.map fun x => x.rest.length).sum + n ≤ 1024

/-- A transaction is queued at a port (R388). -/
def Port.enqueue (p : Port) (x : Sending) : Port := { p with queue := p.queue ++ [x] }

/-- Hands a transaction to the lowest usable port that is up and has room; none when there is none (R384,
R387). -/
def State.sendTxn (s : State) (ports : List (BitVec 4)) (kind : BitVec 8) (vc : BitVec 3) (t : Txn)
    (tag : Option Word) : Option State :=
  let fs := txnPayloads kind t
  match ports.find? fun n => (s.port n).hasRoom fs.length with
  | some n =>
    some (s.setPort ((s.port n).enqueue ⟨t.svd, vc, tag, false, fs⟩))
  | none => none

/-- FDLINE in TB ticks (R388). -/
def State.fdline (s : State) : Nat := max 100000 ((s.reg 0x40308).toNat % 2 ^ 32)

/-- The transaction of which a port sends a virtual device's next flit. On one virtual channel the flits of two
transactions do not mix (R386; log 36, DESIGN CHOICE). -/
def Port.nextOf (p : Port) (vd : BitVec 8) : Option Sending :=
  p.queue.find? fun x => x.vd == vd && (x.begun || p.queue.all fun y => !(y.begun && y.vc == x.vc))

/-- A grant at a fabric port sends a virtual device's next flit, under the port's next number, and the port keeps
it until it is acknowledged; a request's deadline counts from its last flit (R311, R386 to R388; log 36, DESIGN
CHOICE). -/
def State.sendFlit (s : State) (n : BitVec 4) (vd : BitVec 8) : State :=
  let p := s.port n
  match p.nextOf vd with
  | none => s
  | some x =>
    if p.state != .up || 1024 ≤ p.sent.length then s
    else
      let last := x.rest.length ≤ 1
      let f := flitOf ⟨p.sendSeq, p.expSeq - 1, x.vc, !x.begun, last⟩ (x.rest.headD [])
      let q := { p with
        sendSeq := p.sendSeq + 1, ackAt := if p.sent.isEmpty then s.timebase.toNat else p.ackAt,
        sent := p.sent ++ [⟨f, 0, x.tag⟩],
        queue := if last then p.queue.erase x
          else p.queue.replace x { x with begun := true, rest := x.rest.drop 1 } }
      { s.setPort q with
        out := s.out ++ [.flit n f],
        txns := s.txns.map fun (m : SentTxn) =>
          if last && x.tag == some m.tag then { m with deadline := some (s.timebase.toNat + s.fdline) } else m }

end Sys2Proof.Machine
end

