-- ==== Sys2Proof/Machine/Trace.lean ====
section
/-!
DEFINITION. The trace ring and its records (R348, R356 to R358, R374).
The model's own choices here: DESIGN CHOICE, log 35.
-/
namespace Sys2Proof.Machine

/-- A register of a virtual device's Kenzu copy (R348). -/
def State.kz (s : State) (vd : BitVec 8) (o : Nat) : DWord := s.reg (kenzuKey vd o)

/-- Sets a register of a Kenzu copy. -/
def State.setKz (s : State) (vd : BitVec 8) (o : Nat) (v : DWord) : State := s.setReg (kenzuKey vd o) v

/-- A block's phase: the sum of its block-level phase counts modulo 2^16 (R348). -/
def Block.phaseSum (b : Block) : Nat := (b.bars.map fun x => x.phase).sum % 2 ^ 16

/-- A trace record (R357). -/
structure TraceRec where
  ty    : BitVec 8
  phase : Nat
  wh    : Word
  time  : DWord
  pc    : DWord
  value : Word
  mask  : Word
  data  : List Byte
  deriving DecidableEq, Repr

/-- Its 64 bytes (R357). -/
def TraceRec.bytes (r : TraceRec) : List Byte :=
  r.ty :: 0 :: bytesOfNat 2 r.phase ++ bytesOfNat 4 r.wh.toNat ++ bytesOfNat 8 r.time.toNat ++
    bytesOfNat 8 r.pc.toNat ++ bytesOfNat 4 r.value.toNat ++ bytesOfNat 4 r.mask.toNat ++
    (r.data ++ List.replicate (32 - r.data.length) 0).take 32

/-- The entries a trace ring holds (R356). -/
def State.trSize (s : State) (vd : BitVec 8) : Nat := 2 ^ ((s.kz vd 0x100).toNat % 16 + 6)

/-- Entries written and not consumed (R356, R358). -/
def State.trUsed (s : State) (vd : BitVec 8) : Nat :=
  ((s.kz vd 0x110).setWidth 32 - (s.kz vd 0x118).setWidth 32 : Word).toNat

/-- Whether a PGINV covers a virtual device's ring, so that a record waits (R271). -/
def State.traceBusy (s : State) (vd : BitVec 8) : Bool :=
  s.rangeBusy vd (s.kz vd 0x108).toNat (64 * s.trSize vd)

/-- One record more is lost (R358). -/
def State.trLose (s : State) (vd : BitVec 8) : State := s.bumpReg (kenzuKey vd 0x120)

/-- Writes records into adjacent free entries, or drops them whole and counts them lost; MSI-X
vector 1 reports a ring half full (R267, R358, R374). -/
def State.trace (s : State) (die : BitVec 2) (vd : BitVec 8) (rs : List TraceRec) : State :=
  let size := s.trSize vd
  if size < s.trUsed vd + rs.length then s.trLose vd
  else
    let head := (s.kz vd 0x110).setWidth 32
    let base := (s.kz vd 0x108).toNat
    let step (acc : Option State × Word) (r : TraceRec) : Option State × Word :=
      (acc.1.bind fun s => s.deviceWrite vd
        (BitVec.ofNat 56 (base + 64 * (acc.2.toNat % size))) r.bytes, acc.2 + 1)
    match (rs.foldl step (some s, head)).1 with
    | none => (s.countRefusal die vd .write (base + 64 * (head.toNat % size)) (64 * rs.length)).trLose vd
    | some s' =>
      let s' := s'.setKz vd 0x110 ((head + BitVec.ofNat 32 rs.length).setWidth 64)
      if s.trUsed vd < size / 2 && size / 2 ≤ s'.trUsed vd then
        { s' with out := s'.out ++ [.msix vd 1] }
      else s'

/-- Whether marks, stop and step records are traced (R356). -/
def State.tracing (s : State) (vd : BitVec 8) : Bool := (s.kz vd 0x100).getLsbD 63

/-- Whether block records are traced (R356). -/
def State.tracingBlocks (s : State) (vd : BitVec 8) : Bool := (s.kz vd 0x100).getLsbD 62

end Sys2Proof.Machine
end

