-- ==== Sys2Proof/Machine/System.lean ====
section
/-!
DEFINITION. System instructions, special registers, and the events of decode, fetch and trap
permits (R35, R58, R105, R154 to R165, R364).
The model's own choices here: DESIGN CHOICE, logs 4, 16, 30, 31, 35, 42; DEDUCED, logs 7, 8, 20, 27.
-/
namespace Sys2Proof.Machine

/-- Where a path goes on after the acting instruction (R156). -/
def resumeHdr (c : Cur) (p : Path) : Va := if c.last then c.next else p.hdr

/-- TRAP (R161): cause 0x71 with the operand's low word; it changes nothing else, a last-use mark neither
(R98; log 8, DEDUCED). -/
def execTrap (o : ROps) (s : State) : Result :=
  groupLevel s o.g [] fun c g p e =>
    deliver s c g p 0x71 e ((scalarB g o.b).setWidth 32) c.next (resumeHdr c p) []

/-- TRET (R163): cause 0x03 without a permit; then the check of R156, and the return. -/
def execTret (_ : ROps) (s : State) : Result :=
  withPath s fun c g p =>
    match p.handler with
    | none => fatal s c g p 0x03 p.mask 0
    | some h =>
      withBlock s g fun b _ =>
        match s.checkResume b c.p p g.trap.pc g.trap.hdr with
        | (.good, p, s) => trapReturn s c g p h.rest p.mask
        | (.wait, p, s) => stay s c g p .retry 0
        | (.bad, p, s) => fatal s c g p 0x01 p.mask 0

/-- A stop by the debugger takes effect at every path's next retirement boundary (R351). -/
def Block.requestStop (b : Block) (why : Option (PathRef × BitVec 8)) : Block :=
  if b.dbgReq || b.dbg then b else { b with dbgReq := true, dbgWhy := why }

/-- BRK (R162): a debugger's stop when KZCTL.BRKEN is set, else cause 0x70. -/
def execBrk (o : ROps) (s : State) : Result :=
  groupLevel s o.g [] fun c g p e =>
    withBlock s g fun b _ =>
      if (s.kz b.vd 0x008).getLsbD 59 then
        retire (s.setBlock (b.requestStop (some (c.p, 0x70)))) c g p
      else deliver s c g p 0x70 e 0 c.next (resumeHdr c p) []

/-- Reads bytes at a VA for the device itself, through the lines' homes; none where a page is absent
or not readable. -/
def State.deviceRead (s : State) (vd : BitVec 8) (va : Nat) : Nat → Option (List Byte × State)
  | 0 => some ([], s)
  | n + 1 =>
    let a : Va := BitVec.ofNat 56 va
    match s.homeFetch (s.homeOf vd a) vd a with
    | .error _ => none
    | .ok (h, s) =>
      if !h.leaf.r then none
      else
        match State.deviceRead s vd (va + 1) n with
        | some (bs, s) => some (h.bytes.getD (a.toNat % 128) 0 :: bs, s)
        | none => none

/-- Note number `idx`, from its bytes (R79): at most three ranges are read, whatever nrange says, and bits that must
be zero are not looked at (log 16, DESIGN CHOICE). -/
def noteOf (idx : Nat) (bs : List Byte) : LiveNote :=
  let w (o n : Nat) : Nat := natOfBytes ((bs.drop o).take n)
  let nr := (bs.getD 0x11 0).toNat
  { idx := idx, vlive := BitVec.ofNat 64 (w 0 8), slive := BitVec.ofNat 64 (w 8 8), plive := bs.getD 0x10 0,
    ranges := (List.range (min nr 3)).map fun i => (w (0x18 + 8 * i) 4, w (0x1C + 8 * i) 4) }

/-- Whether a note suits the group: no v-register at or above its allocation, and no range outside
the block's scratch allocation (R164). A note that breaks R79 otherwise is used as it stands: R79 gives no
outcome for it (log 16, DESIGN CHOICE). -/
def noteFits (n : LiveNote) (regn : Nat) (scr : Nat) : Bool :=
  n.vlive.toNat < 2 ^ regn && n.ranges.all fun r => r.1 + r.2 ≤ unitBytesOf scr
where
  /-- Bytes of `h` SCR units (R196). -/
  unitBytesOf (h : Nat) : Nat := 16384 * h

/-- Whether a group is fully reconverged: one path with the full mask of live lanes, an empty stack and an
empty replay queue (R315). -/
def Group.reconverged (g : Group) : Bool :=
  g.slot1.isNone && g.stack.isEmpty && g.replay.isEmpty && (match g.slot0 with
    | some p => p.mask == p.lanes
    | none => false)

/-- A path that stops drops its unretired instruction, which executes again later; a place at a JOIN and a
parked instruction stay (R100, R208). The permit of its handler is given back (R154), and what its core knows
of it besides ends. -/
def Path.stopped (p : Path) : Path :=
  let p := { p with handler := p.handler.map (fun (h : Handler) => { h with permit := false }),
                    starved := none, leaving := false, yielded := 0, rob := [], due := [], granted := none }
  match p.wait with
  | some w => (match w.kind with
    | .parked _ => p
    | _ => if p.joining then p else { p with wait := none, pend := [] })
  | none => { p with pend := [] }

/-- What a core and a feed queue remember of a group's paths ends (R150, R155, R338). -/
def State.forgetPaths (s : State) (core : BitVec 9) (grp : Nat) : State :=
  let k := s.core core
  let s := s.setCore { k with
    picks := k.picks.filter fun x => x.path.grp != grp,
    pinned := k.pinned.filter fun r => r.grp != grp,
    holds := k.holds.filter fun x => x.1.grp != grp }
  { s with grids := s.grids.map fun (gr : Grid) =>
      { gr with levels := gr.levels.map fun (d : DieLevel) =>
          { d with feed := d.feed.map fun (f : FeedQueue) =>
              { f with sleepers := f.sleepers.filter fun r => r.grp != grp } } } }

/-- A group stops to be saved: its paths drop what has not retired, its request at the Reeve is withdrawn and
units granted to a path go back, its permits come back, its stack is written with the paths' ages, and its core
and its feed queue forget its paths (R90, R100, R154, R208, R315). -/
def State.stopGroup (s : State) (b : Block) (g : Group) (note : Option LiveNote) : State :=
  let grants := g.paths.filterMap fun p => p.granted
  let s := if grants.isEmpty then s
    else (s.setBlock (grants.foldl Block.giveBack b)).retestAll (clusterOf b.core)
  let s := match s.stackImage b g.idx g.stack with
    | some s => s
    | none => s
  let s := (s.setGroup { g with
    phase := .stopped, note := note, slot0 := g.slot0.map Path.stopped,
    slot1 := g.slot1.map Path.stopped, stack := g.stack.map Path.stopped }).withdraw g.id
  (s.forgetPaths b.core g.id).returnPermits b.core g.permitsHeld

/-- PPT (R164): a bad note takes cause 0x01; with a stop pending for a reconverged group inside the
window of R315, the group stops after it. A note the device cannot read stops nothing (log 16, DESIGN CHOICE). -/
def execPpt (o : ROps) (s : State) : Result :=
  withPath s fun c g p =>
    withBlock s g fun b gr =>
      let n := (uniformB g o.b).toNat
      if gr.desc.nlive ≤ n then fatal s c g p 0x01 p.mask 0
      else
        if s.rangeBusy b.vd (gr.desc.livetab.toNat + 48 * n) 48 then stay s c g p .retry 3 else
        match s.deviceRead b.vd (gr.desc.livetab.toNat + 48 * n) 48 with
        | none => retire (s.countRefusal (dieOf b.core) b.vd .read (gr.desc.livetab.toNat + 48 * n) 48) c g p
        | some (bs, s) =>
          let note := noteOf n bs
          if !noteFits note g.regn b.alloc.scr then fatal s c g p 0x01 p.mask 0
          else
            match b.stop with
            | some since =>
              if s.stackBusy b g.idx then stay s c g p .retry 3
              else if g.reconverged && s.timebase.toNat < since + 20000 then
                .next (s.stopGroup b (g.setPath c.p.slot (some (p.advance c))) (some note))
              else retire s c g p
            | none => retire s c g p

/-- The special registers of the map, outside 0x100 to 0x1FF (R158). -/
def specialKnown (n : Nat) : Bool :=
  n ≤ 0x00A || (0x010 ≤ n && n ≤ 0x017) || (0x020 ≤ n && n ≤ 0x035)

/-- PLACE (R158). -/
def placeWord (b : Block) (g : Group) : DWord :=
  BitVec.ofNat 64 (g.place.toNat + 16 * b.core.toNat)

/-- MFGID's contents from a die's fused record (R363, R368). -/
def mfgId (rec' : Memory) : DWord :=
  BitVec.ofNat 64 (natOfBytes (Memory.readN rec' 8 2) + (Memory.read rec' 0x11).toNat * 2 ^ 16)

/-- A special register's value, zero-extended (R158, R255, R363). -/
def specialValue (s : State) (b : Block) (c : Cur) (g : Group) (p : Path) (n : Nat) : DWord :=
  let nat (x : Nat) : DWord := BitVec.ofNat 64 x
  let die := (dieOf b.core).toNat
  match n with
  | 0x000 => g.fstat.setWidth 64
  | 0x001 => nat g.idx
  | 0x002 => nat b.ngrp
  | 0x003 => nat b.bid
  | 0x004 => nat b.nblk
  | 0x005 => nat b.cid
  | 0x006 => nat b.nclu
  | 0x007 => nat b.dieid
  | 0x008 => nat b.diedim
  | 0x009 => nat (5 * die)
  | 0x00A => nat b.blin
  | 0x010 => s.timebase
  | 0x011 => p.mask.setWidth 64
  | 0x012 => if c.p.slot then 1 else 0
  | 0x013 => nat g.regn
  | 0x014 => nat g.stack.length
  | 0x015 => nat b.vd.toNat
  | 0x016 => placeWord b g
  | 0x017 => 120
  | 0x030 => g.trap.cause.setWidth 64
  | 0x031 => g.trap.pc
  | 0x032 => g.trap.hdr
  | 0x033 => g.trap.mask.setWidth 64
  | 0x034 => g.trap.code.setWidth 64
  | 0x035 => g.trap.addr
  | 0x100 => match s.defects.find? fun d => d.1 == dieOf b.core with
    | some d => mfgId d.2
    | none => 0
  | _ => if 0x020 ≤ n && n < 0x030 then (g.stall.getD (n - 0x020) 0).setWidth 64 else 0

/-- The checks of RDSR and WRSR, whatever the guard holds (R58, R59, R159). -/
def special (o : ROps) (s : State) (k : Cur → Group → Path → Word → Nat → Result) : Result :=
  withPath s fun c g p =>
    let n := (uniformB g o.b).toNat
    let mfg := 0x100 ≤ n && n ≤ 0x1FF
    if !(specialKnown n || mfg) then fatal s c g p 0x01 p.mask 0
    else if mfg && !s.mfg then fatal s c g p 0x03 p.mask 0
    else
      let e := p.mask &&& g.guard o.g
      if e = 0 then retire s c g p else k c g p e n

/-- RDSR (R159). -/
def execRdsr (o : ROps) (s : State) : Result :=
  special o s fun c g p e n =>
    withBlock s g fun b _ =>
      commit s c g p e (sWrite o.d (specialValue s b c g p n) 0 [])

/-- The effect of a write on a special register: FSTAT's flags clear where the value has ones, TPC
and TPH take it inside a handler, every other register ignores it (R25, R158, R159). -/
def writeSpecial (g : Group) (p : Path) (n : Nat) (v : DWord) : Group :=
  match n with
  | 0x000 => { g with fstat := g.fstat &&& ~~~(v.setWidth 32) }
  | 0x031 => if p.handler.isSome then { g with trap := { g.trap with pc := v } } else g
  | 0x032 => if p.handler.isSome then { g with trap := { g.trap with hdr := v } } else g
  | _ => g

/-- WRSR (R159). -/
def execWrsr (o : ROps) (s : State) : Result :=
  special o s fun c g p _ n =>
    retire s c ((writeSpecial g p n (g.sreg o.a)).applyMarks c.p.slot p.mask (markOf o.la .s o.a)) p

/-- TRMARK (R165, R357): its record does not wait, a PGINV over the trace ring or not (log 35, DESIGN CHOICE). -/
def execTrmark (o : ROps) (s : State) : Result :=
  groupLevel s o.g [] fun c g p _ =>
    withBlock s g fun b _ =>
      let r : TraceRec := ⟨1, b.phaseSum, whereOf b g.idx, s.timebase, p.pc.setWidth 64,
        (scalarB g o.b).setWidth 32, p.mask, []⟩
      let s := if s.tracing b.vd then s.trace (dieOf b.core) b.vd [r] else s
      retire s c (g.applyMarks c.p.slot p.mask (marksR o .none .s .none)) p

/-- The result of a March C- run: what the array's cells do is the silicon's, a free value; with no
failing word the index is all ones (R364; log 4, DESIGN CHOICE). -/
def marchResult (w : BitVec 64) : DWord :=
  if w.extractLsb' 32 32 = 0 then 0xFFFFFFFF else w

/-- Whether other blocks or held units keep BIST from running (R364). -/
def bistBusy (s : State) (b : Block) (cls : BistClass) : Bool :=
  let other (f : Block → Bool) : Bool :=
    s.blocks.any fun x => x.id != b.id && x.phase == .resident && f x
  match cls with
  | .vrf | .l1 => other fun x => x.core == b.core
  | .tile => (other fun x => x.core == b.core) || b.alloc.tile != 0
  | .scr => (other fun x => clusterOf x.core == clusterOf b.core) || b.alloc.scr != 0

/-- What BIST leaves of the array it tested: every word of it reads zero. The physical registers of the core are
those of its block's groups; a tested L1 holds no line, its stores having come to their homes first (R364). -/
def State.bistClear (s : State) (b : Block) (grp : Nat) (cls : BistClass) : State :=
  match cls with
  | .vrf => { s with groups := s.groups.map fun (g : Group) =>
      if g.blk == b.id && g.id != grp then
        { g with phys := g.phys.map fun (q : PhysReg) => { q with lanes := List.replicate 32 0 } }
      else g }
  | .l1 => s.clearL1 b.core
  | .tile | .scr => s

/-- BIST (R364): outside manufacturing mode cause 0x03; its path's oldest instruction, it first counts under stall
reason 6, and retires when it next acts, its run over. -/
def execBist (cls : BistClass) (o : ROps) (s : State) : Result :=
  withPath s fun c g p =>
    withBlock s g fun b _ =>
      let e := p.mask &&& g.guard o.g
      if !s.mfg || bistBusy s b cls then fatal s c g p 0x03 p.mask 0
      else if e = 0 then retire s c g p
      else
        if p.wait.isNone then stay s c g p .retry 6
        else
          let v := marchResult (Config.railWord s.free (s.rails (dieOf b.core)))
          commit ({ s with free := s.free + 1 }.bistClear b g.id cls) c g p e (sWrite o.d v 0 [])

/-- ILLEGAL_INSTRUCTION_WORD (R58, R59): the path's next position is an illegal word; the fault
names the word's address and the whole active mask. -/
def execIllegalInstructionWord (r : PathRef) (addr : Va) (cause : BitVec 8) (s : State) : Result :=
  match fetch s r with
  | .run s' (.illegalInstructionWord _ a cz) =>
    if a == addr && cz == cause then
      match s'.group? r.grp with
      | none => .next s
      | some g =>
        match g.path r.slot with
        | none => .next s
        | some p => s'.freeze g r.slot addr p.hdr cause p.mask 0 0
    else .next s
  | _ => .next s

/-- The first word of the path's code that cannot be fetched, and its cause (R105). -/
def State.codeFault (s : State) (st : Site) (p : Path) : List Va → Option (BitVec 8 × Va)
  | [] => none
  | a :: t =>
    match s.codeWord st p a with
    | (.cause c, _, _) => some (c, a)
    | _ => State.codeFault s st p t

/-- The words of a path's code, from its clause's header to its instruction's last word. -/
def codeSpan (p : Path) : List Va :=
  (List.range ((p.pc.toNat - p.hdr.toNat) / 4 + 5)).map fun i => p.hdr + BitVec.ofNat 56 (4 * i)

/-- FETCH_FAULT (R105): cause 0x20 waits for the host's answer under stall reason 0; every other
refusal is fatal. -/
def execFetchFault (r : PathRef) (s : State) : Result :=
  match fetch s r with
  | .run s' (.fetchFault _) =>
    match s'.group? r.grp with
    | none => .next s
    | some g =>
      match g.path r.slot, s'.block? g.blk with
      | some p, some b =>
        match s'.codeFault ⟨b.core, b.vd, r⟩ p (codeSpan p) with
        | none => .next s'
        | some (c, a) =>
          if c = 0x20 then
            let x := s'.sendFault b.vd 0 a p.pc p.mask (whereOf b g.idx) 8 (.fetch r)
            let w : Wait := ⟨.fetch x.1, 0, x.2.timebase.toNat, p.pc, false⟩
            .next (x.2.setGroup (g.setPath r.slot (some { p with wait := some w, pend := [] })))
          else
            s'.freeze g r.slot p.pc p.hdr (if c = 0x22 then 0x21 else c) p.mask 0
              (if c = 0x60 then 0 else a.setWidth 64)
      | _, _ => .next s
  | _ => .next s

/-- CLAUSE_WAIT_SATISFIED (R35): the counter has come to the threshold; the clause's first
instruction may issue. -/
def execClauseWaitSatisfied (r : PathRef) (s : State) : Result :=
  completeWait s r fun _ g p k =>
    match k, s.block? g.blk with
    | .clause, some b =>
      match s.codeWord ⟨b.core, b.vd, r⟩ p p.hdr with
      | (.ok [w], p, s') =>
        match decodeHeader w with
        | .ok h =>
          if g.clauseReady h then
            let x := s'.observeWait b g h.wait
            .next (x.2.setGroup (x.1.setPath r.slot (some { p with pc := p.hdr + 4, wait := none })))
          else .next s
        | .error _ => .next s
      | _ => .next s
    | _, _ => .next s

/-- TRAP_BACKOFF_RETRY (R155): the back-off is over; the path fetches its instruction again. -/
def execTrapBackoffRetry (r : PathRef) (s : State) : Result :=
  completeWait s r fun _ g p k =>
    match k with
    | .backoff 0 => .next (s.setGroup (g.setPath r.slot (some { p with wait := none })))
    | _ => .next s

/-- PERMIT_HOLD_EXPIRY (R155): after 8,192 core cycles a held permit is free for any path. -/
def execPermitHoldExpiry (core : BitVec 9) (s : State) : Result :=
  let k := s.core core
  .next (s.setCore { k with holds := k.holds.filter fun x => k.cycle < x.2 })

end Sys2Proof.Machine
end

