-- ==== Sys2Proof/Machine/Carter.lean ====
section
/-!
DEFINITION. The Carter: COPY, QFENCE, CPOLL, SLEEPT, and how operations start, move, pause, fault and
complete (R218 to R230, R388, R389).
The model's own choices here: DESIGN CHOICE, logs 6, 21, 48; DEDUCED, log 7.
-/
namespace Sys2Proof.Machine

/-- A block's channel; one that has done nothing is empty (R218). -/
def Block.chan (b : Block) (n : Nat) : Channel :=
  match b.chans.find? fun c => c.num == n with
  | some c => c
  | none => ⟨n, [], false, []⟩

/-- Puts a channel back. -/
def Block.setChan (b : Block) (c : Channel) : Block :=
  { b with chans := upsert (fun x => x.num == c.num) c b.chans }

/-- The spaces a COPY admits at an endpoint (R219). -/
def copyAdmits (op : CopyOp) (dst : Bool) (space : Nat) : Bool :=
  match op, dst with
  | .mov, false => space ≤ 8
  | .mov, true => space ≤ 3 || (6 ≤ space && space ≤ 8)
  | _, false => space ≤ 6
  | _, true => space ≤ 3 || space == 6 || space == 7

/-- The permissions a COPY needs at an endpoint (R219). -/
def copyPerm (op : CopyOp) (dst : Bool) (perm : BitVec 8) : Bool :=
  match op, dst with
  | _, false => perm.getLsbD 0
  | .mov, true => perm.getLsbD 1
  | _, true => perm.getLsbD 0 && perm.getLsbD 1

/-- Check 3 of R220 for one endpoint. -/
def State.copyRegion (s : State) (b : Block) (gr : Grid) (op : CopyOp) (dst : Bool) (slot : BitVec 8) :
    Option Region :=
  match b.slotAt slot with
  | none => none
  | some h =>
    if copyAdmits op dst h.space.toNat && copyPerm op dst h.perm then s.endRegion b gr h else none

/-- An endpoint's fixed term and rate in a promise (R224). -/
structure Pace where
  f : Nat
  r : Nat
  deriving DecidableEq, Repr

/-- The home dies of a range, by its 64 KiB granules (R224, R258). -/
def State.homesOf (s : State) (vd : BitVec 8) (a n : Nat) : List (BitVec 2) :=
  (List.range ((a % 65536 + n + 65535) / 65536)).map fun i =>
    s.homeOf vd (BitVec.ofNat 56 ((a / 65536 + i) * 65536))

/-- The pace of memory homed on a die, seen from another (R224). -/
def diePace (me home : BitVec 2) : Pace :=
  if home == me then ⟨120, 256⟩ else if home == me + 2 then ⟨260, 256⟩ else ⟨200, 256⟩

/-- The pace of an endpoint (R224, R389). -/
def State.paceOf (s : State) (b : Block) (r : Region) (off n : Nat) : Pace :=
  let die := dieOf b.core
  match r.h.space.toNat with
  | 1 | 3 => ⟨20, 512⟩
  | 2 =>
    match s.block? r.blk with
    | some t =>
      match latencyClass b t with
      | 0 => ⟨20, 512⟩
      | 1 => ⟨100, 256⟩
      | _ => diePace die (dieOf t.core)
    | none => ⟨20, 512⟩
  | 6 => diePace die die
  | 7 => ⟨2500, 128⟩
  | 8 => ⟨1500, 64⟩
  | _ => (s.homesOf b.vd (r.addr off) n).foldl (fun (p : Pace) h =>
      let q := diePace die h
      if p.f < q.f then q else p) ⟨120, 256⟩

/-- The promise of R224, by its formula. R224 adds that promises of one channel never decrease; where the formula gives
less than an earlier one, whose operation has completed before it, the formula stands (log 21, DESIGN CHOICE). -/
def promiseOf (t q : Nat) (a b : Pace) (len w : Nat) : Nat :=
  let r := min a.r b.r
  max t q + max a.f b.f + (len * w + r - 1) / r

/-- The v- and s-register sources a COPY marks (R220). -/
def copyMarks (o : ROps) : List Mark := marksR o .s .s .s

/-- COPY (R220, R222, R224): its checks, its block-scope release, its hand-over and its promise. The VA that the
record of cause 0x12 carries is the destination's, whichever of the two offsets or the length is misaligned (R157,
R220; log 48, DESIGN CHOICE). -/
def execCopy (op : CopyOp) (ch : BitVec 4) (o : ROps) (s : State) : Result :=
  groupLevel s o.g [] fun c g p e =>
    withBlock s g fun b gr =>
      let len := (g.sreg o.c).toNat
      let ld := locatorOf (g.sreg o.a)
      let ls := locatorOf (scalarB g o.b)
      let es := copyElem op
      if b.alloc.eng ≤ ch.toNat then fatal s c g p 0x30 e 0
      else if 2 ^ 30 < len then fatal s c g p 0x01 p.mask 0
      else
        match s.copyRegion b gr op true ld.slot, s.copyRegion b gr op false ls.slot with
        | some rd, some rs =>
          let beyond (r : Region) (off : Nat) : Bool := !r.inside off len
          if beyond rd ld.off then fatal s c g p 0x10 e (offAddr rd 0 e fun _ => (ld.off : Int))
          else if beyond rs ls.off then fatal s c g p 0x10 e (offAddr rs 0 e fun _ => (ls.off : Int))
          else if ld.off % es ≠ 0 || ls.off % es ≠ 0 || len % es ≠ 0 then
            fatal s c g p 0x12 e (offAddr rd 0 e fun _ => (ld.off : Int))
          else if !s.released g .blk then stay s c g p .retry 12
          else
            let chan := b.chan ch.toNat
            let now := s.timebase.toNat
            let n := s.newId
            let gm := { g with lastOp := some n.1 }
            if len = 0 then commit n.2 c gm p e (sWrite o.d s.timebase 0 (copyMarks o))
            else if 16 ≤ chan.queue.length then stay s c g p .retry 6
            else
              let q := match chan.queue.getLast? with
                | some x => x.promise.toNat
                | none => 0
              let w := if op == .mov then 1 else 2
              let prom : DWord := BitVec.ofNat 64
                (promiseOf now q (s.paceOf b rd ld.off len) (s.paceOf b rs ls.off len) len w)
              let x : CarterOp := {
                id := n.1, grp := g.id, pc := p.pc, op := op, dst := ⟨rd.h, ld.off⟩,
                src := ⟨rs.h, ls.off⟩, len := len, promise := prom, state := .queued, rd := 0, wr := 0,
                buf := [], after := chan.after, txns := [] }
              let s := n.2.setBlock (b.setChan { chan with queue := chan.queue ++ [x] })
              commit s c { gm with copies := gm.copies ++ [n.1] } p e
                (sWrite o.d prom 0 (copyMarks o))
        | _, _ => fatal s c g p 0x11 e 0

/-- The channels a mask names. -/
def chansIn (mask : BitVec 16) : List Nat := (List.range 16).filter fun n => mask.getLsbD n

/-- Whether a mask names a channel the block does not hold (R218). -/
def notHeld (b : Block) (mask : BitVec 16) : Bool := (chansIn mask).any fun n => b.alloc.eng ≤ n

/-- QFENCE (R228). -/
def execQfence (mask : BitVec 16) (o : ROps) (s : State) : Result :=
  groupLevel s o.g [] fun c g p e =>
    withBlock s g fun b _ =>
      if notHeld b mask then fatal s c g p 0x30 e 0
      else
        let ns := chansIn mask
        let ahead := ns.flatMap fun n => (b.chan n).queue.map fun x => x.id
        let b := ns.foldl (fun b n =>
          let ch := b.chan n
          b.setChan { ch with after := ch.after ++ ahead.filter fun i => !ch.after.contains i }) b
        retire (s.setBlock b) c g p

/-- CPOLL (R229). -/
def execCpoll (mask : BitVec 16) (o : ROps) (s : State) : Result :=
  groupLevel s o.g [] fun c g p e =>
    withBlock s g fun b _ =>
      if notHeld b mask then fatal s c g p 0x30 e 0
      else
        let ns := chansIn mask
        let bits (f : Channel → Bool) : Nat :=
          ns.foldl (fun m n => if f (b.chan n) then m + 2 ^ n else m) 0
        let idle (n : Nat) : Bool := (b.chan n).queue.isEmpty && !(b.chan n).frozen
        let v := bits (fun ch => !ch.queue.isEmpty) + 2 ^ 16 * bits (fun ch => ch.frozen)
        let x := s.observeDone b g fun d => ns.contains d.ch && idle d.ch
        commit x.2 c x.1 p e (sWrite o.d (BitVec.ofNat 64 v) 0 [])

/-- The group's incomplete operations with promise at or before a time, with their channels, oldest
first (R226). -/
def Block.overdue (b : Block) (grp t : Nat) : List (Nat × Nat) :=
  let all := b.chans.flatMap fun ch =>
    (ch.queue.filter fun x => x.grp == grp && x.promise.toNat ≤ t).map fun x => (x.id, ch.num)
  (b.chans.flatMap fun ch => ch.queue.map fun x => x.id).foldl (fun acc i => insertRising i acc) []
    |>.filterMap fun i => all.find? fun x => x.1 == i

/-- The end of a SLEEPT whose time has come: the missed-promise trap, or its acquire and retirement
(R226, R227). -/
def sleeptEnd (s : State) (c : Cur) (g : Group) (p : Path) (e : Word) (o : ROps) (t : Nat) : Result :=
  withBlock s g fun b _ =>
    match b.overdue g.id t with
    | [] =>
      let x := s.observeDone b g fun d => d.promise.toNat ≤ t
      retire x.2 c (x.1.applyMarks c.p.slot p.mask (markOf o.la .s o.a)) p
    | u :: us =>
      let code : Word := BitVec.ofNat 32 (min (us.length + 1) 255 * 256 + u.2)
      deliver s c g p 0x40 e code p.pc p.hdr ((u :: us).map fun x => x.1)

/-- SLEEPT (R226). -/
def execSleept (o : ROps) (s : State) : Result :=
  groupLevel s o.g [] fun c g p e =>
    let t := (g.sreg o.a).toNat
    if s.timebase.toNat < t then stay s c g p (.sleept t o) 10 else sleeptEnd s c g p e o t

/-- SLEEPT_WAKE (R226): the time has come. -/
def execSleeptWake (r : PathRef) (s : State) : Result :=
  completeWait s r fun c g p k =>
    match k with
    | .sleept t o =>
      if t ≤ s.timebase.toNat then
        sleeptEnd s c g p (p.mask &&& g.guard o.g) o t
      else .next s
    | _ => .next s

/-- Whether a block has some coordinates in its grid, as *where* gives them (R177). -/
def Block.named (b : Block) (wh : Nat) : Bool :=
  b.bid == wh / 16 % 8 && b.cid == wh / 128 % 16 && b.dieid == wh / 2048 % 4

/-- The WHERE field of a virtual device's KZCTL (R349). -/
def State.kzWhere (s : State) (vd : BitVec 8) : Nat := (s.kz vd 0x008).toNat % 2 ^ 13

/-- Whether QUI holds a virtual device's packets, and with them the selected block's operations
(R355). -/
def State.quiet (s : State) (vd : BitVec 8) : Bool := (s.kz vd 0x008).getLsbD 60

/-- An operation leaves its channel; groups' counters, fences, COPYMs and default handlers learn of it
(R223, R227, R228, R242). `ok` is whether it completed without a fault. -/
def State.retireOp (s : State) (b : Block) (n : Nat) (x : CarterOp) (ok : Bool) : State :=
  let gone (l : List Nat) : List Nat := l.filter fun i => i != x.id
  let clear (ch : Channel) : Channel :=
    { ch with after := gone ch.after,
              queue := (ch.queue.filter fun y => y.id != x.id).map fun (y : CarterOp) =>
                { y with after := gone y.after } }
  let s := s.setBlock { b with chans := b.chans.map clear }
  let k := s.core b.core
  let freed (m : ArrayOp) : Option ArrayOp :=
    if m.state == .bound x.id then (if ok then some { m with state := .queued } else none) else some m
  let s := (s.setCore { k with array := k.array.filterMap freed }).disown (.op x.id)
  match s.group? x.grp with
  | none => s
  | some g =>
    let done := if ok then g.done ++ [⟨x.id, n, x.promise, x.dst, x.len⟩] else g.done
    s.setGroup { g with copies := gone g.copies, done := done }

/-- A copy fault: the operation completes with cause 0x41, its channel freezes and will write a stop
record, and the fault domain's halt line rises (R225, R389). -/
def State.copyFault (s : State) (b : Block) (n : Nat) (x : CarterOp) (cause : BitVec 8) : State :=
  let s := s.retireOp b n x false
  match s.block? b.id with
  | none => s
  | some b =>
    let s := s.setBlock (b.setChan { b.chan n with frozen := true })
    match s.grid? b.grid with
    | none => s
    | some gr =>
      let d := s.vdev b.vd
      let rec' : Frozen := { grp := none, chan := some (b.id, n), cause := cause, pc := x.pc, addr := 0,
                             lanes := 0, time := s.timebase.toNat }
      (s.setVdev { d with frozen := d.frozen ++ [rec'] }).raiseHalt b.vd gr.fdom false false

/-- Puts an operation back at the head of its channel. -/
def Block.setOp (b : Block) (n : Nat) (x : CarterOp) : Block :=
  let ch := b.chan n
  b.setChan { ch with queue := replaceFirst (fun y => y.id == x.id) (fun _ => x) ch.queue }

/-- Puts an operation back at the head of its channel of the block as it now stands. -/
def State.putOp (s : State) (blk n : Nat) (x : CarterOp) : State :=
  match s.block? blk with
  | some b => s.setBlock (b.setOp n x)
  | none => s

/-- A piece of a copy that could not be reached: it pauses for an absent page, asking the host, or takes
the copy fault, whose cause is 0x60 for an expired deadline (R225, R264, R277). -/
def State.copyStopped (s : State) (b : Block) (n : Nat) (x : CarterOp) (h : Handle) (a : Access)
    (cause : BitVec 8) (addr : Nat) : State :=
  if cause = 0x20 then
    let owner := FaultOwner.carter b.id n
    let t : Word × State :=
      if h.space == 8 then
        let r := s.sendPri b.vd (hostVpn addr) owner
        (BitVec.ofNat 32 r.1, r.2)
      else s.sendFault b.vd 0 (BitVec.ofNat 56 addr) x.pc 0 (whereChan b n) (kindBits a) owner
    t.2.putOp b.id n { x with state := .paused t.1 }
  else s.copyFault b n x (if cause = 0x60 then 0x60 else 0x41)

/-- The next fabric transaction of a copy: up to the next 4,096-byte boundary of the window offset
(R388). -/
def fabricPiece (off left : Nat) : Nat := min left (4096 - off % 4096)

/-- Sends the transaction for `n` bytes from byte `i` of a copy on; nothing happens while no usable port
can take it, and an empty or failed set is a copy fault (R384, R387 to R389). -/
def State.copySend (s : State) (b : Block) (ch : Nat) (x : CarterOp) (e : Endpoint) (kind : TxnKind)
    (i n : Nat) (data : List Byte) (next : CarterOp) : State :=
  let peer := e.handle.spx.extractLsb' 16 12
  let ports := s.usablePorts b.vd peer
  if ports.all fun p => (s.port p).state == .failed then s.copyFault b ch x 0x41
  else
    let r := s.newId
    let tag : Word := BitVec.ofNat 32 r.1
    let code : BitVec 8 := match kind with
      | .read => 1
      | .write => 2
      | .addFp32 => 3
      | .addBf16 => 4
    let off := e.handle.base.toNat + e.off + i
    let t : Txn := { svd := b.vd, src := s.fabId, dst := peer, win := e.handle.spx.extractLsb' 8 8,
                     why := 0, tag := tag, len := BitVec.ofNat 32 n, off := BitVec.ofNat 64 off,
                     data := data }
    match r.2.sendTxn ports code 0 t (some tag) with
    | none => s
    | some s' =>
      let m : SentTxn := ⟨tag, kind, b.id, ch, x.id, i, n, none⟩
      { s' with txns := s'.txns ++ [m] }.putOp b.id ch { next with txns := x.txns ++ [tag] }

/-- The kind of a copy's transaction to a fabric destination (R388). -/
def txnKindOf : CopyOp → TxnKind
  | .mov => .write
  | .fadd => .addFp32
  | .hadd => .addBf16

/-- A copy's next source piece is read: its line waits for the issuing group's unacknowledged stores
(R221, R222). -/
def State.copyRead (s : State) (b : Block) (gr : Grid) (n : Nat) (x : CarterOp) : State :=
  match s.endRegion b gr x.src.handle with
  | none => s.copyFault b n x 0x41
  | some r =>
    let left := x.len - x.rd
    if r.h.space == 7 then
      let k := fabricPiece (r.h.base.toNat + x.src.off + x.rd) left
      s.copySend b n x x.src .read x.rd k []
        { x with state := .moving, rd := x.rd + k, buf := x.buf ++ List.replicate k 0 }
    else
      let st : Site := ⟨b.core, b.vd, ⟨x.grp, false⟩⟩
      let addrs := endAddrs r x.src x.rd (pieceLen (r.addr (x.src.off + x.rd)) left 1)
      if s.unackedIn x.grp ((linesOf addrs).map (s.keyOf st r)) then s
      else
        match s.reach st (.op x.id) r .read addrs with
        | (.wait, s') => s'
        | (.cause c a, s') => s'.copyStopped b n x x.src.handle .read c a
        | (.ok rs, s') => s'.putOp b.id n { x with
            state := .moving, rd := x.rd + addrs.length, buf := x.buf ++ reachedBytes rs addrs }

/-- A copy's next destination piece is written, or its elements added (R221). -/
def State.copyWrite (s : State) (b : Block) (gr : Grid) (n : Nat) (x : CarterOp) : State :=
  match s.endRegion b gr x.dst.handle with
  | none => s.copyFault b n x 0x41
  | some r =>
    let left := x.len - x.wr
    if r.h.space == 7 then
      let k := fabricPiece (r.h.base.toNat + x.dst.off + x.wr) left
      s.copySend b n x x.dst (txnKindOf x.op) x.wr k ((x.buf.drop x.wr).take k)
        { x with wr := x.wr + k }
    else
      let st : Site := ⟨b.core, b.vd, ⟨x.grp, false⟩⟩
      let k := pieceLen (r.addr (x.dst.off + x.wr)) left (copyElem x.op)
      let addrs := endAddrs r x.dst x.wr k
      match s.reach st (.op x.id) r (copyAccess x.op) addrs with
      | (.wait, s') => s'
      | (.cause c a, s') => s'.copyStopped b n x x.dst.handle (copyAccess x.op) c a
      | (.ok rs, s') =>
        (s'.copyPiece st (.op x.id) x.op rs addrs ((x.buf.drop x.wr).take k)).putOp b.id n { x with wr := x.wr + k }

/-- Whether a COPY names host space in a partition without a host DMA channel (R375). -/
def State.noDma (s : State) (b : Block) (x : CarterOp) : Bool :=
  (x.src.handle.space == 8 || x.dst.handle.space == 8) && !s.hasDma b.vd

/-- CARTER_OPERATION_START (R221, R222, R225, R228, R355): the channel's oldest operation starts, and
goes on piece by piece: each step reads the next piece of the source, or, once every source byte is
there, writes the next piece of the destination. -/
def execCarterOperationStart (blk : Nat) (ch : BitVec 4) (s : State) : Result :=
  match s.block? blk with
  | none => .next s
  | some b =>
    match s.grid? b.grid, (b.chan ch.toNat).queue with
    | some gr, x :: _ =>
      let held := x.state == .queued &&
        (s.clkFault || !x.after.isEmpty || (s.quiet b.vd && b.named (s.kzWhere b.vd)))
      let paused := match x.state with
        | .paused _ => true
        | .queued | .moving => false
      if (b.chan ch.toNat).frozen || paused || held then .next s
      else if s.noDma b x then .next (s.copyFault b ch.toNat x 0x41)
      else if s.lost (.op x.id) then .next (s.copyFault b ch.toNat x 0x60)
      else if x.rd < x.len then .next (s.copyRead b gr ch.toNat x)
      else if !x.txns.isEmpty && x.wr = 0 then .next s
      else if x.wr < x.len then .next (s.copyWrite b gr ch.toNat x)
      else .next s
    | _, _ => .next s

/-- The default handler's wait for an operation ends; the last one lets it return (R227). -/
def Path.dfltDone (id : Nat) (p : Path) : Path :=
  match p.handler with
  | some h => { p with handler := some { h with
      dflt := h.dflt.map fun l => l.filter fun i => i != id } }
  | none => p

/-- CARTER_OPERATION_COMPLETE (R223, R227): every source byte read, every destination byte written and
acknowledged. -/
def execCarterOperationComplete (blk : Nat) (ch : BitVec 4) (s : State) : Result :=
  match s.block? blk with
  | none => .next s
  | some b =>
    match (b.chan ch.toNat).queue with
    | x :: _ =>
      if x.wr = x.len && x.rd = x.len && x.txns.isEmpty && x.state == .moving && !s.sending (.op x.id) then
        let s := s.retireOp b ch.toNat x true
        match s.group? x.grp with
        | none => .next s
        | some g =>
          let s := s.setGroup { g with slot0 := g.slot0.map (Path.dfltDone x.id),
                                       slot1 := g.slot1.map (Path.dfltDone x.id) }
          .next ((s.dfltReturn x.grp false).dfltReturn x.grp true)
      else .next s
    | [] => .next s

end Sys2Proof.Machine
end

