-- ==== Sys2Proof/Machine/Matrix.lean ====
section
/-!
DEFINITION. The matrix array: MMA, COPYM, MLD, MST, MZERO, MBATCH, MWAIT, the Gleaner, the array queue and
the sub-arrays (R233 to R247, R394).
The model's own choices here: DESIGN CHOICE, logs 4, 22.
-/
namespace Sys2Proof.Machine

/-- Bytes of a B tile image (R233). -/
def btBytes : Nat := 8448

/-- The block offset of an accumulator tile and of a B tile (R233). -/
def accOff (acc : Nat) : Nat := 8192 * acc

@[inherit_doc accOff]
def btOff (bt : Nat) : Nat := 4096 * bt

/-- Whether an accumulator tile and a B tile share bytes. -/
def accMeetsBt (acc bt : Nat) : Bool :=
  accOff acc < btOff bt + btBytes && btOff bt < accOff acc + accBytes

/-- The range checks of R241, R243 and R244 against the block's tile bytes. -/
def accFits (b : Block) (acc : Nat) : Bool := accOff acc + accBytes ≤ unitBytes b.alloc.tile

@[inherit_doc accFits]
def btFits (b : Block) (bt : Nat) : Bool := btOff bt + btBytes ≤ unitBytes b.alloc.tile

/-- The marks of a format-A instruction that uses vi and sa (R47, R241). -/
def aMarks (o : AOps) : List Mark := markOf o.lv .v o.vi ++ markOf o.ls .s o.sa

/-- A matrix operation is handed over at its instruction's retirement (R237, R238, R245). -/
def handOver (s : State) (c : Cur) (g : Group) (p : Path) (b : Block) (e : Word) (op : MatOp)
    (state : MatState) (marks : List Mark) : Result :=
  let n := s.newId
  let x : ArrayOp := ⟨n.1, g.id, b.id, p.pc, e, op, state⟩
  let k := n.2.core b.core
  let s := n.2.setCore { k with array := k.array ++ [x] }
  retire s c ({ g with openOps := g.openOps ++ [n.1] }.applyMarks c.p.slot p.mask marks) p

/-- The row offsets of an MMA, by lane, and the lanes outside the handle (R241). -/
def rowOffsets (g : Group) (slot : Bool) (e : Word) (o : AOps) (l : Nat) : Option Nat :=
  if bitAt e l then some ((g.sreg o.sa).toNat + 192 * (g.vlane slot o.vi.toNat l).toNat) else none

/-- The checks of R241, then the operation, handed over in some state. -/
def gathered (o : AOps) (state : Group → MatState) (s : State) : Result :=
  guarded s o.g [o.vi.toNat] fun c g p e =>
    if e = 0 then retire s c g p
    else
      withBlock s g fun b gr =>
        let acc := o.acc.toNat
        let bt := o.bt.toNat
        let region : Option Region := match b.slotAt o.ha with
          | some h => if h.space == 1 && h.perm.getLsbD 0 then s.regionOf b gr h else none
          | none => none
        match region with
        | none => fatal s c g p 0x11 e 0
        | some r =>
          let row := rowOffsets g c.p.slot e o
          let bad := maskOf fun l => match row l with
            | some x => !r.inside x 192
            | none => false
          if !accFits b acc || !btFits b bt || accMeetsBt acc bt then fatal s c g p 0x10 e 0
          else if (g.sreg o.sa).toNat % 64 ≠ 0 then fatal s c g p 0x12 e 0
          else if bad ≠ 0 then fatal s c g p 0x10 bad 0
          else if !s.released g .blk then stay s c g p .retry 12
          else
            let rows := (List.range 32).map fun l => (row l).map fun x => r.addr x
            handOver s c g p b e (.mma (o.km1.toNat + 1) o.ctr o.z acc bt rows) (state g) (aMarks o)

/-- MMA (R241). -/
def execMma (o : AOps) (s : State) : Result := gathered o (fun _ => .queued) s

/-- Whether a Carter operation is incomplete (R223). -/
def State.opOpen (s : State) (id : Nat) : Bool :=
  s.blocks.any fun b => b.chans.any fun ch => ch.queue.any fun x => x.id == id

/-- COPYM (R242): bound to the group's latest Carter operation while that is incomplete. -/
def execCopym (o : AOps) (s : State) : Result :=
  gathered o (fun g => match g.lastOp with
    | some n => if s.opOpen n then .bound n else .queued
    | none => .queued) s

/-- The spaces MLD and MST admit (R243). -/
def matAdmits (st : Bool) (space : Nat) : Bool :=
  space ≤ 2 || space == 6 || (space == 4 && !st)

/-- MLD and MST (R243): checks, confirmation of every line, and the hand-over. A parked one reads its
logged offset (R175). -/
def tileMove (st : Bool) (o : AOps) (s : State) : Result :=
  memGroup s o.g [] fun c g gv p e =>
    withBlock s g fun b gr =>
      let n := if st then accBytes else btBytes
      let off := (gv.sreg o.sa).toNat
      let region : Option Region := match b.slotAt o.ha with
        | some h =>
          if matAdmits st h.space.toNat && h.perm.getLsbD (if st then 1 else 0) then s.regionOf b gr h
          else none
        | none => none
      match region with
      | none => fatal s c g p 0x11 e 0
      | some r =>
        let at' := offAddr r 0 e fun _ => (off : Int)
        if !(if st then accFits b o.acc.toNat else btFits b o.bt.toNat) then fatal s c g p 0x10 e 0
        else if !r.inside off n then fatal s c g p 0x10 e at'
        else if r.addr off % 64 ≠ 0 then fatal s c g p 0x12 e at'
        else
          let reqs := (lanesIn e).map fun l => (⟨l, endAddrs r ⟨r.h, off⟩ 0 n⟩ : LaneReq)
          withLines s c g gv p b e r (if st then .write else .read) reqs 3 fun s p _ =>
            if !s.released g .blk then stay s c g p .retry 12
            else
              handOver s c g p b e
                (if st then .mst o.acc.toNat ⟨r.h, off⟩ else .mld o.bt.toNat ⟨r.h, off⟩) .queued
                (markOf o.ls .s o.sa)

/-- MLD (R243). -/
def execMld (o : AOps) (s : State) : Result := tileMove false o s

/-- MST (R243). -/
def execMst (o : AOps) (s : State) : Result := tileMove true o s

/-- MZERO (R244). -/
def execMzero (o : AOps) (s : State) : Result :=
  groupLevel s o.g [] fun c g p e =>
    withBlock s g fun b _ =>
      if !accFits b o.acc.toNat then fatal s c g p 0x10 e 0
      else if !s.released g .blk then stay s c g p .retry 12
      else handOver s c g p b e (.mzero o.acc.toNat) .queued []

/-- Batches complete in order: the oldest ones whose operations are complete go (R245). -/
def popBatches : List Batch → List Batch
  | [] => []
  | x :: t => if x.ops.isEmpty then popBatches t else x :: t

/-- MBATCH (R245). -/
def execMbatch (o : ROps) (s : State) : Result :=
  groupLevel s o.g [] fun c g p e =>
    let n := g.batch + 1
    let g := { g with batch := n, openOps := [],
                      batches := popBatches (g.batches ++ [⟨n.toNat, g.openOps⟩]) }
    commit s c g p e (sWrite o.d n 0 [])

/-- MWAIT (R246). -/
def execMwait (o : ROps) (s : State) : Result :=
  groupLevel s o.g [] fun c g p _ =>
    withBlock s g fun b _ =>
      let n := min (scalarB g o.b).toNat g.batch.toNat
      let done (x : Group × State) : Result :=
        retire x.2 c (x.1.applyMarks c.p.slot p.mask (marksR o .none .s .none)) p
      if n = 0 then done (g, s)
      else if g.batches.any fun x => x.num ≤ n then stay s c g p .retry 11
      else done (s.observeBatches b g)

/-- The tile ranges an operation reads or writes: (offset, bytes). -/
def MatOp.tiles : MatOp → List (Nat × Nat)
  | .mma _ _ _ acc bt _ => [(accOff acc, accBytes), (btOff bt, btBytes)]
  | .mld bt _ => [(btOff bt, btBytes)]
  | .mst acc _ | .mzero acc => [(accOff acc, accBytes)]

/-- Whether two operations' tile ranges overlap (R242). -/
def MatOp.meets (a b : MatOp) : Bool :=
  a.tiles.any fun x => b.tiles.any fun y => x.1 < y.1 + y.2 && y.1 < x.1 + x.2

/-- Whether an operation waits at a COPYM's place (R242). -/
def ArrayOp.isBound (x : ArrayOp) : Bool :=
  match x.state with
  | .bound _ => true
  | .queued | .gathered _ | .running _ | .storing => false

/-- Whether the array performs an operation. -/
def ArrayOp.runs (x : ArrayOp) : Bool :=
  match x.state with
  | .running _ | .storing => true
  | .bound _ | .queued | .gathered _ => false

/-- Whether an operation is an MMA. -/
def ArrayOp.isMma (x : ArrayOp) : Bool :=
  match x.op with
  | .mma _ _ _ _ _ _ => true
  | .mld _ _ | .mst _ _ | .mzero _ => false

/-- Whether an operation waits: at its own place, or behind one of its block whose tiles it touches (R242).
`ahead` are the operations before it that wait. -/
def ArrayOp.waits (ahead : List ArrayOp) (x : ArrayOp) : Bool :=
  x.isBound || ahead.any fun y => y.blk == x.blk && y.op.meets x.op

/-- The first operation that does not wait behind a COPYM's place; one that touches the tiles of an operation that
waits there waits with it, every other one passes (R237, R242; log 22, DESIGN CHOICE). -/
def nextOp (ahead : List ArrayOp) : List ArrayOp → Option ArrayOp
  | [] => none
  | x :: t => if x.waits ahead then nextOp (ahead ++ [x]) t else some x

/-- The operation the array performs, or performs next (R237). -/
def Core.arrayOp (k : Core) : Option ArrayOp :=
  match k.array.find? fun x => x.runs with
  | some x => some x
  | none => nextOp [] k.array

/-- Whether an operation's rows are in the operand latch (R236). -/
def ArrayOp.latched (x : ArrayOp) : Bool :=
  match x.state with
  | .gathered _ | .running _ => x.isMma
  | .bound _ | .queued | .storing => false

/-- The MMA whose rows the Gleaner fetches next: the first one without them that does not wait behind a COPYM's
place, when every operation before it that has not been performed is an MMA with its rows (R236). -/
def nextGather (ahead : List ArrayOp) : List ArrayOp → Option ArrayOp
  | [] => none
  | x :: t =>
    if x.waits ahead then nextGather (ahead ++ [x]) t
    else
      match x.state with
      | .queued => if x.isMma then some x else none
      | .gathered _ | .running _ => if x.isMma then nextGather ahead t else none
      | .bound _ | .storing => none

/-- The scratch lines of some row records (R235). -/
def rowKeys (blk : Nat) (rows : List (Option Nat)) : List LineKey :=
  ((rows.filterMap id).flatMap fun o => linesOf [o, o + 127, o + 191]).map fun la => .scr blk la

/-- The tile lines of some ranges. -/
def tileKeys (blk : Nat) (rs : List (Nat × Nat)) : List LineKey :=
  rs.flatMap fun x => (List.range (x.2 / 128)).map fun i => .tile blk (x.1 + 128 * i)

/-- Puts an array operation back. -/
def Core.setOp (k : Core) (x : ArrayOp) : Core :=
  { k with array := replaceFirst (fun y => y.id == x.id) (fun _ => x) k.array }

/-- Whether the Gleaner has room for an operation's rows: beside those of one other MMA; and in an empty latch alone,
when it passes a COPYM's place, so that the place never waits for rows that wait for it (R236, R242; log 22, DESIGN
CHOICE). -/
def Core.latchRoom (k : Core) (x : ArrayOp) : Bool :=
  let passes := (k.array.takeWhile fun y => y.id != x.id).any fun y => y.isBound
  (k.array.filter fun y => y.latched).length < (if passes then 1 else 2)

/-- GLEANER_GATHER (R236): the next MMA's rows come into the core's operand latch, under every store its
group handed it over with (R238). -/
def execGleanerGather (core : BitVec 9) (s : State) : Result :=
  let k := s.core core
  match (nextGather [] k.array).filter k.latchRoom with
  | none => .next s
  | some x =>
    match x.op, s.block? x.blk with
    | .mma _ _ _ _ _ rows, some b =>
      if s.unackedIn x.grp (rowKeys x.blk rows) then .next s
      else
        let recs := rows.map fun r => r.map fun o => Memory.readN b.scr o 192
        .next (s.setCore (k.setOp { x with state := .gathered recs }))
    | _, _ => .next s

/-- ARRAY_OPERATION_START (R237, R239): the queue's next operation starts once the previous one is
complete; an MMA needs its rows, and awake sub-arrays, which 120 core cycles of waking give. -/
def execArrayOperationStart (core : BitVec 9) (s : State) : Result :=
  let k := s.core core
  if k.array.any fun x => x.runs then .next s
  else
    match k.arrayOp with
    | none => .next s
    | some x =>
      if s.unackedIn x.grp (tileKeys x.blk x.op.tiles) then .next s
      else
        match x.state with
        | .queued => if x.isMma then .next s else .next (s.setCore (k.setOp { x with state := .running [] }))
        | .gathered rows =>
          if k.awake || 120 ≤ k.idle then
            .next (s.setCore { k.setOp { x with state := .running rows } with awake := true, idle := 0 })
          else .next s
        | .bound _ | .running _ | .storing => .next s

/-- The row blocks of a record at `k` planes (R29, R235). -/
def rowBlocks (rec' : Option (List Byte)) (k : Nat) (ctr : Bool) : List MatBlock :=
  (List.range 4).map fun b =>
    match rec' with
    | none => ⟨0, List.replicate 32 0⟩
    | some bs =>
      let planes := (List.range 8).map fun p =>
        BitVec.ofNat 32 (natOfBytes ((bs.drop (16 * (p + 1) + 4 * b)).take 4))
      ⟨bs.getD b 0, (List.range 32).map fun t => planeInt k ctr (pniElem planes t)⟩

/-- The column blocks of column `j` of a B tile image (R234). -/
def colBlocks (bt : List Byte) (j : Nat) : List MatBlock :=
  (List.range 4).map fun b =>
    let planes := (List.range 8).map fun p =>
      BitVec.ofNat 32 (natOfBytes ((bt.drop (2048 * b + 256 * p + 4 * j)).take 4))
    ⟨bt.getD (8192 + 64 * b + j) 0, (List.range 32).map fun t => (pniElem planes t).toInt⟩

/-- The accumulator tile an MMA leaves (R32, R241). -/
def mmaTile (k : Nat) (ctr z : Bool) (acc bt : List Byte) (rows : List (Option (List Byte))) :
    List Byte :=
  let cols := (List.range 64).map (colBlocks bt)
  (rows.zip (List.range 32)).flatMap fun x =>
    let row := rowBlocks x.1 k ctr
    (cols.zip (List.range 64)).flatMap fun y =>
      let c : Word := if z then 0
        else BitVec.ofNat 32 (natOfBytes ((acc.drop (256 * x.2 + 4 * y.2)).take 4))
      bytesOfNat 4 (matrixElem k ctr c row y.1).toNat

/-- The idle time before an array's sub-arrays are gated, as its die's register gives it now; 0 for no gating
(R239). -/
def State.idleGate (s : State) (core : BitVec 9) : Nat :=
  let w := (s.reg (dieKey (dieOf core) 0)).toNat
  if w / 2 ^ 31 % 2 = 1 then w % 2 ^ 20 else 0

/-- The picked operations of a core's array are abandoned; an MMA that ran ends, and an idle period begins (R239,
R247). -/
def Core.abandonOps (k : Core) (gate : Nat) (hit : ArrayOp → Bool) : Core :=
  let idle := k.array.any fun x => hit x && x.isMma && x.runs
  let k := { k with array := k.array.filter fun x => !hit x }
  if idle then { k with idle := 0, gate := gate } else k

/-- An operation is complete: it leaves its queue and its group's batches (R237, R245). -/
def State.finishMat (s : State) (core : BitVec 9) (x : ArrayOp) (idle : Bool) : State :=
  let k := s.core core
  let k := { k with array := k.array.filter fun y => y.id != x.id }
  let k := if idle then { k with idle := 0, gate := s.idleGate core } else k
  let s := ((s.setCore k).forgetAnswers (.op x.id)).disown (.op x.id)
  match s.group? x.grp with
  | none => s
  | some g =>
    let gone (l : List Nat) : List Nat := l.filter fun i => i != x.id
    let mst := match x.op with
      | .mst _ d => g.mst ++ [d]
      | .mma _ _ _ _ _ _ | .mld _ _ | .mzero _ => g.mst
    s.setGroup { g with openOps := gone g.openOps, mst := mst,
                        batches := popBatches (g.batches.map fun (y : Batch) =>
                          { y with ops := gone y.ops }) }

/-- Abandons an operation that failed at the array: its group is frozen, imprecisely, with the access's
cause (R394). -/
def State.matFault (s : State) (core : BitVec 9) (x : ArrayOp) (cause : BitVec 8) (a : Nat) : Result :=
  let s := s.finishMat core { x with op := .mzero 0 } false
  match s.group? x.grp with
  | none => .next s
  | some g =>
    if g.phase == .frozen then .next s
    else s.freeze g false x.pc x.pc cause x.lanes 0 (BitVec.ofNat 64 a)

/-- The memory side of an MLD or MST: its region's addresses and the access they need. -/
def State.matReach (s : State) (core : BitVec 9) (b : Block) (gr : Grid) (x : ArrayOp) (d : Endpoint)
    (a : Access) (n : Nat) : Reached × List Nat × State :=
  match s.regionOf b gr d.handle with
  | none => (.wait, [], s)
  | some r =>
    let st : Site := ⟨core, b.vd, ⟨x.grp, false⟩⟩
    let addrs := endAddrs r d 0 n
    if a == .read && s.unackedIn x.grp ((linesOf addrs).map (s.keyOf st r)) then (.wait, addrs, s)
    else
      let q := s.reachAll st (.op x.id) r a (linesOf addrs)
      (reached addrs q.1, addrs, q.2)

/-- Bytes that an abandoned operation leaves old or new, in units of `w` bytes, by free values from number `n`
on (R247, R394; log 4, DESIGN CHOICE). -/
def oldOrNew (n w : Nat) (old new : List Byte) : List Byte :=
  (old.zip new).zipIdx.map fun x =>
    if (Config.freeWord (n + x.2 / w / 64)).getLsbD (x.2 / w % 64) then x.1.2 else x.1.1

/-- An operation that runs is abandoned (R247, R394): each element of an MMA's accumulator holds C or D, each
byte an MLD had reached is old or new in its tile, each 32-bit word an MST had reached old or new at its
destination. -/
def State.abandon (s : State) (core : BitVec 9) (b : Block) (gr : Grid) (x : ArrayOp) : State :=
  let onTile (off : Nat) (new : List Byte) (w : Nat) : State :=
    let old := Memory.readN b.tile off new.length
    { s.setBlock { b with tile := Memory.writeN b.tile off (oldOrNew s.free w old new) } with
      free := s.free + new.length / w / 64 }
  let lines (d : Endpoint) (a : Access) (n : Nat) : List LineRes × List Nat :=
    match s.regionOf b gr d.handle with
    | none => ([], [])
    | some r =>
      let as := endAddrs r d 0 n
      let rs := (s.reachAll ⟨core, b.vd, ⟨x.grp, false⟩⟩ (.op x.id) r a (linesOf as)).1
      (rs.filter fun y => match y.out with
        | .ok _ _ => true
        | _ => false, as)
  let has (rs : List LineRes) (a : Nat) : Bool := rs.any fun y => y.la == a / 128 * 128
  match x.op, x.state with
  | .mma kk ctr z acc bt _, .running rows =>
    onTile (accOff acc) (mmaTile kk ctr z (Memory.readN b.tile (accOff acc) accBytes)
      (Memory.readN b.tile (btOff bt) btBytes) rows) 4
  | .mld bt d, .running _ =>
    let q := lines d .read btBytes
    onTile (btOff bt) (((reachedBytes q.1 q.2).zip (q.2.zip (Memory.readN b.tile (btOff bt) btBytes))).map
      fun y => if has q.1 y.2.1 then y.1 else y.2.2) 1
  | .mst acc d, .running _ =>
    let q := lines d .write accBytes
    let old := s.oldBytes q.1 q.2
    let bs := q.2.zip (oldOrNew s.free 4 old (Memory.readN b.tile (accOff acc) accBytes))
    { s.sendAt ⟨core, b.vd, ⟨x.grp, false⟩⟩ (.op x.id) q.1 (bs.filter fun y => has q.1 y.1) with
      free := s.free + accBytes / 4 / 64 }
  | _, _ => s

/-- ARRAY_OPERATION_COMPLETE (R233, R237, R241 to R244, R263, R394): the running operation has its effect; an MST is
complete once what it has sent to other dies is acknowledged. -/
def execArrayOperationComplete (core : BitVec 9) (s : State) : Result :=
  let k := s.core core
  match k.arrayOp with
  | none => .next s
  | some x =>
    match s.block? x.blk with
    | none => .next (s.finishMat core x false)
    | some b =>
      match s.grid? b.grid with
      | none => .fault .dangling
      | some gr =>
        match x.op, x.state with
        | .mma kk ctr z acc bt _, .running rows =>
          let tile := mmaTile kk ctr z (Memory.readN b.tile (accOff acc) accBytes)
            (Memory.readN b.tile (btOff bt) btBytes) rows
          .next ((s.setBlock { b with tile := Memory.writeN b.tile (accOff acc) tile }).finishMat
            core x true)
        | .mzero acc, .running _ =>
          let z := List.replicate accBytes (0 : Byte)
          .next ((s.setBlock { b with tile := Memory.writeN b.tile (accOff acc) z }).finishMat core x
            false)
        | .mld bt d, .running _ =>
          match s.matReach core b gr x d .read btBytes with
          | (.wait, _, s) => .next s
          | (.cause c a, _, s) => (s.abandon core b gr x).matFault core x c a
          | (.ok rs, addrs, s) =>
            .next ((s.setBlock { b with
              tile := Memory.writeN b.tile (btOff bt) (reachedBytes rs addrs) }).finishMat core x false)
        | .mst acc d, .running _ =>
          match s.matReach core b gr x d .write accBytes with
          | (.wait, _, s) => .next s
          | (.cause c a, _, s) => (s.abandon core b gr x).matFault core x c a
          | (.ok rs, addrs, s) =>
            let s := s.sendAt ⟨core, b.vd, ⟨x.grp, false⟩⟩ (.op x.id) rs
              (addrs.zip (Memory.readN b.tile (accOff acc) accBytes))
            if s.sending (.op x.id) then .next (s.setCore ((s.core core).setOp { x with state := .storing }))
            else .next (s.finishMat core x false)
        | .mst _ _, .storing =>
          if s.lost (.op x.id) then s.matFault core x 0x60 0
          else if s.sending (.op x.id) then .next s
          else .next (s.finishMat core x false)
        | _, _ => .next s

/-- SUBARRAY_GATE (R239): after the idle time in force the sub-arrays are gated. -/
def execSubarrayGate (core : BitVec 9) (s : State) : Result :=
  let k := s.core core
  let busy := match k.arrayOp with
    | some x => x.isMma
    | none => false
  if k.awake && k.gate != 0 && k.gate ≤ k.idle && !busy then
    .next (s.setCore { k with awake := false, idle := 0 })
  else .next s

end Sys2Proof.Machine
end

