-- ==== Sys2Proof/Machine/Issue.lean ====
section
/-!
DEFINITION. Shares and the dispatch of paths: token buckets, a core cycle's picks, pins, ages and
stall counters (R101, R102, R116, R147 to R153, R311 to R313).
The model's own choices here: DESIGN CHOICE, logs 6, 18, 28, 42; DEDUCED, log 27.
-/
namespace Sys2Proof.Machine

/-- The SHARE word of an arbiter (R311). -/
def State.share (s : State) (arb : BitVec 3) (vd : BitVec 8) : DWord := s.reg (vdKey vd (0x40 + 8 * arb.toNat))

/-- DEPTH and WT, of which 0 acts as 1, and RATE (R311). -/
def State.shareDepth (s : State) (arb : BitVec 3) (vd : BitVec 8) : Nat :=
  max 1 ((s.share arb vd).extractLsb' 32 16).toNat

@[inherit_doc State.shareDepth]
def State.shareWt (s : State) (arb : BitVec 3) (vd : BitVec 8) : Nat :=
  max 1 ((s.share arb vd).extractLsb' 56 8).toNat

@[inherit_doc State.shareDepth]
def State.shareRate (s : State) (arb : BitVec 3) (vd : BitVec 8) : Nat :=
  ((s.share arb vd).extractLsb' 0 24).toNat

/-- A virtual device's bucket at an arbiter; one that has granted nothing is full (R312). -/
def State.bucket (s : State) (arb : BitVec 3) (inst : Nat) (vd : BitVec 8) : Bucket :=
  match s.buckets.find? fun x => x.arb == arb && x.inst == inst && x.vd == vd with
  | some x => x
  | none => ⟨arb, inst, vd, 1024 * s.shareDepth arb vd, 0, false⟩

/-- Puts a bucket back. -/
def State.setBucket (s : State) (x : Bucket) : State :=
  { s with buckets := upsert (fun y => y.arb == x.arb && y.inst == x.inst && y.vd == x.vd) x s.buckets }

/-- The start of an arbiter's cycle: every bucket accrues (R312). -/
def State.accrue (s : State) (arb : BitVec 3) (inst : Nat) : State :=
  { s with buckets := s.buckets.map fun (x : Bucket) =>
      if x.arb == arb && x.inst == inst then
        { x with b := min (x.b + s.shareRate arb x.vd) (1024 * s.shareDepth arb x.vd) }
      else x }

/-- Whether a virtual device holds a token (R312). -/
def State.hasToken (s : State) (arb : BitVec 3) (inst : Nat) (vd : BitVec 8) : Bool :=
  1024 ≤ (s.bucket arb inst vd).b

/-- A grant: in the contract phase it costs a token, a loan costs nothing; the winner has its share
back (R312, R313). -/
def State.charge (s : State) (arb : BitVec 3) (inst : Nat) (vd : BitVec 8) : State :=
  let x := s.bucket arb inst vd
  s.setBucket { x with b := if 1024 ≤ x.b then x.b - 1024 else x.b, lent := false }

/-- A loan's lenders: those that hold a token and ask for nothing, a virtual device that has not asked yet
among them (R312, R313). -/
def State.lend (s : State) (arb : BitVec 3) (inst : Nat) (reqs : List (BitVec 8)) : State :=
  let s := s.vds.foldl (fun (s : State) d => s.setBucket (s.bucket arb inst d.vd)) s
  { s with buckets := s.buckets.map fun (x : Bucket) =>
      if x.arb == arb && x.inst == inst && 1024 ≤ x.b && !reqs.contains x.vd then { x with lent := true }
      else x }

/-- Deficit round-robin: the first requester that has a deficit left; when none has, a round gives each
its quantum of WT (R312). -/
def State.drr (s : State) (arb : BitVec 3) (inst : Nat) (vds : List (BitVec 8)) : Option (BitVec 8) × State :=
  let spend (s : State) : Option (BitVec 8) × State :=
    match vds.find? fun v => 0 < (s.bucket arb inst v).deficit with
    | none => (none, s)
    | some v =>
      let x := s.bucket arb inst v
      (some v, s.setBucket { x with deficit := x.deficit - 1 })
  if vds.any fun v => 0 < (s.bucket arb inst v).deficit then spend s
  else
    spend (vds.foldl (fun s v =>
      let x := s.bucket arb inst v
      s.setBucket { x with deficit := s.shareWt arb v }) s)

/-- What a virtual device's grant at an arbiter does: at a die-to-die port, arbiter 5, its message crosses (R10,
R311); at a fabric port, arbiter 6, its next flit is sent (R388); what the other arbiters grant is time on a path
that every access has (log 28, DESIGN CHOICE). -/
def State.won (s : State) (arb : BitVec 3) (inst : Nat) (vd : BitVec 8) : State :=
  if arb = 5 then s.cross inst vd else if arb = 6 then s.sendFlit (BitVec.ofNat 4 inst) vd else s

/-- TOKEN_ARBITRATION (R312, R313): one cycle of an arbiter other than core issue, whose arbitration is
part of the core's own cycle. -/
def execTokenArbitration (arb : BitVec 3) (inst : Nat) (reqs : List (BitVec 8)) (s : State) : Result :=
  if arb = 0 then .next s
  else
    let s := s.accrue arb inst
    match reqs.find? fun v => (s.bucket arb inst v).lent && s.hasToken arb inst v with
    | some v => .next ((s.charge arb inst v).won arb inst v)
    | none =>
      match s.drr arb inst (reqs.filter (s.hasToken arb inst)) with
      | (some v, s) => .next ((s.charge arb inst v).won arb inst v)
      | (none, _) =>
        match s.drr arb inst reqs with
        | (some v, s) =>
          let x := s.bucket arb inst v
          .next (((s.setBucket { x with lent := false }).lend arb inst reqs).won arb inst v)
        | (none, s) => .next s

/-- What a dispatched instruction takes: its port, and the bank its field a is read from (R149, R151). -/
structure Needs where
  port : IssuePort
  bank : Option Nat
  deriving DecidableEq, Repr

/-- What an instruction takes when its path dispatches it; its bank is that of the register its path's map names
at its dispatch (log 28, DESIGN CHOICE). -/
def needsOf (g : Group) (slot : Bool) (i : Instr) : Needs :=
  ⟨instrPort i, (aReg i).bind fun r => (mapEntry (g.map slot) r).name.map fun n => n % 16⟩

/-- Whether two instructions read one bank in field a (R151). -/
def Needs.bankClash (x y : Needs) : Bool := x.bank.isSome && x.bank == y.bank

/-- Whether two instructions need one single-unit port (R151). -/
def Needs.portClash (x y : Needs) : Bool := x.port == y.port && x.port != .fma

/-- A path that could dispatch in this cycle (R150): its rank, its next instruction and what that takes, and the
stall reason that keeps the instruction from dispatching, if one does. -/
structure Cand where
  r     : PathRef
  vd    : BitVec 8
  rank  : List Nat
  entry : InFlight
  needs : Needs
  stall : Option Nat
  deriving DecidableEq, Repr

/-- Puts a candidate in its place among ranked ones. -/
def insertCand (x : Cand) : List Cand → List Cand
  | [] => [x]
  | y :: t => if rankLt x.rank y.rank then x :: y :: t else y :: insertCand x t

/-- Whether a path whose device is a returning lender ranks before another (R150, R313). -/
def State.insertLent (s : State) (core : Nat) (x : Cand) : List Cand → List Cand
  | [] => [x]
  | y :: t =>
    let lent (z : Cand) : Bool := (s.bucket 0 core z.vd).lent
    if lent x && !lent y && 2 ≤ y.rank.headD 0 then x :: y :: t else y :: State.insertLent s core x t

/-- Whether a path waits on memory, or is parked, so that younger instructions fill its half of the reorder
buffer (R99, R153). -/
def Path.blocked (p : Path) : Bool := p.wait.any fun w => w.reason == 3

/-- The entries of a path's half of the reorder buffer (R88). -/
def Group.robHalf (g : Group) : Nat := if g.slot1.isSome || g.halved then 32 else 64

/-- A path's half of the reorder buffer is full. -/
def Group.robFull (g : Group) (p : Path) : Bool := g.robHalf ≤ p.liveRob.length

/-- Paths of the group are being moved: entries are spilled or filled, or micro-operations of a fold or of a
compaction have not retired (R90, R95, R148). -/
def Group.moving (g : Group) : Bool := g.spills + g.folds + g.merges != 0

/-- The groups resident on a core, with their blocks: those that run, those that have stopped and wait to be
saved, and those that have ended or are frozen (R147, R153). -/
def State.coreGroups (s : State) (core : BitVec 9) : List (Group × Block) :=
  s.groups.filterMap fun g =>
    match s.block? g.blk with
    | some b => if b.core == core && b.phase == .resident && g.phase != .saved then some (g, b) else none
    | none => none

/-- The slot paths of the groups that run on a core. -/
def State.corePaths (s : State) (core : BitVec 9) : List (Group × PathRef × Path) :=
  ((s.coreGroups core).filter fun x => x.1.phase == .running).flatMap fun x =>
    (x.1.slot0.map fun p => (x.1, ⟨x.1.id, false⟩, p)).toList ++
      (x.1.slot1.map fun p => (x.1, ⟨x.1.id, true⟩, p)).toList

/-- The entries of a port's issue queue at a core: instructions that have dispatched and not executed, and, in the
integer/logic queue, merge micro-operations (R150, R396). -/
def State.queued (s : State) (core : BitVec 9) (q : IssuePort) : Nat :=
  ((s.corePaths core).flatMap fun x => x.2.2.liveRob.filter fun e => !e.done && instrPort e.instr == q).length +
    (if q == .intLogic then
      ((s.coreGroups core).flatMap fun x => x.1.mq.filter fun m => m.ends.isNone).length
    else 0)

/-- Whether an instruction can leave its path with a clause that has to be read anew: nothing behind it dispatches
before it has retired (R36, R104, R110). -/
def endsLookahead (i : Instr) : Bool :=
  match opcodeOf i with
  | none => true
  | some op => mustClose op || op == 0x06

/-- The path as it will stand behind its youngest instruction in the reorder buffer, behind `e` if there is one;
behind a waiting instruction that stands in none. None where nothing is dispatched behind it. -/
def Path.beyond (p : Path) (e : Option InFlight) : Option Path :=
  let p' := { p with wait := none, pend := [], replay := none, granted := none, rob := [] }
  match e with
  | some e =>
    if endsLookahead e.instr then none
    else some { p' with pc := e.next, hdr := if e.last then e.next else e.hdr }
  | none =>
    match p.wait with
    | some w => if w.last then none else some { p' with pc := w.next }
    | none => none

/-- Whether the header at an address waits for nothing, so that its first instruction may issue before older ones
have retired (R35). -/
def State.freeHeader (s : State) (b : Block) (r : PathRef) (p : Path) : Bool :=
  p.pc != p.hdr || match s.codeWord ⟨b.core, b.vd, r⟩ p p.hdr with
    | (.ok [w], _, _) => (match decodeHeader w with
      | .ok h => h.wait == 0
      | .error _ => false)
    | _ => false

/-- A path's next instruction to dispatch as an entry of its reorder buffer. Fetching the oldest one leaves what it
asks for; fetching a younger one leaves nothing, and finds no event, no breakpoint and no clause wait (R35, R99). -/
def State.nextEntry (s : State) (b : Block) (g : Group) (p : Path) (r : PathRef) : Option InFlight × State :=
  let entry (s' : State) (p : Path) (i : Instr) : InFlight :=
    match s'.cur with
    | some c => ⟨p.instrPc, i, c.next, c.last, p.hdr, 0, false⟩
    | none => ⟨p.instrPc, i, p.pc, true, p.hdr, 0, false⟩
  let young := p.liveRob.getLast?
  if young.isNone && p.wait.isNone then
    match fetch { s with cur := none } r with
    | .idle s' => (none, { s' with cur := s.cur })
    | .run s' i => (some (entry s' p i), { s' with cur := s.cur })
  else
    match p.beyond young with
    | none => (none, s)
    | some p' =>
      if b.dbgReq || b.stepReq.isSome || !s.freeHeader b r p' then (none, s)
      else
        match fetch { s.setGroup (g.setPath r.slot (some p')) with cur := none } r with
        | .idle _ => (none, s)
        | .run s' i => (if s'.cur.isNone then none else some (entry s' p' i), s)

/-- One slot of a group as a candidate: a path that is ready, or whose oldest instruction waits on memory, and whose
next instruction is there and finds room in the path's half of the reorder buffer (R88, R99, R102, R150). A group
does not dispatch while its paths are being moved (R90, R95, R148); an instruction waits for an entry of its
queue (R150, R396). -/
def State.candOf (s : State) (k : Core) (b : Block) (grp : Nat) (slot : Bool) : Option Cand × State :=
  let r : PathRef := ⟨grp, slot⟩
  match s.group? grp with
  | none => (none, s)
  | some g =>
    match g.path slot with
    | none => (none, s)
    | some p =>
      if (p.wait.isSome && !p.blocked) || p.joining || g.robFull p || g.stopsFetching slot { p with wait := none }
      then (none, s)
      else
        match s.nextEntry b g p r with
        | (none, s) => (none, s)
        | (some e, s) =>
          let n := needsOf g slot e.instr
          let stall : Option Nat :=
            if g.spills + g.folds != 0 then some 14 else if g.merges != 0 then some 2
            else if 16 ≤ s.queued k.id n.port then some 6 else none
          (some { r := r, vd := b.vd, rank := k.rankOf g slot p, entry := e, needs := n, stall := stall }, s)

/-- The candidates of a core in the order of R150. -/
def State.candidates (s : State) (k : Core) : List Cand × State :=
  ((s.coreGroups k.id).filter fun x => x.1.phase == .running).foldl (fun (acc : List Cand × State) x =>
    let a := acc.2.candOf k x.2 x.1.id false
    let b := a.2.candOf k x.2 x.1.id true
    ((a.1.toList ++ b.1.toList).foldl (fun l c => insertCand c l) acc.1, b.2)) ([], s)

/-- One pick among the candidates `ok` admits: a returning lender's first, else the first whose virtual device
holds a token, which it pays; else the first, on loan (R312, R313). -/
def State.pickOne (s : State) (core : Nat) (cs : List Cand) (ok : Cand → Bool) : Option Cand × State :=
  let cs' := (cs.filter ok).foldl (fun l x => s.insertLent core x l) []
  match cs'.find? fun x => s.hasToken 0 core x.vd with
  | some x => (some x, s.charge 0 core x.vd)
  | none =>
    match cs' with
    | x :: _ => (some x, s.lend 0 core (cs.map fun y => y.vd))
    | [] => (none, s)

/-- Whether a candidate conflicts with another (R151). -/
def Cand.clash (x y : Cand) : Bool := x.needs.bankClash y.needs || x.needs.portClash y.needs

/-- The two picks of a cycle among the candidates that may dispatch, and those passed over; the bank and the port of
a pinned path that is no candidate now stay reserved for it (R150, R151; log 28, DESIGN CHOICE). -/
def State.picks (s : State) (core : Nat) (pin : Option Cand) (cs : List Cand) : List Cand × List Cand × State :=
  let eligible (x : Cand) : Bool := s.hasToken 0 core x.vd
  let free (x : Cand) : Bool := pin.all fun y => y.r == x.r || !x.clash y
  match s.pickOne core cs free with
  | (none, s) => ([], [], s)
  | (some a, s) =>
    match s.pickOne core cs fun x => x.r != a.r && !x.clash a && free x with
    | (none, s) => ([a], cs.filter fun x => x.r != a.r && x.clash a && eligible x, s)
    | (some b, s) =>
      ([a, b], cs.filter fun x => x.r != a.r && x.clash a && eligible x && rankLt x.rank b.rank, s)

/-- A pick's second instruction, if it dispatches with the first: one of the same clause that takes nothing the
cycle's picks have taken, for which its queue and its path's half of the reorder buffer have room (R150). -/
def State.second (s : State) (k : Core) (taken : List Needs) (x : Cand) : Option (InFlight × Needs) :=
  match s.group? x.r.grp with
  | none => none
  | some g =>
    match g.path x.r.slot, s.block? g.blk with
    | some p, some b =>
      let p' := { p with rob := p.liveRob ++ [x.entry] }
      if x.entry.last || g.robFull p' then none
      else
        match (s.nextEntry b (g.setPath x.r.slot (some p')) p' x.r).1 with
        | none => none
        | some e =>
          let n := needsOf g x.r.slot e.instr
          let same := (taken.filter fun y => y.port == n.port).length
          if taken.any (fun y => y.bankClash n || y.portClash n) || (n.port == .fma && 2 ≤ same) ||
              16 ≤ s.queued k.id n.port + same then none
          else some (e, n)
    | _, _ => none

/-- What each pick dispatches, in the order of the picks (R150). -/
def State.dispatched (s : State) (k : Core) (taken : List Needs) : List Cand → List (PathRef × List InFlight)
  | [] => []
  | x :: t =>
    match s.second k taken x with
    | some n => (x.r, [x.entry, n.1]) :: State.dispatched s k (n.2 :: taken) t
    | none => (x.r, [x.entry]) :: State.dispatched s k taken t

/-- Numbers dispatched instructions from `n` on (R152). -/
def stamped (n : Nat) : List (PathRef × List InFlight) → List (PathRef × List InFlight)
  | [] => []
  | x :: t =>
    (x.1, (x.2.zip (List.range x.2.length)).map fun (y : InFlight × Nat) => { y.1 with stamp := n + y.2 }) ::
      stamped (n + x.2.length) t

/-- A path has dispatched: its instructions enter its half of the reorder buffer, and its age starts again (R88,
R101). -/
def State.dispatches (s : State) (x : PathRef × List InFlight) : State :=
  match s.group? x.1.grp with
  | none => s
  | some g => s.setGroup (g.setPath x.1.slot ((g.path x.1.slot).map fun (p : Path) =>
      { p with age := 0, quiet := 0, rob := p.liveRob ++ x.2 }))

/-- Micro-operations of folds and compactions enter the integer/logic queue as it has room, the group in the lowest
place first (R95, R148, R396). -/
def State.enterMerges (s : State) (core : BitVec 9) (cycle : Nat) : State :=
  let gs := (s.coreGroups core).foldl (fun (l : List Group) x =>
    (l.filter fun y => y.place < x.1.place) ++ [x.1] ++ l.filter fun y => x.1.place < y.place) []
  gs.foldl (fun (s : State) g =>
    let n := min (16 - s.queued core .intLogic) (g.folds + g.merges - g.mq.length)
    if n = 0 then s
    else s.setGroup { g with mq := g.mq ++ List.replicate n ⟨4 * cycle + 3, none⟩ }) s

/-- An entry of an issue queue whose operands are ready: a path's instruction, or a group's micro-operation. -/
structure Ready where
  stamp : Nat
  port  : IssuePort
  path  : PathRef
  instr : Option Instr
  deriving DecidableEq, Repr

/-- Puts an entry in its place among those dispatched earlier and later. -/
def insertReady (x : Ready) : List Ready → List Ready
  | [] => [x]
  | y :: t => if x.stamp < y.stamp then x :: y :: t else y :: insertReady x t

/-- The entries of a core's issue queues whose operands are ready, the one dispatched earliest first (R152). -/
def State.readyOf (s : State) (core : BitVec 9) (cycle : Nat) : List Ready :=
  let paths := (s.corePaths core).flatMap fun x => (x.2.2.ready cycle [] x.2.2.liveRob).map fun e =>
    (⟨e.stamp, instrPort e.instr, x.2.1, some e.instr⟩ : Ready)
  let merges := (s.coreGroups core).flatMap fun x => (x.1.mq.filter fun m => m.ends.isNone).map fun m =>
    (⟨m.stamp, .intLogic, ⟨x.1.id, false⟩, none⟩ : Ready)
  (paths ++ merges).foldl (fun l x => insertReady x l) []

/-- Those of some ready entries that begin in a cycle: each unit that can start takes the first one of its queue; the
FMA pipes are two (R151, R152, R396). -/
def Core.begin' (k : Core) (used : List IssuePort) : List Ready → List Ready
  | [] => []
  | x :: t =>
    if k.portFree x.port k.cycle && (used.filter fun q => q == x.port).length < (if x.port == .fma then 2 else 1) then
      x :: Core.begin' k (x.port :: used) t
    else Core.begin' k used t

/-- An instruction executes: its results are due (R396). -/
def Path.executes (p : Path) (stamp cycle : Nat) (i : Instr) : Path :=
  { p.issues i cycle with
    rob := p.liveRob.map fun (e : InFlight) => if e.stamp == stamp then { e with done := true } else e }

/-- A group's oldest micro-operation that has not executed does; it retires after the pipe's latency (R95, R396). -/
def Group.merging (g : Group) (cycle : Nat) : Group :=
  { g with mq := replaceFirst (fun m => m.ends.isNone) (fun (m : MergeOp) => { m with ends := some (cycle + 2) }) g.mq }

/-- A ready entry begins. -/
def State.begins (s : State) (core : BitVec 9) (cycle : Nat) (x : Ready) : State :=
  match s.group? x.path.grp with
  | none => s
  | some g =>
    match x.instr with
    | none => s.setGroup (g.merging cycle)
    | some i =>
      let k := s.core core
      (s.setCore (k.starts i cycle)).setGroup (g.setPath x.path.slot
        ((g.path x.path.slot).map fun p => p.executes x.stamp cycle i))

/-- A group's micro-operations that have executed retire: those of a compaction before those of a fold (R95,
R148). -/
def Group.mergesDone (g : Group) (cycle : Nat) : Group :=
  let ended (m : MergeOp) : Bool := m.ends.any fun n => n ≤ cycle
  let n := (g.mq.filter ended).length
  { g with mq := g.mq.filter fun m => !ended m, merges := g.merges - n, folds := g.folds - (n - g.merges) }

/-- One cycle older: every path but one at a JOIN; a back-off and a YIELD's penalty run down (R101, R116, R155). -/
def Path.older (p : Path) : Path :=
  let p := { p with age := if p.joining then p.age else p.age + 1, quiet := p.quiet + 1, yielded := p.yielded - 1 }
  match p.wait with
  | some w => (match w.kind with
    | .backoff n => { p with wait := some { w with kind := .backoff (n - 1) } }
    | _ => p)
  | none => p

/-- The same for a group: an entry is spilled or filled, and the halves of the reorder buffer are reunited once both
are empty (R88, R90). -/
def Group.older (g : Group) : Group :=
  let rob (p : Option Path) : Bool := p.any fun q => !q.liveRob.isEmpty
  let g := if g.swapDue then g else g.allStay
  { g with slot0 := g.slot0.map Path.older, slot1 := g.slot1.map Path.older, stack := g.stack.map Path.older,
           spills := g.spills - 1,
           halved := g.slot1.isSome || (g.halved && (rob g.slot0 || rob g.slot1)) }

/-- The lead path of a group (R153). -/
def Group.lead (g : Group) : Option (Bool × Path) :=
  match g.slot0, g.slot1 with
  | some a, some b => if a.age < b.age then some (true, b) else some (false, a)
  | some a, none => some (false, a)
  | none, some b => some (true, b)
  | none, none => none

/-- The order in which stall reasons are tried (R153). -/
def stallOrder : List Nat := [14, 13, 8, 9, 10, 11, 12, 7, 0, 1, 2, 3, 4, 5, 6, 15]

/-- What a stopped or ended group's block waits for: a store of more than 32 lines still entering the buffer, its
copies, its matrix operations (R230, R247, R393). -/
def State.saveReasons (s : State) (b : Block) (g : Group) : List Nat :=
  (if g.sbRest.isEmpty then [] else [12]) ++
    (if b.chans.all fun ch => ch.queue.isEmpty then [] else [10]) ++
    (if (s.core b.core).array.any fun x => x.blk == b.id then [11] else [])

/-- Why a running path that does not wait has not dispatched: its half is full; or its next instruction stalls,
conflicts or has lost; or it has none because its youngest one is still to execute, or to be read (R153). -/
def Path.stallReasons (p : Path) (g : Group) (cycle : Nat) (cand : Option Cand) (picks : List Cand) : List Nat :=
  (if g.robFull p then [1] else []) ++
    match cand with
    | some x => x.stall.toList ++ (match picks with
      | a :: _ => if x.needs.bankClash a.needs then [5] else if x.needs.portClash a.needs then [6] else []
      | [] => []) ++ [15]
    | none => match p.liveRob.find? fun e => !e.done with
      | some e => [if p.awaits e.instr cycle then 4 else 6]
      | none => [0]

/-- The stall reasons that apply to a group none of whose paths dispatched (R153). -/
def State.stallReasons (s : State) (k : Core) (b : Block) (g : Group) (cs picks : List Cand) : List Nat :=
  (if g.spills + g.folds != 0 then [14] else []) ++ (if g.merges != 0 then [2] else []) ++
    if g.phase != .running then s.saveReasons b g
    else
      match g.lead with
      | none => [14]
      | some (slot, p) =>
        (if s.hasToken 0 k.id.toNat b.vd then [] else [7]) ++
          match p.wait with
          | some w => w.reason :: (if p.blocked && g.robFull p then [1] else [])
          | none => p.stallReasons g k.cycle (cs.find? fun x => x.r == ⟨g.id, slot⟩) picks

/-- The stall reason counted: the first that applies in the order of R153. A group that has ended, whose place is
free, counts only what its block's end waits for (R147, R247); a resident group to which no reason applies finds
nothing to fetch. -/
def State.stallReason (s : State) (k : Core) (b : Block) (g : Group) (cs picks : List Cand) : Option Nat :=
  match stallOrder.find? (s.stallReasons k b g cs picks).contains with
  | some n => some n
  | none => if g.phase == .ended then none else some 0

/-- A saturating stall counter rises (R153). -/
def Group.countStall (g : Group) (n : Nat) : Group :=
  let v := g.stall.getD n 0
  { g with stall := g.stall.set n (if v = BitVec.allOnes 32 then v else v + 1) }

/-- The sub-arrays' idle or waking cycle count (R239). -/
def Core.subarrayCycle (k : Core) : Core :=
  let next := k.arrayOp
  let mma := match next with
    | some x => x.isMma && x.runs
    | none => false
  let waits := match next with
    | some x => (match x.state with
      | .gathered _ => x.isMma
      | .bound _ | .queued | .running _ | .storing => false)
    | none => false
  if k.awake then { k with idle := if mma then 0 else k.idle + 1 }
  else { k with idle := if waits then k.idle + 1 else 0 }

/-- Puts a dispatch record back. -/
def Core.setPick (k : Core) (x : PickState) : Core :=
  { k with picks := upsert (fun y => y.path == x.path) x k.picks }

/-- The counts of passed-over cycles: those passed over now, one more; every other path's starts again
(R151). -/
def Core.countPassed (k : Core) (passed : List Cand) : Core :=
  let step (x : PickState) : PickState :=
    if passed.any fun y => y.r == x.path then { x with passed := x.passed + 1 } else { x with passed := 0 }
  { k with picks := (passed.foldl (fun (k : Core) x => k.setPick (k.pick x.r)) k).picks.map step }

/-- Whether a pin is due (R151). -/
def Core.pinDue (k : Core) : Bool := k.pinned.isNone && k.picks.any fun x => 8 ≤ x.passed

/-- What a cycle leaves of a group: a stall counted where nothing dispatched, and every count one cycle
on (R101, R116, R153). -/
def State.groupCycle (s : State) (k : Core) (cs picks : List Cand) (g : Group) (b : Block) : Group :=
  let g' := if picks.any fun y => y.r.grp == g.id then g
    else match s.stallReason k b g cs picks with
      | some n => g.countStall n
      | none => g
  g'.older

/-- What may end a path's wait. -/
def waitItems (r : PathRef) (w : WaitKind) : List Item :=
  match w with
  | .split | .retry | .grant _ _ | .parked _ => [.run r]
  | .wpop _ _ => [.run r, .ev (.wpopWaitExpiry r)]
  | .sleep _ _ => [.ev (.sleepWake r)]
  | .sleept _ _ => [.ev (.sleeptWake r)]
  | .dcf _ => [.ev (.dcfWritebackDone r)]
  | .clause => [.ev (.clauseWaitSatisfied r)]
  | .backoff _ => [.ev (.trapBackoffRetry r)]
  | .fetch _ => []
  | .rel _ _ _ => [.ev (.relTakesEffect r)]

/-- A slot path's items: a waiting path's, which meets breakpoints too (R353); another's instructions that have
executed, oldest first, retire (R88). -/
def slotItems (g : Group) (r : PathRef) (p : Path) : List Item :=
  match p.wait with
  | some w => .run r :: (waitItems r w.kind).filter fun x => x != .run r
  | none => if g.moving then [] else (p.liveRob.takeWhile fun e => e.done).map fun _ => .retire r

/-- Whether a path may take an exception now, for which it needs one of its core's permits, or stop its block: it
waits for its promises or after a back-off, stands at a breakpoint, or its oldest instruction is TRAP or BRK (R155,
R161, R162, R227). -/
def mayTrap (p : Path) : Bool :=
  match p.wait with
  | some w => (match w.kind with
    | .sleept _ _ | .backoff _ => true
    | _ => false)
  | none => match p.liveRob with
    | e :: _ => (match e.instr with
      | .trap _ | .brk _ | .sleept _ | .breakpointStop _ => true
      | _ => false)
    | [] => false

/-- What retires in a cycle: slot 0 before slot 1, and in one slot the group in the lower place first (R118, R237);
behind them the paths that may trap, in the order of R150, which decides who takes a permit (R155). -/
def State.retiring (s : State) (k : Core) : List Item :=
  let sort (f : Group × PathRef × Path → List Nat) (l : List (Group × PathRef × Path)) :
      List (Group × PathRef × Path) :=
    l.foldl (fun acc x => (acc.filter fun y => !rankLt (f x) (f y)) ++ [x] ++ acc.filter fun y => rankLt (f x) (f y)) []
  let xs := s.corePaths k.id
  let quiet := sort (fun x => [if x.2.1.slot then 1 else 0, x.1.place.toNat]) (xs.filter fun x => !mayTrap x.2.2)
  let traps := sort (fun x => k.rankOf x.1 x.2.1.slot x.2.2) (xs.filter fun x => mayTrap x.2.2)
  (quiet ++ traps).flatMap fun x => slotItems x.1 x.2.1 x.2.2

/-- What dispatching leaves of a core and its groups: ranks and pins, counted cycles, new entries in the reorder
buffers and in the issue queues (R101, R150 to R153). -/
def State.afterPicks (s : State) (k : Core) (tokens : State) (cs picks passed : List Cand) : State :=
  let xs := stamped (4 * k.cycle) (s.dispatched k (picks.map fun x => x.needs) picks)
  let k' := (s.core k.id).countPassed passed
  let k' := picks.foldl (fun (k : Core) x => k.setPick ⟨x.r, k.cycle, 0⟩) k'
  let keeps (r : PathRef) : Bool := (cs.any fun x => x.r == r && x.stall.isSome) && !(picks.any fun x => x.r == r)
  let s := s.setCore { k'.subarrayCycle with pinned := k.pinned.filter keeps }
  let s := (s.coreGroups k.id).foldl (fun (s : State) x =>
    match s.group? x.1.id with
    | none => s
    | some g => s.setGroup (tokens.groupCycle k cs picks g x.2)) s
  xs.foldl State.dispatches s

/-- CORE_DISPATCH_CYCLE (R88, R95, R101, R150 to R153, R312, R313, R396): tokens accrue, at most two paths dispatch
into the issue queues, each unit starts the oldest ready instruction of its queue, instructions that have executed
retire, every other count of the core goes on by one cycle. A pin that is due comes first. -/
def execCoreDispatchCycle (core : BitVec 9) (s : State) : Result :=
  let k := s.core core
  if k.pinDue then .next s
  else
    let k := { k with cycle := k.cycle + 1 }
    let n := core.toNat
    let s := ((s.accrue 0 n).setCore k)
    let s := (s.coreGroups core).foldl (fun (s : State) x => s.setGroup (x.1.mergesDone k.cycle)) s
    match s.candidates k with
    | (cs, s) =>
      let tokens := s
      let pin := cs.find? fun x => k.pinned == some x.r
      match s.picks n pin (cs.filter fun x => x.stall.isNone) with
      | (picks, passed, s) =>
        let s := (s.afterPicks k tokens cs picks passed).enterMerges core k.cycle
        let s := ((s.core core).begin' [] (s.readyOf core k.cycle)).foldl (fun (s : State) x =>
          s.begins core k.cycle x) s
        .next { s with agenda := s.retiring k ++ s.agenda }

/-- PASSED_OVER_PIN (R151): of the paths passed over in 8 consecutive cycles the one passed over longest
is pinned, the first in the core's records of several (log 28, DESIGN CHOICE). -/
def execPassedOverPin (core : BitVec 9) (s : State) : Result :=
  let k := s.core core
  if !k.pinDue then .next s
  else
    let best := k.picks.foldl (fun (acc : Option PickState) x =>
      match acc with
      | none => if 8 ≤ x.passed then some x else none
      | some y => if y.passed < x.passed then some x else some y) none
    .next (s.setCore { k with
      pinned := best.map fun x => x.path,
      picks := k.picks.map fun (x : PickState) =>
        if best.any fun y => y.path == x.path then { x with passed := 0 } else x })

/-- AGE_PRIORITY (R101): a slot path aged 4,096 counts as the least recently dispatched of its core. -/
def execAgePriority (r : PathRef) (s : State) : Result :=
  match s.group? r.grp with
  | none => .next s
  | some g =>
    match g.path r.slot, s.block? g.blk with
    | some p, some b =>
      if 4096 ≤ p.age then
        let k := s.core b.core
        .next (s.setCore (k.setPick { k.pick r with last := 0 }))
      else .next s
    | _, _ => .next s

end Sys2Proof.Machine
end

