-- ==== Sys2Proof/Machine/Work.lean ====
section
/-!
DEFINITION. Device-side work: WPOP, ENQ, SIGOP, SIGWAIT (R324, R337 to R340).
The model's own choices here: DEDUCED, log 7; DESIGN CHOICE, log 38.
-/
namespace Sys2Proof.Machine

/-- The feed queue of a block's die level (R333, R338). -/
def feedOf (b : Block) (gr : Grid) : Option FeedQueue := (gr.die? b.dieid).bind fun d => d.feed

/-- Puts a die level's feed queue back. -/
def Grid.setFeed (gr : Grid) (dl : Nat) (f : FeedQueue) : Grid :=
  gr.onDie dl fun d => { d with feed := some f }

/-- The lanes WPOP writes: a record's words, the status in lane 31 (R338). -/
def popLanes (words : Nat) (w : List Word) (status l : Nat) : Word :=
  if l < words then w.getD l 0 else if l = 31 then BitVec.ofNat 32 status else 0

/-- Words of a feed record by feedsz (R75, R338). -/
def feedWords (feedsz : Nat) : Nat := if feedsz = 2 then 16 else 8

/-- The place of a path in a feed queue's line: the sleepers before it have a record each before it (R338). -/
def FeedQueue.placeOf (f : FeedQueue) (r : PathRef) : Nat := (f.sleepers.takeWhile fun x => x != r).length

/-- What a path's WPOP has now, once its time is `spent`: a record, or status 2 of a closed queue, or status 1
(R338). -/
def FeedQueue.popNow (f : FeedQueue) (r : PathRef) (spent : Bool) : Option (Option (List Word) × Nat) :=
  match f.recs[f.placeOf r]? with
  | some w => some (some w, 0)
  | none => if f.closed then some (none, 2) else if spent then some (none, 1) else none

/-- When a WPOP's wait ends: the limit its first execution set, or the one its operand sets now
(R338). -/
def popLimit (s : State) (p : Path) (t : DWord) : Option Nat :=
  match p.wait with
  | some ⟨.wpop dl _, _, _, _, _⟩ => dl
  | _ => if t == -1 then none else some (s.timebase.toNat + min t.toNat (2 ^ 32 - 1))

/-- A WPOP retires with a record's words or a status; a record taken is an acquire (R338). -/
def popRetire (s : State) (c : Cur) (g : Group) (p : Path) (b : Block) (gr : Grid) (e : Word)
    (o : ROps) (f : FeedQueue) (x : Option (List Word) × Nat) : Result :=
  if !g.canWrite 1 then stay s c g p (.wpop (popLimit s p (g.sreg o.a)) o) 2
  else
    let f' := { f with recs := if x.1.isSome then dropAt (f.placeOf c.p) f.recs else f.recs,
                       sleepers := f.sleepers.filter fun r => r != c.p }
    let s := s.setGrid (gr.setFeed b.dieid f')
    let y := if x.1.isSome then s.acquireFor ⟨b.core, b.vd, c.p⟩ g .dev allRegions else (g, s)
    retire y.2 c (y.1.applyWrites c.p.slot p.mask e
      (vWrite o.d (lanesOf (popLanes (feedWords gr.desc.feedsz) (x.1.getD []) x.2)) 0
        (markOf o.la .s o.a))) p

/-- WPOP (R338): sleepers take records in the order in which they began to wait. -/
def execWpop (o : ROps) (s : State) : Result :=
  groupLevel s o.g [o.d.toNat] fun c g p e =>
    withBlock s g fun b gr =>
      match feedOf b gr with
      | none => fatal s c g p 0x11 e 0
      | some f =>
        let dl := popLimit s p (g.sreg o.a)
        let spent := match dl with
          | some t => t ≤ s.timebase.toNat
          | none => false
        match f.popNow c.p spent with
        | some x => popRetire s c g p b gr e o f x
        | none =>
          let f' := if f.sleepers.contains c.p then f else { f with sleepers := f.sleepers ++ [c.p] }
          stay (s.setGrid (gr.setFeed b.dieid f')) c g p (.wpop dl o) 10

/-- WPOP_WAIT_EXPIRY (R338): the time is spent; the WPOP retires with what it then has. -/
def execWpopWaitExpiry (r : PathRef) (s : State) : Result :=
  completeWait s r fun c g p k =>
    match k with
    | .wpop (some dl) o =>
      withBlock s g fun b gr =>
        match feedOf b gr with
        | some f =>
          if dl ≤ s.timebase.toNat then
            match f.popNow c.p true with
            | some x => popRetire s c g p b gr (p.mask &&& g.guard o.g) o f x
            | none => .next s
          else .next s
        | none => .next s
    | _ => .next s

/-- A queue's ring size in packets (R324). -/
def State.ringSize (s : State) (q : BitVec 10) : Nat :=
  2 ^ ((s.reg (queueKey q 0)).toNat / 256 % 16 + 4)

/-- QDOOR and QDONE of a queue (R324). -/
def State.qdoor (s : State) (q : BitVec 10) : Word := (s.reg (queueKey q 0x20)).setWidth 32

@[inherit_doc State.qdoor]
def State.qdone (s : State) (q : BitVec 10) : Word := (s.reg (queueKey q 0x28)).setWidth 32

/-- Whether a queue is enabled, takes ENQ, and whose it is (R324). -/
def State.qEnabled (s : State) (q : BitVec 10) : Bool := (s.reg (queueKey q 0)).getLsbD 63

@[inherit_doc State.qEnabled]
def State.qDev (s : State) (q : BitVec 10) : Bool := (s.reg (queueKey q 0)).getLsbD 62

@[inherit_doc State.qEnabled]
def State.qVd (s : State) (q : BitVec 10) : BitVec 8 := (s.reg (queueKey q 0)).setWidth 8

/-- The VA of packet `n` of a queue (R324). -/
def State.packetVa (s : State) (q : BitVec 10) (n : Word) : Nat :=
  (s.reg (queueKey q 8)).toNat % 2 ^ 56 + 64 * (n.toNat % s.ringSize q)

/-- A stretch of global memory of a virtual device, as a region (R327, R339, R340). -/
def globalRegion (va len : Nat) : Region :=
  { h := { slot := 0, idx := 4096, base := BitVec.ofNat 64 va, length := len, space := 0, perm := 7,
           policy := 0, bind := false, spx := 0, sync := 0 },
    blk := 0, len := len, cap := none }

/-- Stages 1 and 2 of R169 for an access of `n` bytes at a locator, with the spaces `ok` admits and
permission bit `bit`. -/
def locatorRegion (s : State) (c : Cur) (g : Group) (p : Path) (b : Block) (gr : Grid) (e : Word)
    (loc : Locator) (ok : Nat → Bool) (bit n : Nat) (k : Region → Result) : Result :=
  let region : Option Region := match b.slotAt loc.slot with
    | some h => if ok h.space.toNat && h.perm.getLsbD bit then s.regionOf b gr h else none
    | none => none
  match region with
  | none => fatal s c g p 0x11 e 0
  | some r =>
    if r.inside loc.off n then k r
    else fatal s c g p 0x10 e (offAddr r 0 e fun _ => (loc.off : Int))

/-- The accesses of every lane of `e` to `n` bytes of a region at an offset. -/
def sameReqs (r : Region) (e : Word) (o n : Nat) : List LaneReq :=
  (lanesIn e).map fun l => ⟨l, (List.range n).map fun i => r.addr (o + i)⟩

/-- ENQ (R339): the packet's bytes are read, the queue is checked (R157: after the access's own stages),
the release is made, and the packet is written and its doorbell rung in one step. -/
def execEnq (o : ROps) (s : State) : Result :=
  memGroup s o.g [] fun c g gv p e =>
    withBlock s g fun b gr =>
      let loc := locatorOf (scalarB gv o.b)
      locatorRegion s c g p b gr e loc (fun x => x == 0) 0 64 fun r =>
        withLines s c g gv p b e r .read (sameReqs r e loc.off 64) 3 fun s p rs =>
          let qn := (gv.sreg o.a).toNat
          let q : BitVec 10 := BitVec.ofNat 10 qn
          if 1023 < qn || !s.qEnabled q || !s.qDev q || s.qVd q != b.vd then fatal s c g p 0x81 e 0
          else if loc.off % 64 ≠ 0 then
            fatal s c g p 0x12 e (offAddr r 0 e fun _ => (loc.off : Int))
          else if !s.released g .dev then stay s c g p .retry 12
          else if (s.qdoor q - s.qdone q).toNat = s.ringSize q then stay s c g p .retry 10
          else
            let n := s.qdoor q + 1
            let va := s.packetVa q n
            let ring := globalRegion va 64
            withLines s c g gv p b e ring .write (sameReqs ring e 0 64) 12 fun s p rsw =>
              let ls := g.linesRead rs
              let bs := (List.range 64).map fun i => byteAt ls (r.addr (loc.off + i))
              let packet := putBytes bs 4 (bytesOfNat 4 n.toNat)
              let addrs := (List.range 64).map fun i => va + i
              let s := (s.storeAt (dieOf b.core) rsw (addrs.zip packet)).setReg (queueKey q 0x20) (n.setWidth 64)
              retire s c ((s.observeLines ⟨b.core, b.vd, c.p⟩ g rs).applyMarks c.p.slot p.mask
                (marksR o .s .s .none)) p

/-- The signal of a SIGOP or SIGWAIT: stages 1 to 4 of R169 as an 8-byte atomic, its older stores quiet
(R185, R340). -/
def signalOp (o : ROps) (s : State)
    (k : State → Cur → Group → Group → Path → Block → Word → List AtomLine → List Nat → Result) :
    Result :=
  memGroup s o.g [] fun c g gv p e =>
    withBlock s g fun b gr =>
      let loc := locatorOf (gv.sreg o.a)
      locatorRegion s c g p b gr e loc (fun x => x == 0 || x == 6) 2 8 fun r =>
        if r.addr loc.off % 8 ≠ 0 then fatal s c g p 0x12 e (offAddr r 0 e fun _ => (loc.off : Int))
        else
          withLines s c g gv p b e r .atomic (sameReqs r e loc.off 8) 3 fun s p rs =>
            let ls := atomLines rs
            if !s.linesQuiet g ls then stay s c g p .retry 12
            else k s c g gv p b e ls ((List.range 8).map fun i => r.addr (loc.off + i))

/-- A SIGOP's new value (R340). -/
def sigNew (op : SigOp) (old b : DWord) : DWord :=
  match op with
  | .add => old + b
  | .set => b
  | .max => if old.slt b then b else old
  | .min => if b.slt old then b else old

/-- SIGOP (R340). -/
def execSigop (op : SigOp) (sc : Scope) (acq : Bool) (o : ROps) (s : State) : Result :=
  signalOp o s fun s c g gv p b e ls addrs =>
    let hit := g.relsAt ls addrs
    if !((sc :: hit.map fun r => r.scope).all (s.released g)) then stay s c g p .retry 12
    else
      let st : Site := ⟨b.core, b.vd, c.p⟩
      let old : DWord := BitVec.ofNat 64 (s.atomRead ls addrs)
      let s := s.atomWrite st ls addrs (sigNew op old (scalarB gv o.b)).toNat
      let g := { g with rels := g.rels.filter fun r => !hit.contains r }
      let x := if acq then s.acquireFor st g sc allRegions else (g, s)
      retire x.2 c (x.1.applyWrites c.p.slot p.mask e
        (sWrite o.d old 0 (marksR o .s .s .none))) p

/-- A SIGWAIT condition (R340). -/
def sigHolds (cd : SigCond) (v b : DWord) : Bool :=
  match cd with
  | .le => v.sle b
  | .ge => b.sle v
  | .eq => v == b
  | .ne => v != b

/-- SIGWAIT (R340). -/
def execSigwait (cd : SigCond) (sc : Scope) (o : ROps) (s : State) : Result :=
  signalOp o s fun s c g gv p b _ ls addrs =>
    if sigHolds cd (BitVec.ofNat 64 (s.atomRead ls addrs)) (scalarB gv o.b) then
      let x := s.acquireFor ⟨b.core, b.vd, c.p⟩ g sc allRegions
      retire x.2 c (x.1.applyMarks c.p.slot p.mask (marksR o .s .s .none)) p
    else stay s c g p .retry 10

end Sys2Proof.Machine
end

