-- ==== Sys2Proof/Machine/Reside.lean ====
section
/-!
DEFINITION. How blocks become resident, stop, are saved and complete: releases that take effect, the
joint admission of a cluster level, save areas (R90, R100, R113, R147, R154, R164, R166, R196 to R211,
R230, R231, R247, R253, R293, R310, R315 to R317, R331, R334, R357, R395).
The model's own choices here: DESIGN CHOICE, logs 24, 29, 31, 34, 48.
-/
namespace Sys2Proof.Machine

/-- A group as it is when it first becomes resident with `n` v-registers (R86, R334). -/
def freshGroup (id blk idx n : Nat) (place : BitVec 4) (entry : Va) (sregs : List DWord) : Group :=
  { id := id, blk := blk, idx := idx, place := place, phase := .running, regn := n, sregs := sregs,
    preds := zeroPreds, m0 := emptyMap, m1 := [], phys := [], slot0 := some (freshPath entry),
    slot1 := none, stack := [], fstat := 0, stall := List.replicate 16 0,
    trap := ⟨0, 0, 0, 0, 0, 0, false⟩, sb := [], sbRest := [], cnt := ⟨0, 0, 0, 0⟩, rels := [],
    replay := [], bars := [], batch := 0, openOps := [], batches := [], copies := [],
    lastOp := none, done := [], mst := [], obs := [], spills := 0, folds := 0, merges := 0, mq := [], halved := false,
    note := none }

/-! ### Releases -/

/-- Whether a key lies in the units of a block above its first `n` bytes of scratch or tile memory. -/
def unitKey (ty : RType) (blk n : Nat) : LineKey → Bool
  | .scr b o => ty == .scr && b == blk && n < o + 128
  | .tile b o => ty == .tile && b == blk && n < o + 128
  | .mem _ _ _ | .host _ _ => false

/-- Whether a remote-scratch handle's spx names a block itself (R260). -/
def Block.namesItself (b : Block) (spx : Word) : Bool :=
  b.dieid == (spx.extractLsb' 7 2).toNat && b.cid == (spx.extractLsb' 3 4).toNat && b.bid == (spx.extractLsb' 0 3).toNat

/-- Whether an endpoint lies in those units of block `b`, by a handle of its own or a remote-scratch one. -/
def Endpoint.inUnits (x : Endpoint) (b : Block) (ty : RType) (n len : Nat) : Bool :=
  (match ty with
   | .scr => x.handle.space == 1 || (x.handle.space == 2 && b.namesItself x.handle.spx)
   | .tile => x.handle.space == 3
   | .reg | .eng => false) && n < (x.handle.base.toNat + x.off) % 2 ^ 56 + len

/-- Whether an array operation uses those units (R210). -/
def MatOp.inUnits (m : MatOp) (b : Block) (ty : RType) (n : Nat) : Bool :=
  match ty, m with
  | .tile, _ => m.tiles.any fun x => n < x.1 + x.2
  | .scr, .mma _ _ _ _ _ rows => rows.any fun r => match r with
    | some o => n < o + 192
    | none => false
  | .scr, .mld _ d | .scr, .mst _ d => d.inUnits b .scr n btBytes
  | _, _ => false

/-- Whether accesses or operations to the units a REL removes are still incomplete (R210): `left` is what
the block keeps. -/
def State.unitsBusy (s : State) (b : Block) (ty : RType) (left : Nat) : Bool :=
  let n := unitBytes left
  match ty with
  | .reg => false
  | .eng => b.chans.any fun ch => left ≤ ch.num && !ch.queue.isEmpty
  | .tile | .scr =>
    (s.flight.any fun f => f.who.isNone && unitKey ty b.id n f.entry.key) ||
    (s.groups.any fun g => g.blk == b.id && (g.sb ++ g.sbRest).any fun e => unitKey ty b.id n e.key) ||
    ((s.core b.core).array.any fun x => x.blk == b.id && x.op.inUnits b ty n) ||
    (b.chans.any fun ch => ch.queue.any fun x => x.dst.inUnits b ty n x.len || x.src.inUnits b ty n x.len)

/-- A block without the units above its first `left` of a type: what they held is lost (R197, R215). -/
def Block.releaseTo (b : Block) (ty : RType) (left : Nat) : Block :=
  let b := { b with alloc := b.alloc.set ty left }
  match ty with
  | .tile => { b with tile := b.tile.below (unitBytes left) }
  | .scr => { b with scr := b.scr.below (unitBytes left) }
  | .eng => { b with chans := b.chans.filter fun ch => ch.num < left }
  | .reg => b

/-- REL_TAKES_EFFECT (R210): accesses to the removed units are complete; they go back, and the REL
retires. -/
def execRelTakesEffect (r : PathRef) (s : State) : Result :=
  completeWait s r fun c g p k =>
    match k with
    | .rel ty n o =>
      withBlock s g fun b _ =>
        let left := b.alloc.get ty - n
        if b.alloc.get ty < n then fatal s c g p 0x32 (p.mask &&& g.guard o.g) 0
        else if s.unitsBusy b ty left then .next s
        else
          retire ((s.setBlock (b.releaseTo ty left)).retestAll (clusterOf b.core)) c
            (g.applyMarks c.p.slot p.mask (bMarks o)) p
    | _ => .next s

/-! ### Nodes -/

/-- The fields of a node's bytes (R310). -/
def nodeOf (va : DWord) (bs : List Byte) : Node :=
  let w (o n : Nat) : Nat := natOfBytes ((bs.drop o).take n)
  { va := va, level := bs.getD 0 0, prio := bs.getD 1 0, fdom := BitVec.ofNat 16 (w 2 2),
    weight := BitVec.ofNat 16 (w 4 2), regcap := BitVec.ofNat 16 (w 6 2),
    scrcap := BitVec.ofNat 16 (w 8 2), tilecap := bs.getD 10 0, engcap := bs.getD 11 0,
    energy := BitVec.ofNat 32 (w 12 4), parent := BitVec.ofNat 64 (w 0x10 8),
    recarea := BitVec.ofNat 64 (w 0x18 8), reccount := BitVec.ofNat 32 (w 0x20 4) }

/-- Whether a node's bytes keep R310's table. -/
def nodeGood (n : Node) (bs : List Byte) : Bool :=
  (n.prio == 0xFF || n.prio.toNat ≤ 15) && n.weight != 0 &&
    (n.regcap == 0xFFFF || n.regcap.toNat ≤ 128) && (n.scrcap == 0xFFFF || n.scrcap.toNat ≤ 128) &&
    (n.tilecap == 0xFF || n.tilecap.toNat ≤ 32) && (n.engcap == 0xFF || n.engcap.toNat ≤ 16) &&
    (if n.fdom == 0xFFFF then n.recarea == 0
     else n.recarea != 0 && n.recarea.toNat % 64 == 0 && n.reccount != 0) &&
    (((bs.drop 0x24).take 28).all fun b => b == 0)

/-- A node in a virtual device's memory, with whether it keeps R310's table at its level (R310, R398). -/
def State.readNode (s : State) (vd : BitVec 8) (va : DWord) (level : BitVec 8) :
    Option (Node × Bool × State) :=
  match s.deviceRead vd va.toNat 128 with
  | none => none
  | some (bs, s) =>
    let n := nodeOf va bs
    some (n, nodeGood n bs && n.level == level && va.toNat % 128 == 0, s)

/-- A cap resolved on a path: the least of the values set (R201). -/
def leastCap (vs : List (Nat × Bool)) (top : Nat) : Nat :=
  vs.foldl (fun m v => if v.2 then min m v.1 else m) top

/-- The resolved caps of a path from a grid node to its root (R201). -/
def capsOf (ns : List Node) : Units :=
  { reg := leastCap (ns.map fun n => (n.regcap.toNat, n.regcap != 0xFFFF)) 128,
    tile := leastCap (ns.map fun n => (n.tilecap.toNat, n.tilecap != 0xFF)) 32,
    scr := leastCap (ns.map fun n => (n.scrcap.toNat, n.scrcap != 0xFFFF)) 128,
    eng := leastCap (ns.map fun n => (n.engcap.toNat, n.engcap != 0xFF)) 16 }

/-- The nearest node of a path that sets its fault domain (R310). -/
def domainNode (ns : List Node) : Option Node := ns.find? fun n => n.fdom != 0xFFFF

/-- The resolved priority and weight of a path (R310, R335). -/
def prioOf (ns : List Node) : Nat :=
  match ns.find? fun n => n.prio != 0xFF with
  | some n => n.prio.toNat
  | none => 0

@[inherit_doc prioOf]
def weightOf (ns : List Node) : Nat :=
  match ns.find? fun n => n.weight != 0xFFFF with
  | some n => n.weight.toNat
  | none => 1

/-- A root's own fields from its 256 bytes (R310). -/
def rootOf (bs : List Byte) (good : Bool) : Root :=
  let w (o n : Nat) : Nat := natOfBytes ((bs.drop o).take n)
  { node := nodeOf 0 bs, good := good,
    ptroot := (List.range 4).map fun i => BitVec.ofNat 64 (w (0x80 + 8 * i) 8),
    seed := BitVec.ofNat 40 (w 0xA0 5), mask := BitVec.ofNat 4 (w 0xA8 1), part := w 0xA9 1,
    nhand := w 0xAA 2, nslot := w 0xAC 4, htab := BitVec.ofNat 64 (w 0xB0 8),
    savepool := BitVec.ofNat 64 (w 0xB8 8) }

/-- Whether a root's 256 bytes keep R310: a node at level 0 that inherits nothing, and the fields of a
root. -/
def rootGood (bs : List Byte) : Bool :=
  let w (o n : Nat) : Nat := natOfBytes ((bs.drop o).take n)
  let n := nodeOf 0 bs
  let pt (i : Nat) : Bool :=
    let e : DWord := BitVec.ofNat 64 (w (0x80 + 8 * i) 8)
    !(w 0xA8 1).testBit i ||
      (e.getLsbD 0 && (e &&& 0xFFFF000000001FFE) == 0 && (e.extractLsb' 13 35).toNat * 2 ^ 13 < dramEnd)
  nodeGood n bs && n.level == 0 && n.parent == 0 && n.prio != 0xFF && n.fdom != 0xFFFF &&
    n.weight != 0xFFFF && n.regcap != 0xFFFF && n.scrcap != 0xFFFF && n.tilecap != 0xFF &&
    n.engcap != 0xFF && n.energy != 0xFFFFFFFF && (List.range 4).all pt && w 0xA5 3 == 0 &&
    1 ≤ w 0xA8 1 && w 0xA8 1 ≤ 15 && w 0xA9 1 ≤ 63 && 1 ≤ w 0xAA 2 && w 0xAA 2 ≤ 4096 && w 0xAC 4 != 0 &&
    w 0xB0 8 % 32 == 0 && w 0xB8 8 % 65536 == 0 && ((bs.drop 0xC0).take 64).all fun b => b == 0

/-- The root at a die-local PA (R308 to R310). -/
def State.readRoot (s : State) (die : BitVec 2) (pa : Nat) : Root :=
  let bs := if s.backed die pa then s.frameBytes die pa 256 else []
  rootOf bs (rootGood bs)

/-- The place of a virtual device's root, as its VDRCB names it: die and die-local PA (R308). -/
def State.rootPlace (s : State) (vd : BitVec 8) : BitVec 2 × Nat :=
  let v := s.reg (vdKey vd 0)
  (v.extractLsb' 62 2, (v.extractLsb' 7 41).toNat * 128)

/-- A node read again, or as it was where it cannot be read or breaks R310. -/
def State.rereadNode (s : State) (vd : BitVec 8) (n : Node) : Node × State :=
  if n.level = 0 then
    let x := s.rootPlace vd
    let r := s.readRoot x.1 x.2
    (if r.good then r.node else n, s)
  else
    match s.readNode vd n.va n.level with
    | some (m, true, s) => (m, s)
    | _ => (n, s)

/-- A grid's path as the host has it now, read when a domain has no resident block (R201). -/
def State.rereadNodes (s : State) (vd : BitVec 8) : List Node → List Node × State
  | [] => ([], s)
  | n :: t =>
    match s.rereadNode vd n with
    | (m, s) =>
      match State.rereadNodes s vd t with
      | (ms, s) => (m :: ms, s)

/-! ### Becoming resident -/

/-- A handle-table entry for a window slot (R77). -/
def handleOf (slot idx : Nat) (bs : List Byte) : Handle :=
  let w (o n : Nat) : Nat := natOfBytes ((bs.drop o).take n)
  { slot := BitVec.ofNat 8 slot, idx := idx, base := BitVec.ofNat 64 (w 0 8), length := w 8 8,
    space := bs.getD 16 0, perm := bs.getD 17 0, policy := bs.getD 18 0,
    bind := (bs.getD 19 0).getLsbD 0, spx := BitVec.ofNat 32 (w 20 4),
    sync := BitVec.ofNat 64 (w 24 8) }

/-- The entry a window slot names, as the device copies it; none where the slot counts as unmapped
(R166). -/
def State.readHandle (s : State) (vd : BitVec 8) (r : Root) (x : Nat × Nat) : Option (Handle × State) :=
  if r.nhand ≤ x.2 then none
  else
    match s.deviceRead vd (r.htab.toNat + 32 * x.2) 32 with
    | none => none
    | some (bs, s) =>
      let h := handleOf x.1 x.2 bs
      if h.length = 0 then none else some (h, s)

/-- The handle copies of a window (R166). -/
def State.readWindow (s : State) (die : BitVec 2) (vd : BitVec 8) (r : Root) (wmap : List (Nat × Nat)) :
    List Handle × State :=
  wmap.foldl (fun acc x =>
    match acc.2.readHandle vd r x with
    | some (h, s) => (acc.1 ++ [h], s)
    | none => (acc.1, acc.2.countRefusal die vd .read (r.htab.toNat + 32 * x.2) 32)) ([], s)

/-- The group places of a core that nothing holds, lowest first; groups that become resident take them in that order,
by their number in the block (R147, which names no place; log 24, DESIGN CHOICE). -/
def State.freePlaces (s : State) (core : BitVec 9) : List (BitVec 4) :=
  let here := s.blocks.filter fun b => b.core == core && b.phase == .resident
  let held := s.groups.filter fun g => g.phase != .ended && here.any fun b => b.id == g.blk
  ((List.range 16).map fun n => BitVec.ofNat 4 n).filter fun n => !held.any fun g => g.place == n

/-- The lowest save slot no block of the virtual device has (R316). -/
def freeSlot (d : VirtDev) (r : Root) : Option Nat :=
  (List.range r.nslot).find? fun n => !d.slots.contains n

/-- The scalar registers of a group at its launch (R334). -/
def launchSregs (args : List DWord) : List DWord :=
  (List.range 63).map fun i => if i = 0 then 0 else args.getD (i - 1) 0

/-- A block's groups when it first becomes resident (R86, R334). Of an entry address whose bits [63:56] are not zero
the low 56 count, as of the descriptor's other VAs (R75, which gives no outcome; log 48, DESIGN CHOICE). -/
def State.bearGroups (s : State) (b : Block) (gr : Grid) : State :=
  let places := s.freePlaces b.core
  (List.range b.ngrp).foldl (fun s i =>
    let n := s.newId
    let g := freshGroup n.1 b.id i (8 * gr.desc.regs8) (places.getD i 0) (gr.desc.entry.setWidth 56)
      (launchSregs gr.args)
    let x := n.2.acquireFor ⟨b.core, b.vd, ⟨n.1, false⟩⟩ g .sys allRegions
    { x.2 with groups := x.2.groups ++ [x.1] }) s

/-- A saved block's groups go on where they stood, in new places; the caches they read through from now on hold
nothing of their virtual device that is older than what they had acquired (R147, R203, R283, R293). -/
def State.wakeGroups (s : State) (b : Block) : State :=
  let places := s.freePlaces b.core
  let mine := s.groups.filter fun g => g.blk == b.id && g.phase == .saved
  (mine.zip places).foldl (fun s x =>
    (s.setGroup { x.1 with phase := .running, place := x.2, note := none }).acquire ⟨b.core, b.vd, ⟨x.1.id, false⟩⟩ .sys
      allRegions) s

/-- A block start record (R357). -/
def State.traceStart (s : State) (b : Block) : State :=
  if s.tracingBlocks b.vd then
    s.trace (dieOf b.core) b.vd [⟨2, b.phaseSum, whereOf b 0, s.timebase, 0, 0, 0, []⟩]
  else s

/-- A block becomes resident on a core: its base allocation is made, its handles are read, its groups
start or go on (R147, R166, R197, R198, R203, R316, R334). -/
def State.makeResident (s : State) (gr : Grid) (b : Block) (core : BitVec 9) : State :=
  match (s.vdev b.vd).root with
  | none => s
  | some r =>
    let d := s.vdev b.vd
    let slot := match b.slot with
      | some n => some n
      | none => freeSlot d r
    let d := if b.slot.isSome then d else { d with slots := d.slots ++ slot.toList }
    let w := (s.setVdev d).readWindow (dieOf b.core) b.vd r gr.wmap
    let fresh := b.phase == .ready
    let b' : Block := { b with
      core := core, slot := slot, win := w.1, since := s.timebase.toNat, stop := none,
      claim := if fresh then gr.desc.claim else b.claim,
      alloc := if fresh then gr.desc.base else b.alloc }
    let s := if fresh then w.2.bearGroups b' gr else w.2.wakeGroups b'
    let s := s.setBlock { b' with phase := .resident }
    if fresh then s.traceStart b' else s

/-! ### Admission -/

/-- The blocks of a cluster level that wait to become resident, in ascending BID (R202, R317). -/
def State.waitingBlocks (s : State) (gr : Grid) (dl cl : Nat) : List Block :=
  (List.range 8).flatMap fun n => s.blocks.filter fun b =>
    b.grid == gr.id && b.dieid == dl && b.cid == cl && b.bid == n && (b.phase == .ready || b.phase == .saved)

/-- Whether a block of a die level is resident. -/
def State.dieBusy (s : State) (gr : Grid) (dl : Nat) : Bool :=
  s.blocks.any fun b => b.grid == gr.id && b.dieid == dl && b.phase == .resident

/-- Whether a die level must stay on the die it has: of a gang, with a feed queue, with a die heap, with a
resident block, or with none that is saved (R253, R317, R333). -/
def State.dieHeld (s : State) (gr : Grid) (d : DieLevel) : Bool :=
  d.die.isSome && (gr.desc.gang || d.feed.isSome || s.dieBusy gr d.idx ||
    (let mine := s.blocks.filter fun b => b.grid == gr.id && b.dieid == d.idx
     (mine.any fun b => b.win.any fun h => h.space == 6) || !(mine.any fun b => b.phase == .saved)))

/-- Whether a die level may be on a die: in the mask, its own if it must stay there, and no other die
level's (R253). -/
def State.dieMay (s : State) (gr : Grid) (r : Root) (d : DieLevel) (die : BitVec 2) : Bool :=
  r.mask.getLsbD die.toNat && (!s.dieHeld gr d || d.die == some die) &&
    gr.levels.all fun e => e.idx == d.idx || !s.dieHeld gr e || e.die != some die

/-- The energy a node's virtual device has metered on it in this window (R335). -/
def VirtDev.used (d : VirtDev) (va : DWord) : Nat :=
  match d.energy.find? fun x => x.1 == va with
  | some x => x.2
  | none => 0

/-- Some energy, on some nodes (R335). -/
def VirtDev.meter (d : VirtDev) (vas : List DWord) (w : Nat) : VirtDev :=
  { d with energy := vas.foldl (fun l va =>
      upsert (fun x => x.1 == va) (va, ({ d with energy := l } : VirtDev).used va + w) l) d.energy }

/-- Whether a virtual device's partition owns a cluster (R305, R306). -/
def State.hasCluster (s : State) (vd : BitVec 8) (hw : BitVec 6) : Bool :=
  match s.partOf vd with
  | some p => p.clu.getLsbD hw.toNat
  | none => false

/-- Whether a virtual device's partition owns a cluster, and is not about to give it up (R305, R306,
R318). -/
def State.ownsCluster (s : State) (vd : BitVec 8) (hw : BitVec 6) : Bool :=
  match s.partOf vd with
  | some p => p.clu.getLsbD hw.toNat && (match s.partPend with
    | some c => c.part != p.num || (match c.want with
      | some w => w.clu.getLsbD hw.toNat
      | none => false)
    | none => true)
  | none => false

/-- Whether a fault domain of a virtual device is halted, or about to be: every one is while a package clock fault
stands (R265, R266, R320). -/
def State.domainHalted (s : State) (vd : BitVec 8) (fdom : BitVec 16) : Bool :=
  let d := s.vdev vd
  s.clkFault || d.halted.contains fdom || d.raised.any fun h => h.fdom == fdom

/-- Whether a stop is under way of the cluster level, or of the gang, that some blocks belong to: they are saved
and restored together (R231, R253, R317, R395). -/
def State.stopping (s : State) (gr : Grid) (dl cl : Nat) : Bool :=
  s.blocks.any fun b => b.grid == gr.id && b.phase == .resident && b.stop.isSome &&
    (gr.desc.gang || (b.dieid == dl && b.cid == cl))

/-- Whether a PGINV covers what an admission of the grid's blocks reads or writes: its nodes, its handles, the
trace ring (R271). -/
def State.admitBusy (s : State) (gr : Grid) (r : Root) : Bool :=
  (gr.nodes.any fun n => n.level != 0 && s.rangeBusy gr.vd n.va.toNat 128) ||
    (gr.wmap.any fun x => s.rangeBusy gr.vd (r.htab.toNat + 32 * x.2) 32) ||
    (s.tracingBlocks gr.vd && s.traceBusy gr.vd)

/-- Whether a cluster level may be offered to a hardware cluster at all; its request is decided at once, when
its Reeve has no older one to decide (R206, R253, R266, R306, R316, R320, R362, R378, R395; log 24, DESIGN
CHOICE). -/
def State.mayOffer (s : State) (gr : Grid) (dl cl : Nat) (hw : BitVec 6) : Bool :=
  match (s.vdev gr.vd).root, gr.die? dl with
  | some r, some d =>
    let bs := s.waitingBlocks gr dl cl
    let new := (bs.filter fun b => b.slot.isNone).length
    let up := s.blocks.filter fun b => b.grid == gr.id && b.phase == .resident
    let mine (b : Block) : Bool := b.dieid == dl && b.cid == cl
    let taken := up.any fun b => (clusterOf b.core == hw) != mine b
    !bs.isEmpty && !s.clkFault && s.power == .active && !(s.vdev gr.vd).held && !gr.halted &&
      !s.domainHalted gr.vd gr.fdom && !taken && !s.stopping gr dl cl && !s.admitBusy gr r &&
      (s.cluster hw).admitsNow &&
      s.ownsCluster gr.vd hw && s.dieMay gr r d (hw.extractLsb' 4 2) &&
      (s.vdev gr.vd).slots.length + new ≤ r.nslot
  | _, _ => false

/-- What becomes of an admission request (R202). -/
inductive Admit where
  | failed
  | withdrawn
  | ok (s : State)
  deriving DecidableEq, Repr

/-- A waiting block's base allocation (R200, R202, R203). -/
def baseOf (gr : Grid) (b : Block) : Units := if b.phase == .ready then gr.desc.base else b.alloc

/-- A waiting block's claim: a restored one's is unchanged (R203). -/
def claimOf (gr : Grid) (b : Block) : Units := if b.phase == .ready then gr.desc.claim else b.claim

/-- Step 3 of R202: the blocks of a cluster level, one after another, against the tentative grants before
them and the freeze rule of R209. `hs` are the cluster's holdings. -/
def State.testLevel (s : State) (gr : Grid) (hw : BitVec 6) : List Holding → List (Block × BitVec 9) → Bool
  | _, [] => true
  | hs, (b, core) :: t =>
    let base := baseOf gr b
    let b' := { b with core := core, alloc := ⟨0, 0, 0, 0⟩, claim := claimOf gr b }
    let x := base.vec core
    let hs' := hs ++ [b'.holding]
    let frozen := (s.cluster hw).deferred.any fun r => r.frozen && base.get r.ty != 0
    let need := b'.holding.need
    let passes := !frozen || (need.le (s.availOf hw hs') && need.le (s.davailOf hw hs' b'))
    passes && s.safeTest hw hs' b' x == .grant &&
      State.testLevel s gr hw (hs ++ [{ b'.holding with alloc := x }]) t

/-- Step 1 of R202, for a restored block as for a new one: whether every claim lies within the domain's capacity and
8 x groups (R203). -/
def State.claimsFit (s : State) (gr : Grid) (hw : BitVec 6) (bs : List (Block × BitVec 9)) : Bool :=
  bs.all fun x => (claimOf gr x.1).reg ≤ 8 * gr.desc.groups &&
    ((claimOf gr x.1).vec x.2).le (s.capVec hw (s.domainCap x.1))

/-- Whether every core has a free place for each group the level puts there (R147). -/
def State.placesFit (s : State) (bs : List (Block × BitVec 9)) : Bool :=
  let groupsOf (b : Block) : Nat :=
    if b.phase == .ready then b.ngrp
    else (s.groups.filter fun g => g.blk == b.id && g.phase == .saved).length
  bs.all fun x =>
    !(s.core x.2).removed &&
      ((bs.filter fun y => y.2 == x.2).map fun y => groupsOf y.1).sum ≤ (s.freePlaces x.2).length

/-- The caps of a domain, read again while it has no resident block (R201). -/
def State.refreshCaps (s : State) (gr : Grid) (dl cl : Nat) : State × Grid :=
  if s.blocks.any fun b => b.grid == gr.id && b.dieid == dl && b.cid == cl && b.phase == .resident then (s, gr)
  else
    let n := s.rereadNodes gr.vd gr.nodes
    let gr' := { gr.onDie dl fun d => d.onClu cl fun x => { x with cap := capsOf n.1 } with nodes := n.1 }
    (n.2.setGrid gr', gr')

/-- The cluster level's blocks become resident together on its cluster and die (R147, R202, R231). -/
def State.placeLevel (s : State) (gr : Grid) (dl cl : Nat) (hw : BitVec 6)
    (bs : List (Block × BitVec 9)) : State :=
  let s := bs.foldl (fun s x => s.makeResident gr x.1 x.2) s
  let gr := match s.grid? gr.id with
    | some g => g
    | none => gr
  let gr := gr.onDie dl fun d =>
    { d.onClu cl fun x => { x with cluster := some hw } with die := some (hw.extractLsb' 4 2) }
  s.setGrid { gr with resume := gr.resume.filter fun n => !bs.any fun x => x.1.id == n }

/-- The admission request for one cluster level on a hardware cluster, with a core for each of its waiting
blocks (R202, R203). -/
def State.admitLevel (s : State) (gr : Grid) (dl cl : Nat) (hw : BitVec 6) (cores : List (BitVec 3)) :
    Admit :=
  let q := s.refreshCaps gr dl cl
  let s := q.1
  let gr := q.2
  let blocks := s.waitingBlocks gr dl cl
  let bs := blocks.zip (cores.map fun c => hw ++ c)
  if !s.mayOffer gr dl cl hw || cores.length != blocks.length then .withdrawn
  else if !s.claimsFit gr hw bs then .failed
  else if 64 < (s.residents hw).length + bs.length || !s.placesFit bs then .withdrawn
  else if s.testLevel gr hw ((s.residents hw).map Block.holding) bs then
    .ok ((s.setCluster ((s.cluster hw).passedBy (bs.map fun x => baseOf gr x.1))).placeLevel gr dl cl hw bs)
  else .withdrawn

/-! ### Stopping and saving -/

/-- STOP_REQUEST (R231, R253, R315): a stop is requested for a block, and with it for its cluster level,
whose blocks are saved together, or for its whole gang; a stop that pends absorbs it. -/
def State.requestStop (s : State) (b : Block) : State :=
  let gang := match s.grid? b.grid with
    | some gr => gr.desc.gang
    | none => false
  { s with blocks := s.blocks.map fun (x : Block) =>
      if x.phase == .resident && x.stop.isNone && x.grid == b.grid && (gang || sameDomain x b) then
        { x with stop := some s.timebase.toNat }
      else x }

@[inherit_doc State.requestStop]
def execStopRequest (blk : Nat) (s : State) : Result :=
  match s.block? blk with
  | some b => if b.phase == .resident then .next (s.requestStop b) else .next s
  | none => .next s

/-- A core is removed, and its blocks are asked to stop, or it returns (R319). Its sizes fall to 0 with the request, while
its blocks are still to be saved, so that nothing more is granted on it (R318, R319; log 34, DESIGN CHOICE). -/
def State.removeCore (s : State) (core : BitVec 9) (out : Bool) : State :=
  let s := s.setCore { s.core core with removed := out }
  if out then
    { s with blocks := s.blocks.map fun (x : Block) =>
        if x.phase == .resident && x.stop.isNone && x.core == core then
          { x with stop := some s.timebase.toNat } else x }
  else s.retestAll (clusterOf core)

/-- VDSTOP_GO (R378): a stop of every resident block of the virtual device. -/
def execVdstopGo (vd : BitVec 8) (s : State) : Result :=
  inService s <|
  .next { s with blocks := s.blocks.map fun (x : Block) =>
    if x.phase == .resident && x.stop.isNone && x.vd == vd then
      { x with stop := some s.timebase.toNat } else x }

/-- VDSTOP_HOLD (R378): while it stands, no block of the virtual device is admitted. -/
def execVdstopHold (vd : BitVec 8) (on : Bool) (s : State) : Result :=
  inService s <|
  .next ((s.setVdev { s.vdev vd with held := on }).setReg (vdKey vd 0x100)
    (if on then 0x4000000000000000 else 0))

/-- PPT_WINDOW_EXPIRY (R315 step 2): a group without liveness notes, or past the time for a PPT, stops at
its next fully reconverged point. -/
def execPptWindowExpiry (grp : Nat) (s : State) : Result :=
  match s.group? grp with
  | none => .next s
  | some g =>
    withBlock s g fun b gr =>
      match b.stop with
      | none => .next s
      | some t =>
        if g.phase == .running && g.reconverged && !s.stackBusy b g.idx &&
            (gr.desc.nlive = 0 || t + 20000 ≤ s.timebase.toNat || b.dbg) then
          .next (s.stopGroup b g none)
        else .next s

/-- FORCED_SAVE (R315 step 3, R352): 100,000 ticks after the request, or at once under a debugger's
stop. -/
def execForcedSave (grp : Nat) (s : State) : Result :=
  match s.group? grp with
  | none => .next s
  | some g =>
    withBlock s g fun b _ =>
      match b.stop with
      | none => .next s
      | some t =>
        if g.phase == .running && (t + 100000 ≤ s.timebase.toNat || b.dbg) && !s.stackBusy b g.idx then
          .next (s.stopGroup b g none)
        else .next s

/-- Bytes written at a VA for the device itself, line by line; `n` bounds the lines. A line whose page
refuses the write is skipped, its refusal counted (R267). -/
def State.deviceWriteN (s : State) (die : BitVec 2) (vd : BitVec 8) : Nat → Nat → List Byte → State
  | 0, _, _ => s
  | n + 1, va, bs =>
    if bs.isEmpty then s
    else
      let k := 128 - va % 128
      let s := match s.deviceWrite vd (BitVec.ofNat 56 va) (bs.take k) with
        | some s => s
        | none => s.countRefusal die vd .write va (bs.take k).length
      State.deviceWriteN s die vd n (va + k) (bs.drop k)

/-- How a stopped group is saved: by a note at a PPT, at a reconverged point, or forcibly (R100). -/
def Group.saveKind (g : Group) : Byte :=
  match g.note with
  | some _ => 0
  | none => if g.reconverged then 1 else 2

/-- Bytes brought to a length: cut, or filled with zeros. -/
def fitBytes (n : Nat) (bs : List Byte) : List Byte := (bs ++ List.replicate (n - bs.length) 0).take n

/-- A slot's path in a group's header: PC, header address, mask, age, whether it waits at a JOIN, and its handler's
resume point and lanes. -/
def pathImage (p : Option Path) : List Byte :=
  match p with
  | none => List.replicate 32 0
  | some p => fitBytes 32 (bytesOfNat 8 p.pc.toNat ++ bytesOfNat 8 p.hdr.toNat ++ bytesOfNat 4 p.mask.toNat ++
      bytesOfNat 4 (min p.age (2 ^ 32 - 1)) ++ [if p.joining then 1 else 0, if p.handler.isSome then 1 else 0])

/-- The 256 bytes that R316 names of a group: PC slots, masks, ages, save kind, note index, allocation, FSTAT, trap
state, batch number, open batches, stall counters. Their places within are the model's (log 31, DESIGN CHOICE). -/
def Group.headImage (g : Group) : List Byte :=
  fitBytes 256 (pathImage g.slot0 ++ pathImage g.slot1 ++ [g.saveKind, BitVec.ofNat 8 g.regn,
    BitVec.ofNat 8 g.batches.length, g.trap.cause] ++ bytesOfNat 4 g.fstat.toNat ++ bytesOfNat 8 g.batch.toNat ++
    bytesOfNat 8 g.trap.pc.toNat ++ bytesOfNat 8 g.trap.hdr.toNat ++ bytesOfNat 4 g.trap.mask.toNat ++
    bytesOfNat 4 g.trap.code.toNat ++ bytesOfNat 8 g.trap.addr.toNat ++
    (g.stall.flatMap fun w => bytesOfNat 4 w.toNat) ++ [(if g.trap.slot then 1 else 0 : Byte)] ++
    bytesOfNat 2 (match g.note with
      | some n => n.idx
      | none => 0))

/-- The 160 bytes of a store-buffer entry: data, byte marks, VA, and as tag the handle-table index of the entry
the store was made through (R316; log 31, DESIGN CHOICE). -/
def SbEntry.image (e : SbEntry) : List Byte :=
  fitBytes 128 e.bytes ++ bytesOfNat 16 e.marks.toNat ++ bytesOfNat 8 e.va.toNat ++ bytesOfNat 8 e.hidx

/-- The bytes of one logged register. -/
def ReplayEntry.operand (r : ReplayEntry) : RegRef → List Byte
  | .v n => (r.vregs.getD n []).flatMap fun w => bytesOfNat 4 w.toNat
  | .s n => bytesOfNat 8 (r.sregs.getD n.toNat 0).toNat
  | .p _ => []

/-- The registers a replay entry's operand log holds: those its instruction reads, or every one when that is not
known (R175). -/
def ReplayEntry.logged (r : ReplayEntry) : List RegRef :=
  match r.instr with
  | some i => srcsOf i
  | none => ((List.range 63).map fun n => .s (BitVec.ofNat 6 n)) ++ (List.range r.vregs.length).map .v

/-- The 2,048 bytes of a replay entry: PC, lanes, the operands its instruction reads, records; their places within are
the model's (R175, R316; log 31, DESIGN CHOICE). -/
def ReplayEntry.image (r : ReplayEntry) : List Byte :=
  fitBytes 2048 (bytesOfNat 8 r.pc.toNat ++ bytesOfNat 4 r.lanes.toNat ++ bytesOfNat 4 r.tags.length ++
    r.logged.flatMap r.operand ++
    r.tags.flatMap fun t => bytesOfNat 8 t.page.toNat ++ bytesOfNat 4 t.tag.toNat ++ bytesOfNat 4 t.lanes.toNat)

/-- The area of a group in its block's save slot (R316). `all` is a forced save. At a PPT every v-register the note names
is written, one that a last-use mark has left as zeros, which R47 and R96 leave out, too, as in R100's column for a
PPT (log 31, DESIGN CHOICE). -/
def State.saveGroup (s : State) (die : BitVec 2) (vd : BitVec 8) (area : Nat) (g : Group) (all : Bool) : State :=
  let put (s : State) (o : Nat) (bs : List Byte) : State := s.deviceWriteN die vd (bs.length / 128 + 2) (area + o) bs
  let words (v : Lanes) : List Byte := v.flatMap fun w => bytesOfNat 4 w.toNat
  let sLive (r : Nat) : Bool := match g.note with
    | some n => n.slive.getLsbD r
    | none => true
  let pLive (r : Nat) : Bool := match g.note with
    | some n => n.plive.getLsbD r
    | none => true
  let vLive (r : Nat) : Bool := match g.note with
    | some n => n.vlive.getLsbD r
    | none => all || (g.vreg false r).any fun w => w != 0
  let s := put s 0 g.headImage
  let s := put s 0x100 g.cnt.image
  let s := ((List.range 63).drop 1).foldl (fun s r =>
    if sLive r then put s (0x108 + 8 * r) (bytesOfNat 8 (g.sreg (BitVec.ofNat 6 r)).toNat) else s) s
  let s := ((List.range 8).drop 1).foldl (fun s r =>
    if pLive r then put s (0x2FC + 4 * r) (bytesOfNat 4 (g.pred (BitVec.ofNat 6 r)).toNat) else s) s
  let s := put s 0x31C (List.replicate 228 0)
  let s := put s 0x400 (fitBytes 5120 (g.sb.flatMap SbEntry.image))
  let s := g.replay.foldl (fun s x => put s (0x1800 + 2048 * x.idx) x.image) s
  let s := (List.range g.regn).foldl (fun s r =>
    if vLive r then put s (0x5800 + 128 * r) (words (g.vreg false r)) else s) s
  if all then
    let s := (List.range g.regn).foldl (fun s r => put s (0x7800 + 128 * r) (words (g.vreg true r))) s
    let mask (m : List MapEntry) (r : Nat) : List Byte := bytesOfNat 4 (mapEntry m r).zero.toNat
    put s 0x9800 (((List.range 64).flatMap (mask g.m0)) ++ (List.range 64).flatMap (mask g.m1))
  else s

/-- The phase counts of a level's barrier slots. -/
def phasesImage (n : Nat) (bs : List BarSlot) : List Byte :=
  (List.range n).flatMap fun i => bytesOfNat 4 (match bs.find? fun x => x.slot == i with
    | some x => x.phase
    | none => 0)

/-- The amounts of a vector, 2 bytes each. -/
def Units.image (u : Units) : List Byte :=
  bytesOfNat 2 u.reg ++ bytesOfNat 2 u.tile ++ bytesOfNat 2 u.scr ++ bytesOfNat 2 u.eng

/-- The 4,096 bytes of a block's header: coordinates, claim, allocation, the phase counts of its barriers, and in
block 0 those of its cluster level and its die level; their places within are the model's (R316; log 31, DESIGN
CHOICE). -/
def Block.headImage (b : Block) (gr : Grid) : List Byte :=
  let levels : List BarSlot × List BarSlot := match gr.die? b.dieid with
    | some d => (match d.clus.find? fun c => c.idx == b.cid with
      | some c => (c.bars, d.bars)
      | none => ([], d.bars))
    | none => ([], [])
  fitBytes 4096 ([BitVec.ofNat 8 b.bid, BitVec.ofNat 8 b.nblk, BitVec.ofNat 8 b.cid, BitVec.ofNat 8 b.nclu,
      BitVec.ofNat 8 b.dieid, BitVec.ofNat 8 b.diedim, BitVec.ofNat 8 b.ngrp, 0] ++ bytesOfNat 8 b.blin ++
    b.claim.image ++ b.alloc.image ++ phasesImage 16 b.bars ++
    (if b.bid = 0 then phasesImage 16 levels.1 ++ phasesImage 64 levels.2 else []))

/-- The note leaves its group the registers it names; every other one reads zero after the restore
(R164). -/
def Group.keepLive (g : Group) (n : LiveNote) : Group :=
  { g with
    sregs := (List.range 63).map fun r => if n.slive.getLsbD r then g.sregs.getD r 0 else 0,
    preds := (List.range 8).map fun r => if n.plive.getLsbD r then g.preds.getD r 0 else 0,
    m0 := (List.range 64).map fun r => if n.vlive.getLsbD r then mapEntry g.m0 r else ⟨none, 0⟩ }.freePhys

/-- A stopped group is saved: an operation handed over before it is none of its own any more (R164,
R242). -/
def Group.saved (g : Group) : Group :=
  if g.phase == .stopped then
    let g := match g.note with
      | some n => g.keepLive n
      | none => g
    { g with phase := .saved, lastOp := none, spills := 0, folds := 0, merges := 0, mq := [], halved := false }
  else g

/-- Scratch as it is after the restore of a block all of whose groups were saved by notes: only the notes'
ranges stay (R100, R164). -/
def keptScratch (m : Memory) (notes : List (Option LiveNote)) : Memory :=
  if notes.any fun n => n.isNone then m
  else
    let rs := notes.flatMap fun n => match n with
      | some n => n.ranges
      | none => []
    m.filter fun c => rs.any fun r => r.1 ≤ c.1 && c.1 < r.1 + r.2

/-- Whether a block has no copy and no matrix operation left (R230, R247). -/
def State.workDone (s : State) (b : Block) : Bool :=
  (b.chans.all fun ch => ch.queue.isEmpty) && !(s.core b.core).array.any fun x => x.blk == b.id

/-- A cluster level none of whose blocks is resident has no cluster (R231, R395). -/
def State.leaveCluster (s : State) (b : Block) : State :=
  if s.blocks.any fun x => sameDomain x b && x.phase == .resident then s
  else
    match s.grid? b.grid with
    | none => s
    | some gr => s.setGrid (gr.onDie b.dieid fun d => d.onClu b.cid fun x => { x with cluster := none })

/-- The scratch ranges a save writes: those the groups' notes name, or all of it when a group has none (R100). -/
def savedRanges (scr : Nat) (notes : List (Option LiveNote)) : List (Nat × Nat) :=
  if notes.any fun n => n.isNone then [(0, scr)]
  else notes.flatMap fun n => match n with
    | some n => n.ranges
    | none => []

/-- The bytes of the tile and scratch units in a block's slot (R316). -/
def State.saveUnits (s : State) (b : Block) (base : Nat) (notes : List (Option LiveNote)) : State :=
  let n := unitBytes b.alloc.tile
  let s := s.deviceWriteN (dieOf b.core) b.vd (n / 128 + 1) (base + 0x101000) (Memory.readN b.tile 0 n)
  (savedRanges (unitBytes b.alloc.scr) notes).foldl (fun s r =>
    s.deviceWriteN (dieOf b.core) b.vd (r.2 / 128 + 2) (base + 0x181000 + r.1) (Memory.readN b.scr r.1 r.2)) s

/-- What a save writes into the block's slot (R316). -/
def State.saveImage (s : State) (b : Block) (gr : Grid) (gs : List Group) : State :=
  match s.slotVa b with
  | some base =>
    let s := s.deviceWriteN (dieOf b.core) b.vd 33 base (b.headImage gr)
    let s := gs.foldl (fun s g => s.saveGroup (dieOf b.core) b.vd (base + 0x1000 + 0x10000 * g.idx) g (g.saveKind == 2)) s
    s.saveUnits b base (gs.map fun g => g.note)
  | none => s

/-- Whether a drained store of these groups has not arrived at its home: a save lets it, so that no store of
the block is left in the caches of the core it leaves (R193, R293; log 31, DESIGN CHOICE). -/
def State.stillFlying (s : State) (gs : List Group) : Bool :=
  s.flight.any fun f => f.who.isNone && !f.arrived && f.deadline != some 0 && gs.any fun g => g.id == f.grp

/-- BLOCK_SAVE_COMPLETE (R164, R211, R230, R231, R247, R315 to R317): every group has stopped and the
block's handed-over work is done; the block is saved and waits on its grid's resume list. -/
def execBlockSaveComplete (blk : Nat) (s : State) : Result :=
  match s.block? blk with
  | none => .next s
  | some b =>
    let gs := s.groups.filter fun g => g.blk == blk
    let stopped := gs.filter fun g => g.phase == .stopped
    if b.stop.isNone || b.phase != .resident || stopped.isEmpty || !s.workDone b ||
        !(gs.all fun g => (g.phase == .stopped || g.phase == .ended) && g.sbRest.isEmpty) || s.stillFlying gs ||
        s.slotBusy b then .next s
    else
      match s.grid? b.grid with
      | none => .fault .dangling
      | some gr =>
      let b := { b with scr := keptScratch b.scr (stopped.map fun g => g.note) }
      let s := s.saveImage b gr stopped
      let s := { s with groups := s.groups.map fun (g : Group) => if g.blk == blk then g.saved else g }
      let s := s.setBlock { b with phase := .saved, stop := none, since := s.timebase.toNat, chans := [] }
      .next (((s.setGrid { gr with resume := gr.resume ++ [blk] }).retestAll (clusterOf b.core)).leaveCluster b)

/-! ### Completion -/

/-- The sum of a stall counter over a block's groups, saturating (R357). -/
def stallSum (gs : List Group) (n : Nat) : List Byte :=
  bytesOfNat 4 (min (gs.map fun g => (g.stall.getD n 0).toNat).sum (2 ^ 32 - 1))

/-- A block record (R357). -/
def State.traceBlock (s : State) (b : Block) (gs : List Group) : State :=
  let part (ty : BitVec 8) (from' : Nat) : TraceRec :=
    ⟨ty, b.phaseSum, whereOf b 0, s.timebase, 0, 0, 0,
     (List.range 8).flatMap fun i => stallSum gs (from' + i)⟩
  if s.tracingBlocks b.vd then s.trace (dieOf b.core) b.vd [part 3 0, part 4 8] else s

/-- A block's units, its handlers' permits, its slot and its cluster go back (R154, R211, R316). -/
def State.releaseBlock (s : State) (b : Block) : State :=
  let d := s.vdev b.vd
  let d := { d with slots := d.slots.filter fun n => b.slot != some n }
  let s := (s.groups.filter fun g => g.blk == b.id).foldl (fun (s : State) g =>
    (s.forgetPaths b.core g.id).returnPermits b.core g.permitsHeld) s
  let s := (s.setVdev d).setBlock { b with
    phase := .complete, alloc := ⟨0, 0, 0, 0⟩, pend := ⟨0, 0, 0, 0⟩, stop := none, slot := none, win := [], tile := [], scr := [],
    chans := [], dbg := false, dbgReq := false, dbgWhy := none, stepReq := none }
  (s.retestAll (clusterOf b.core)).leaveCluster b

/-- Whether a block is complete: while the debugger holds it, or a step of it is under way, it keeps what it
holds (R113, R211, R352, R354). -/
def State.blockDone (s : State) (b : Block) : Bool :=
  let gs := s.groups.filter fun g => g.blk == b.id
  b.phase == .resident && !b.dbg && !b.dbgReq && b.stepReq.isNone && s.workDone b &&
    gs.all fun g => g.phase == .ended && g.sb.isEmpty && g.sbRest.isEmpty && g.cnt.clu == 0 &&
      g.cnt.die == 0 && g.cnt.dev == 0 && g.cnt.sys == 0

/-- BLOCK_COMPLETE (R113, R211, R357). -/
def execBlockComplete (blk : Nat) (s : State) : Result :=
  match s.block? blk with
  | none => .next s
  | some b =>
    if s.blockDone b && !(s.tracingBlocks b.vd && s.traceBusy b.vd) then
      .next ((s.traceBlock b (s.groups.filter fun g => g.blk == blk)).releaseBlock b)
    else .next s

end Sys2Proof.Machine
end

