-- ==== Sys2Proof/Machine/Mill.lean ====
section
/-!
DEFINITION. Queues and the Mill: packets, signals, aborts, launches, feeds, queue copies and events'
acknowledgments (R75, R76, R78, R323 to R334, R337, R341, R395, R398).
The model's own choices here: DESIGN CHOICE, logs 4, 24, 28, 29, 33.
-/
namespace Sys2Proof.Machine

/-- A queue's thread; one that has done nothing is fresh (R323). -/
def State.thread (s : State) (q : BitVec 10) : Thread :=
  match s.threads.find? fun t => t.q == q with
  | some t => t
  | none => ⟨q, none, none, none, [], [], [], false, []⟩

/-- Puts a thread back. -/
def State.setThread (s : State) (t : Thread) : State :=
  { s with threads := upsert (fun x => x.q == t.q) t s.threads }

/-- Where a queue's thread makes its accesses: its die, its virtual device (R323, R327). -/
def State.threadSite (s : State) (q : BitVec 10) : Site :=
  ⟨q.extractLsb' 8 2 ++ (0 : BitVec 7), s.qVd q, ⟨0, false⟩⟩

/-- ABT of a queue (R324). -/
def State.aborted (s : State) (q : BitVec 10) : Bool := (s.reg (queueKey q 0x30)).getLsbD 63

/-- Sets BLK of a queue (R324). -/
def State.setBlk (s : State) (q : BitVec 10) (on : Bool) : State :=
  let v := s.reg (queueKey q 0x30) &&& 0x8000000000000000
  s.setReg (queueKey q 0x30) (if on then v ||| 0x4000000000000000 else v)

/-- Sets the sequence number of QDONE; its code stays (R324). -/
def State.setDone (s : State) (q : BitVec 10) (n : Word) : State :=
  s.setReg (queueKey q 0x28) ((s.reg (queueKey q 0x28)).extractLsb' 32 32 ++ n)

/-- The addresses of a thread's access. -/
def vaRange (va n : Nat) : List Nat := (List.range n).map fun i => (va + i) % 2 ^ 56

/-- A queue aborts with a code: ABT and CODE at once; the store to QSIG and the event record follow. A second
abort changes nothing (R330). -/
def State.abortQueue (s : State) (q : BitVec 10) (code : Nat) : State :=
  if s.aborted q then s
  else
    let c : Word := BitVec.ofNat 32 code
    let s := s.setReg (queueKey q 0x28) (c ++ s.qdone q)
    let s := s.setReg (queueKey q 0x30) 0x8000000000000000
    let t := s.thread q
    (s.setThread { t with nextAt := none, held := none, pause := t.pause.filter fun x => x.2 != .packet,
                          ending := t.ending ++ [⟨c, false⟩] }).forgetAnswers (.thread q)

/-- A thread's access finds its page absent: a record goes to the host, and the thread pauses (R327). -/
def State.pauseThread (s : State) (q : BitVec 10) (pc x : Nat) (a : Access) (what : PauseFor) : State :=
  let r := s.sendFault (s.qVd q) 0 (BitVec.ofNat 56 x) (BitVec.ofNat 56 pc) 0 0 (kindBits a) (.thread q)
  (r.2.setThread { r.2.thread q with pause := some (r.1, what) }).forgetAnswers (.thread q)

/-- A thread's access: an absent page pauses it, after any other refusal `bad` follows (R327). -/
def State.threadReach (s : State) (q : BitVec 10) (pc va n : Nat) (a : Access) (what : PauseFor)
    (bad : State → State) (k : List LineRes → List Nat → State → State) : State :=
  match s.reachKeep (s.threadSite q) (.thread q) (globalRegion va n) a (vaRange va n) with
  | (.wait, s) => s
  | (.ok rs, s) => k rs (vaRange va n) s
  | (.cause c x, s) => if c = 0x20 then s.pauseThread q pc x a what else bad s

/-- Bytes read by a thread for its next packet; a refusal fails the packet with code 9 (R327). -/
def State.threadRead (s : State) (q : BitVec 10) (pc va n : Nat) (k : List Byte → State → State) : State :=
  s.threadReach q pc va n .read .packet (fun s => s.abortQueue q 9) fun rs addrs s => k (reachedBytes rs addrs) s

/-- An atomic of a thread on a signal (R327, R331). -/
def State.threadAtomic (s : State) (q : BitVec 10) (pc va : Nat) (what : PauseFor) (bad : State → State)
    (f : DWord → DWord) (k : State → State) : State :=
  s.threadReach q pc va 8 .atomic what bad fun rs addrs s =>
    let old : DWord := BitVec.ofNat 64 (natOfBytes (s.oldBytes rs addrs))
    k ((s.atomAt (s.threadSite q).die rs (addrs.zip (bytesOfNat 8 (f old).toNat))).forgetAnswers (.thread q))

/-- A completion signal takes -1; 0 means none (R326, R327). -/
def State.signalDone (s : State) (q : BitVec 10) (pc : Nat) (sig : DWord) (what : PauseFor)
    (bad : State → State) (k : State → State) : State :=
  if sig = 0 then k s else s.threadAtomic q pc sig.toNat what bad (fun v => v - 1) k

/-- The store to QSIG of a queue's oldest abort is made, or admitted nowhere: the event record is next
(R330). -/
def State.qsigDone (s : State) (q : BitVec 10) : State :=
  let t := s.thread q
  match t.ending with
  | x :: l => (s.setThread { t with ending := { x with stored := true } :: l }).forgetAnswers (.thread q)
  | [] => s

/-- The next of the last steps of a queue's oldest abort: -c stored to QSIG, then the event record, as steps of
their own, so that another queue's come between (R330, R343). -/
def State.endAbort (s : State) (q : BitVec 10) : State :=
  let t := s.thread q
  match t.ending with
  | [] => s
  | x :: l =>
    if x.stored then (s.setThread { t with ending := l }).event (s.qVd q) 2 (q.setWidth 16) x.code []
    else
      let sig := (s.reg (queueKey q 0x18)).toNat
      if sig = 0 then s.qsigDone q
      else
        s.threadReach q (s.packetVa q (s.qdone q + 1)) sig 8 .write .qsig (fun s => s.qsigDone q)
          fun rs addrs s =>
            (s.storeAt (s.threadSite q).die rs (addrs.zip (bytesOfNat 8 (2 ^ 64 - x.code.toNat)))).qsigDone q

/-- The energy of a packet's work, on the node QRCB names and on its parent, the root; the amount is the
hardware's, a free value (R323, R335; log 4, DESIGN CHOICE). -/
def State.meterQueue (s : State) (q : BitVec 10) : State :=
  let d := s.vdev (s.qVd q)
  let up := s.reg (queueKey q 0x10) :: (match d.root with
    | some r => [r.node.va]
    | none => [])
  { s.setVdev (d.meter up (Config.freeWord s.free).toNat) with free := s.free + 1 }

/-! ### Packets -/

/-- The little-endian field of `n` bytes at an offset. -/
def fieldOf (bs : List Byte) (o n : Nat) : Nat := natOfBytes ((bs.drop o).take n)

/-- The body bytes a packet type uses (R326). -/
def bodyUsed (ty o : Nat) : Bool :=
  let within (a n : Nat) : Bool := a ≤ o && o < a + n
  match ty with
  | 1 => within 0x10 0x1A
  | 2 => within 0x10 7 || within 0x18 8
  | 3 => within 0x10 0x15
  | 4 => within 0x10 0x30
  | 5 => within 0x10 9
  | _ => false

/-- Whether packet `n` keeps its table (R326, R327). -/
def packetGood (bs : List Byte) (n : Word) : Bool :=
  let ty := fieldOf bs 0 1
  let nsig := fieldOf bs 3 1
  let sig := fieldOf bs 8 8
  ty ≤ 5 && fieldOf bs 4 4 == n.toNat && fieldOf bs 1 1 ≤ 1 &&
    (ty == 4 || (fieldOf bs 2 1 == 0 && nsig == 0)) &&
    ((List.range 64).all fun o => o < 0x10 || bodyUsed ty o || bs.getD o 0 == 0) &&
    (match ty with
     | 0 => sig == 0
     | 1 => sig % 8 == 0 && fieldOf bs 0x18 8 % 8 == 0 && 1 ≤ fieldOf bs 0x28 1 && fieldOf bs 0x28 1 ≤ 4 &&
         1 ≤ fieldOf bs 0x29 1 && fieldOf bs 0x29 1 ≤ 15
     | 2 => sig % 8 == 0 && fieldOf bs 0x15 1 ≤ 64 && fieldOf bs 0x16 1 ≤ 1 && fieldOf bs 0x18 8 % 32 == 0
     | 3 => sig % 8 == 0 && fieldOf bs 0x20 4 ≤ 2 ^ 30 && fieldOf bs 0x24 1 ≤ 2
     | 4 => 1 ≤ nsig && nsig ≤ 4 && (List.range 4).all fun i =>
         if i < nsig then fieldOf bs (0x10 + 8 * i) 8 % 8 == 0 else fieldOf bs (0x10 + 8 * i) 8 == 0
     | _ => sig % 8 == 0 && fieldOf bs 0x18 1 ≤ 1)

/-- The next packet starts: QDONE is its number, and its work is charged to its queue's node (R323, R327). -/
def State.startPacket (s : State) (q : BitVec 10) (n : Word) : State :=
  ((((s.setDone q n).setBlk q false).setThread { s.thread q with nextAt := none, held := none }).forgetAnswers
    (.thread q)).meterQueue q

/-- The next packet has been read and waits; a WAIT or a FEED blocks its thread (R324, R328). -/
def State.holdPacket (s : State) (q : BitVec 10) (bs : List Byte) (blk : Bool) : State :=
  ((s.setThread { s.thread q with held := some bs }).setBlk q blk).forgetAnswers (.thread q)

/-- A doorbell that does not cover the next packet any more: it is read again when a later one does (R325). -/
def State.unhold (s : State) (q : BitVec 10) : State :=
  ((s.setThread { s.thread q with nextAt := none, held := none }).setBlk q false).forgetAnswers (.thread q)

/-- A started packet that is not complete is remembered (R327). -/
def State.keepRunning (s : State) (q : BitVec 10) (x : Started) : State :=
  let t := s.thread q
  s.setThread { t with running := t.running ++ [x] }

/-- A started packet is complete, or has failed (R327). -/
def State.dropRunning (s : State) (q : BitVec 10) (n : Word) : State :=
  let t := s.thread q
  s.setThread { t with running := t.running.filter fun x => x.seq != n }

/-- An atomic of a started packet that is still to be performed: a SIGNAL's, or a FEED's completion signal (R326,
R327). -/
def State.keepSignal (s : State) (q : BitVec 10) (x : SignalOp) : State :=
  let t := s.thread q
  s.setThread { t with sigs := t.sigs ++ [x] }

@[inherit_doc State.keepSignal]
def State.dropSignal (s : State) (q : BitVec 10) (n : Word) : State :=
  let t := s.thread q
  s.setThread { t with sigs := t.sigs.filter fun x => x.seq != n }

/-! ### LAUNCH -/

/-- The flags and fields of a descriptor that must hold for its table (R75, R76). -/
def descGood (bs : List Byte) : Bool :=
  let w := fieldOf bs
  let within (v a b : Nat) : Bool := a ≤ v && v ≤ b
  let zero (o n : Nat) : Bool := ((bs.drop o).take n).all fun b => b == 0
  w 0 4 == 0x4B445A4F && w 4 2 == 1 && w 6 2 ≤ 3 && (2 ≤ w 6 2) == (w 0x36 1 != 0) &&
    w 8 8 % 64 == 0 && (w 0x3A 2 != 0 || w 0x18 8 == 0) && within (w 0x30 2) 1 16 && within (w 0x32 1) 1 8 && within (w 0x33 1) 1 8 &&
    w 0x34 1 ≤ 3 && w 0x35 1 ≤ (if w 6 2 % 2 == 1 then 3 else 0) && w 0x36 1 ≤ 2 && zero 0x37 1 &&
    w 0x38 2 ≤ 1024 && w 0x3A 2 ≤ 4096 && within (w 0x3C 2) 1 4096 && w 0x3E 2 ≤ 512 &&
    w 0x40 4 % 16 == 0 && zero 0x44 12 && zero 0x60 32 &&
    w 0x50 2 ≤ 128 && w 0x52 1 ≤ 32 && w 0x53 1 ≤ 16 && w 0x54 2 ≤ 128 && zero 0x56 2 && zero 0x5C 4 &&
    w 0x30 2 * w 0x33 1 ≤ w 0x50 2 && w 0x58 1 ≤ w 0x52 1 && w 0x59 1 ≤ w 0x53 1 && w 0x5A 2 ≤ w 0x54 2

/-- A descriptor's fields (R75, R76). -/
def descOf (bs : List Byte) : Desc :=
  let w := fieldOf bs
  { gang := (bs.getD 6 0).getLsbD 0, entry := BitVec.ofNat 64 (w 8 8), handler := BitVec.ofNat 64 (w 0x10 8),
    livetab := BitVec.ofNat 64 (w 0x18 8), wmap := BitVec.ofNat 64 (w 0x28 8), groups := w 0x30 2,
    blocks := w 0x32 1, regs8 := w 0x33 1, power := w 0x34 1, gclass := w 0x35 1, feedsz := w 0x36 1,
    dstack := if w 0x38 2 = 0 then 64 else w 0x38 2, nlive := w 0x3A 2, args := w 0x3E 2,
    perLane := w 0x40 4, claim := ⟨w 0x50 2, w 0x52 1, w 0x54 2, w 0x53 1⟩,
    base := ⟨w 0x30 2 * w 0x33 1, w 0x58 1, w 0x5A 2, w 0x59 1⟩ }

/-- The mapped slots of a window map's bytes (R78). -/
def wmapOf (bs : List Byte) : List (Nat × Nat) :=
  (List.range 256).filterMap fun n =>
    let e := fieldOf bs (2 * n) 2
    if 2 ^ 15 ≤ e then some (n, e % 4096) else none

/-- The enabled clusters of a die that a virtual device's partition owns (R305, R395). -/
def State.clustersOn (s : State) (vd : BitVec 8) (die : BitVec 2) : List (BitVec 6) :=
  ((List.range 16).map fun i => die ++ BitVec.ofNat 4 i).filter (s.hasCluster vd)

/-- The feed queues in use on a die (R333). -/
def State.feedsOn (s : State) (die : BitVec 2) : Nat :=
  (s.grids.map fun gr => (gr.levels.filter fun d => d.feed.isSome && d.die == some die).length).sum

/-- What a LAUNCH's checks leave (R333). -/
structure Launch where
  desc   : Desc
  wmap   : List (Nat × Nat)
  args   : List DWord
  nodes  : List Node
  dies   : List (BitVec 2)
  clus   : Nat
  deriving DecidableEq, Repr

/-- Whether the launched grid's placement is possible: its die levels within the mask, and for a gang its
cluster levels within every die's clusters (R329 code 2, R395). -/
def State.placementFits (s : State) (vd : BitVec 8) (r : Root) (d : Desc) (dies clus : Nat) : Bool :=
  dies ≤ (maskDies r.mask).length &&
    (!d.gang || ((maskDies r.mask).take dies).all fun x => clus ≤ (s.clustersOn vd x).length)

/-- Whether every private handle of the window is long enough (R168, R334). -/
def State.privateFits (s : State) (vd : BitVec 8) (r : Root) (d : Desc) (wmap : List (Nat × Nat)) : Bool :=
  wmap.all fun x =>
    match s.readHandle vd r x with
    | some (h, _) => h.space != 9 || d.perLane ≤ h.length
    | none => true

/-- The nodes of a launch from its grid node up, if they keep R310 and the grid node's parent is QRCB
(R310, R329 code 2). -/
def State.launchNodes (s : State) (q : BitVec 10) (r : Root) (va : DWord) : Option (List Node) :=
  let qrcb := s.reg (queueKey q 0x10)
  match s.readNode (s.qVd q) va 2 with
  | some (g, true, s) =>
    match s.readNode (s.qVd q) qrcb 1 with
    | some (n, true, _) => if g.parent == qrcb && r.good then some [g, n, r.node] else none
    | _ => none
  | _ => none

/-- Whether a claim lies within the domain's capacity (R202 step 1, R329 code 3). -/
def claimFits (d : Desc) (cap : Units) : Bool :=
  d.claim.reg ≤ min cap.reg 128 && d.claim.tile ≤ min cap.tile 32 && d.claim.scr ≤ min cap.scr 128 &&
    d.claim.eng ≤ min cap.eng 16 && d.claim.reg ≤ 8 * d.groups

/-- A die level of a new grid: a gang's, or one with a feed queue, has its die at once (R333, R398). -/
def newLevel (l : Launch) (i : Nat) : DieLevel :=
  let cap := capsOf l.nodes
  { idx := i, die := if l.desc.gang || l.desc.feedsz != 0 then l.dies[i]? else none, bars := [], gangs := [],
    clus := (List.range l.clus).map fun c => ⟨c, none, [], cap⟩,
    feed := if l.desc.feedsz = 0 then none else some ⟨[], false, []⟩ }

/-- A block of a new grid, on its ready list (R158, R333). -/
def newBlock (s : State) (id grid : Nat) (vd : BitVec 8) (l : Launch) (dl cl n : Nat) : Block :=
  { id := id, grid := grid, vd := vd, bid := n, nblk := l.desc.blocks, cid := cl, nclu := l.clus,
    dieid := dl, diedim := l.dies.length, blin := (dl * l.clus + cl) * l.desc.blocks + n,
    ngrp := l.desc.groups, core := 0, phase := .ready, claim := l.desc.claim, alloc := ⟨0, 0, 0, 0⟩, pend := ⟨0, 0, 0, 0⟩,
    acqd := [], win := [], bars := [], tile := [], scr := [], chans := [], slot := none, stop := none,
    since := s.timebase.toNat, dbg := false, dbgReq := false, dbgWhy := none, stepReq := none }

/-- The blocks of a new grid. -/
def State.newBlocks (s : State) (grid : Nat) (vd : BitVec 8) (l : Launch) : State :=
  (List.range l.dies.length).foldl (fun s dl =>
    (List.range l.clus).foldl (fun s cl =>
      (List.range l.desc.blocks).foldl (fun s n =>
        let i := s.newId
        { i.2 with blocks := i.2.blocks ++ [newBlock s i.1 grid vd l dl cl n] }) s) s) s

/-- A virtual device's buckets are full at a launch (R312). -/
def State.fillBuckets (s : State) (vd : BitVec 8) : State :=
  { s with buckets := s.buckets.map fun (x : Bucket) =>
      if x.vd == vd then { x with b := 1024 * s.shareDepth x.arb vd } else x }

/-- A LAUNCH starts: its grid, its slice nodes and its blocks come to be (R333, R398). -/
def State.startLaunch (s : State) (q : BitVec 10) (n : Word) (barrier : Bool) (sig : DWord)
    (l : Launch) : State :=
  let i := s.newId
  let vd := s.qVd q
  let dn := domainNode l.nodes
  let gr : Grid := {
    id := i.1, vd := vd, queue := q, seq := n, desc := l.desc, wmap := l.wmap, args := l.args,
    levels := (List.range l.dies.length).map (newLevel l), nodes := l.nodes,
    fdom := match dn with
      | some d => d.fdom
      | none => 0,
    deficit := 0, resume := [], halted := false }
  let s := { i.2 with grids := i.2.grids ++ [gr] }.newBlocks i.1 vd l
  ((s.startPacket q n).fillBuckets vd).keepRunning q ⟨n, barrier, sig, some i.1⟩

/-- Whether every feed queue a launch needs is free (R333). -/
def State.feedsFree (s : State) (l : Launch) : Bool :=
  l.desc.feedsz == 0 || l.dies.all fun d => s.feedsOn d < 16

/-- Whether a PGINV covers something a launch's checks read beside the packet: nodes, the handles its window
names (R271). -/
def State.launchBusy (s : State) (q : BitVec 10) (r : Root) (node : Nat) (wmap : List (Nat × Nat)) : Bool :=
  let vd := s.qVd q
  s.rangeBusy vd node 128 || s.rangeBusy vd (s.reg (queueKey q 0x10)).toNat 128 ||
    wmap.any fun x => s.rangeBusy vd (r.htab.toNat + 32 * x.2) 32

/-- A LAUNCH packet (R329, R333, R334). -/
def State.doLaunch (s : State) (q : BitVec 10) (r : Root) (n : Word) (pc : Nat) (bs : List Byte) : State :=
  let vd := s.qVd q
  let dva := fieldOf bs 0x10 8
  s.threadRead q pc dva 128 fun db s =>
    if !descGood db || dva % 64 != 0 then s.abortQueue q 2
    else
      let d := descOf db
      s.threadRead q pc d.wmap.toNat 512 fun wb s =>
        s.threadRead q pc (fieldOf bs 0x18 8) (min (8 * d.args) 496) fun ab s =>
          let dies := fieldOf bs 0x28 1
          let clus := fieldOf bs 0x29 1
          if s.launchBusy q r (fieldOf bs 0x20 8) (wmapOf wb) then s
          else
          match s.launchNodes q r (BitVec.ofNat 64 (fieldOf bs 0x20 8)) with
          | none => s.abortQueue q 2
          | some ns =>
            let l : Launch := {
              desc := d, wmap := wmapOf wb, nodes := ns, dies := (maskDies r.mask).take dies, clus := clus,
              args := (List.range (ab.length / 8)).map fun i => BitVec.ofNat 64 (fieldOf ab (8 * i) 8) }
            if !s.placementFits vd r d dies clus || !s.privateFits vd r d l.wmap then s.abortQueue q 2
            else if !claimFits d (capsOf ns) then s.abortQueue q 3
            else if s.feedsFree l then
              s.startLaunch q n ((bs.getD 1 0).getLsbD 0) (BitVec.ofNat 64 (fieldOf bs 8 8)) l
            else s.holdPacket q bs false

/-! ### FEED, COPY, WAIT, SIGNAL -/

/-- The grid a packet of a queue launched and that is not complete (R329 code 5). -/
def State.launched (s : State) (q : BitVec 10) (n : Nat) : Option Grid :=
  s.grids.find? fun g => g.queue == q && g.seq.toNat == n && !g.halted

/-- A FEED packet (R327, R337): it starts once the feed queue has room for all its records, and is complete; its
completion signal follows. -/
def State.doFeed (s : State) (q : BitVec 10) (n : Word) (pc : Nat) (bs : List Byte) : State :=
  let dl := fieldOf bs 0x14 1
  let k := fieldOf bs 0x15 1
  match s.launched q (fieldOf bs 0x10 4) with
  | none => s.abortQueue q 5
  | some gr =>
    match (gr.die? dl).bind fun d => d.feed with
    | none => s.abortQueue q 5
    | some f =>
      let words := feedWords gr.desc.feedsz
      if f.closed then s.abortQueue q 5
      else if 4096 < f.recs.length + k then s.holdPacket q bs true
      else
        s.threadRead q pc (fieldOf bs 0x18 8) (4 * words * k) fun rb s =>
          let rec' (i : Nat) : List Word :=
            (List.range words).map fun j => BitVec.ofNat 32 (fieldOf rb (4 * (words * i + j)) 4)
          let f := { f with recs := f.recs ++ (List.range k).map rec', closed := fieldOf bs 0x16 1 == 1 }
          let s := (s.setGrid (gr.setFeed dl f)).startPacket q n
          if fieldOf bs 8 8 = 0 then s else s.keepSignal q ⟨n, BitVec.ofNat 64 (fieldOf bs 8 8), -1, true⟩

/-- The operation a COPY packet names (R326). -/
def copyOpOf (n : Nat) : CopyOp := if n = 0 then .mov else if n = 1 then .fadd else .hadd

/-- A COPY packet starts on its queue's copy lane (R327). -/
def State.doCopy (s : State) (q : BitVec 10) (n : Word) (pc : Nat) (bs : List Byte) : State :=
  let c : LaneCopy := {
    seq := n, pc := BitVec.ofNat 56 pc, dst := BitVec.ofNat 56 (fieldOf bs 0x10 8),
    src := BitVec.ofNat 56 (fieldOf bs 0x18 8), len := fieldOf bs 0x20 4, op := copyOpOf (fieldOf bs 0x24 1),
    paused := none }
  let s := (s.startPacket q n).keepRunning q
    ⟨n, (bs.getD 1 0).getLsbD 0, BitVec.ofNat 64 (fieldOf bs 8 8), none⟩
  let t := s.thread q
  s.setThread { t with lane := t.lane ++ [c] }

/-- The values of a WAIT's signals from signal `i` on, read at their homes (R328). -/
def State.readSignals (s : State) (q : BitVec 10) (pc : Nat) (bs : List Byte) (i : Nat)
    (k : List DWord → State → State) : Nat → State
  | 0 => k [] s
  | n + 1 =>
    s.threadRead q pc (fieldOf bs (0x10 + 8 * i) 8) 8 fun b s =>
      State.readSignals s q pc bs (i + 1) (fun vs s => k (BitVec.ofNat 64 (natOfBytes b) :: vs) s) n

/-- Whether condition `i` of a WAIT holds (R326). -/
def waitHolds (bs : List Byte) (i : Nat) (v : DWord) : Bool :=
  let x : DWord := (BitVec.ofNat 32 (fieldOf bs (0x30 + 4 * i) 4)).signExtend 64
  match fieldOf bs 2 1 / 4 ^ i % 4 with
  | 0 => v.sle x
  | 1 => x.sle v
  | 2 => v == x
  | _ => v != x

/-- The code a negative signal aborts with (R328). -/
def negCode (v : DWord) : Nat := min v.toInt.natAbs 0x7FFFFFFF

/-- One evaluation of a WAIT (R328). -/
def State.doWait (s : State) (q : BitVec 10) (n : Word) (pc : Nat) (bs : List Byte) : State :=
  let k := fieldOf bs 3 1
  let limit := fieldOf bs 8 8
  s.readSignals q pc bs 0 (fun vs s =>
    match vs.find? fun v => v.slt 0 with
    | some v => s.abortQueue q (negCode v)
    | none =>
      if (vs.zip (List.range k)).all fun x => waitHolds bs x.2 x.1 then s.startPacket q n
      else
        let s := s.holdPacket q bs true
        let since := (s.thread q).nextAt.getD s.timebase.toNat
        if limit != 0 && since + limit ≤ s.timebase.toNat && !s.clkFault then s.abortQueue q 4 else s) k

/-- A SIGNAL packet starts at once; it is complete when its atomic has been performed (R326, R327, R331). -/
def State.doSignal (s : State) (q : BitVec 10) (n : Word) (bs : List Byte) : State :=
  let s := (s.startPacket q n).keepRunning q ⟨n, (bs.getD 1 0).getLsbD 0, 0, none⟩
  s.keepSignal q ⟨n, BitVec.ofNat 64 (fieldOf bs 8 8), BitVec.ofNat 64 (fieldOf bs 0x10 8), fieldOf bs 0x18 1 == 0⟩

/-! ### Consuming -/

/-- The fault domain of a queue's thread (R310, R323). -/
def State.threadDomain (s : State) (q : BitVec 10) (r : Root) : BitVec 16 :=
  match s.readNode (s.qVd q) (s.reg (queueKey q 0x10)) 1 with
  | some (n, _, _) => if n.fdom == 0xFFFF then r.node.fdom else n.fdom
  | none => r.node.fdom

/-- Whether a queue's thread runs: its virtual device has a root and has not halted it, and the package's clock runs
(R266, R320). -/
def State.threadRuns (s : State) (q : BitVec 10) : Bool :=
  !s.clkFault && match (s.vdev (s.qVd q)).root with
    | some r => !s.domainHalted (s.qVd q) (s.threadDomain q r)
    | none => false

/-- Whether a queue's thread consumes packets: its queue is enabled, its virtual device holds no packets back, and the
thread runs (R266, R320, R324, R355). -/
def State.mayRead (s : State) (q : BitVec 10) : Bool := s.qEnabled q && !s.quiet (s.qVd q) && s.threadRuns q

/-- Whether the thread may act on its next packet: it is doorbelled, nothing pauses the thread, and no packet
with its barrier bit set is incomplete (R325, R327). -/
def State.mayAct (s : State) (q : BitVec 10) : Bool :=
  let t := s.thread q
  s.mayRead q && s.power == .active && t.ending.isEmpty && !t.overrun && !s.aborted q &&
    s.qdoor q != s.qdone q && t.pause.isNone && !t.running.any fun x => x.barrier

/-- What the thread does with its next packet, whose bytes it has read. Under a root that breaks R310 every
packet but a NOP fails with code 2 (R309, R327). -/
def State.actOn (s : State) (q : BitVec 10) (r : Root) (bs : List Byte) : State :=
  let n := s.qdone q + 1
  let pc := s.packetVa q n
  if !r.good && fieldOf bs 0 1 != 0 then s.abortQueue q 2
  else if !packetGood bs n then s.abortQueue q 1
  else
    match fieldOf bs 0 1 with
    | 0 => s.startPacket q n
    | 1 => s.doLaunch q r n pc bs
    | 2 => s.doFeed q n pc bs
    | 3 => s.doCopy q n pc bs
    | 4 => s.doWait q n pc bs
    | _ => s.doSignal q n bs

/-- The thread reads its next packet and acts on it. Under a root that breaks R310 a packet it cannot read
fails with code 2 as well (R309, R327; log 29, DESIGN CHOICE). -/
def State.readPacket (s : State) (q : BitVec 10) (r : Root) : State :=
  let pc := s.packetVa q (s.qdone q + 1)
  if r.good then s.threadRead q pc pc 64 fun bs s => s.actOn q r bs
  else
    match s.reachKeep (s.threadSite q) (.thread q) (globalRegion pc 64) .read (vaRange pc 64) with
    | (.wait, s) => s
    | (.ok rs, s) => s.actOn q r (reachedBytes rs (vaRange pc 64))
    | (.cause _ _, s) => s.abortQueue q 2

/-- A copy lane's oldest copy leaves it. -/
def State.laneDone (s : State) (q : BitVec 10) (n : Word) : State :=
  let t := s.thread q
  s.setThread { t with lane := t.lane.filter fun x => x.seq != n }

/-- A grid whose blocks are all complete goes, and its blocks, its groups and their records with it
(R327, R398). -/
def State.dropGrid (s : State) (gr : Grid) : State :=
  let bs := (s.blocks.filter fun b => b.grid == gr.id).map fun b => b.id
  let gone := (s.groups.filter fun g => bs.contains g.blk).map fun g => g.id
  { s with
    grids := s.grids.filter fun g => g.id != gr.id,
    blocks := s.blocks.filter fun b => b.grid != gr.id,
    groups := s.groups.filter fun g => !bs.contains g.blk,
    cores := s.cores.map fun (k : Core) =>
      { k with picks := k.picks.filter fun x => !gone.contains x.path.grp,
               pinned := k.pinned.filter fun r => !gone.contains r.grp,
               holds := k.holds.filter fun x => !gone.contains x.1.grp } }

/-- The signal of started packet `n` is refused: the packet fails with code 9, and what it started is
outstanding no longer (R327, R329). -/
def State.failDone (s : State) (q : BitVec 10) (n : Word) : State :=
  let s := match s.grids.find? fun gr => gr.queue == q && gr.seq == n with
    | some gr => s.dropGrid gr
    | none => s
  (((s.laneDone q n).dropSignal q n).dropRunning q n).abortQueue q 9

/-- The oldest of the atomics that a queue's started packets have still to perform is performed at its home (R327,
R331). -/
def State.runSignal (s : State) (q : BitVec 10) : State :=
  let t := s.thread q
  match t.sigs with
  | [] => s
  | x :: _ =>
    if t.pause.isSome || s.power != .active || !s.threadRuns q then s
    else
      s.threadAtomic q (s.packetVa q x.seq) x.va.toNat (.done x.seq) (fun s => s.failDone q x.seq)
        (fun old => if x.add then old + x.v else x.v) fun s => (s.dropSignal q x.seq).dropRunning q x.seq

/-- PACKET_CONSUME (R325, R327, R330): an atomic of a started packet; then the last steps of an abort; an overrun; an
aborted queue's packets, without effect; else the next packet, which becomes next now. -/
def execPacketConsume (q : BitVec 10) (s : State) : Result :=
  let s := s.runSignal q
  let t := s.thread q
  if t.ending != [] then .next (if t.pause.isSome then s else s.endAbort q)
  else if !s.mayRead q || s.power != .active then .next s
  else if t.overrun then .next (s.abortQueue q 8)
  else if s.aborted q then .next (s.setDone q (s.qdoor q))
  else
    match (s.vdev (s.qVd q)).root with
    | none => .next s
    | some r =>
      if s.mayAct q && t.held.isNone then
        .next ((s.setThread { t with nextAt := some (t.nextAt.getD s.timebase.toNat) }).readPacket q r)
      else .next s

/-- The thread acts again on its next packet, which it holds and which is of type `ty` (R325, R327, R328). -/
def State.retryHeld (s : State) (q : BitVec 10) (ty : Nat) : Result :=
  match (s.thread q).held, (s.vdev (s.qVd q)).root with
  | some bs, some r => if s.mayAct q && fieldOf bs 0 1 == ty then .next (s.actOn q r bs) else .next s
  | _, _ => .next s

/-- LAUNCH_START_DEFERRED (R333): the feed queues it waits for are free. -/
def execLaunchStartDeferred (q : BitVec 10) (s : State) : Result := s.retryHeld q 1

/-- FEED_START_DEFERRED (R327): the target has room. -/
def execFeedStartDeferred (q : BitVec 10) (s : State) : Result := s.retryHeld q 2

/-- WAIT_EVALUATION (R328). -/
def execWaitEvaluation (q : BitVec 10) (s : State) : Result := s.retryHeld q 4

/-- WAIT_DEADLINE_EXPIRY (R328): an evaluation once the deadline has come. -/
def execWaitDeadlineExpiry (q : BitVec 10) (s : State) : Result := s.retryHeld q 4

/-- MILL_PREFETCH (R332): it changes no architectural state and raises no fault. -/
def execMillPrefetch (_ : BitVec 10) (s : State) : Result := .next s

/-- The completion signal of started packet `n` (R326). -/
def State.doneSignal (s : State) (q : BitVec 10) (n : Word) : DWord :=
  match (s.thread q).running.find? fun x => x.seq == n with
  | some x => x.sig
  | none => 0

/-- Started packet `n` is complete: its signal, then `k` (R327). -/
def State.completePacket (s : State) (q : BitVec 10) (n : Word) (k : State → State) : State :=
  s.signalDone q (s.packetVa q n) (s.doneSignal q n) (.done n) (fun s => s.failDone q n) fun s =>
    (k s).dropRunning q n

/-- LAUNCH_COMPLETE (R327, R331): every block of the grid has completed. -/
def execLaunchComplete (grid : Nat) (s : State) : Result :=
  match s.grid? grid with
  | none => .next s
  | some gr =>
    if gr.halted || (s.thread gr.queue).pause.isSome ||
        s.blocks.any (fun b => b.grid == grid && b.phase != .complete) then .next s
    else .next (s.completePacket gr.queue gr.seq fun s => s.dropGrid gr)

/-- A launch that fails at admission, of new blocks or of restored ones: it starts no block any more, saved ones give up
what they hold, and its queue aborts with code 3. Blocks of it that run already run on (R202, R203, R329, R330;
log 24, DESIGN CHOICE). -/
def State.failLaunch (s : State) (gr : Grid) : State :=
  let mine (p : BlockPhase) : List Block := s.blocks.filter fun b => b.grid == gr.id && b.phase == p
  let s := (mine .saved).foldl (fun (s : State) b => s.releaseBlock b) s
  let s := if (mine .resident).isEmpty then s.dropGrid gr
    else { s.setGrid { gr with resume := [] } with blocks := s.blocks.map fun (b : Block) =>
        if b.grid == gr.id && b.phase == .ready then { b with phase := .complete } else b }
  (s.dropRunning gr.queue gr.seq).abortQueue gr.queue 3

/-- The bytes of a queue copy have moved, and its work is charged to its queue's node; its completion signal is
still to be written (R323). -/
def State.laneMoved (s : State) (q : BitVec 10) (n : Word) : State :=
  let t := s.thread q
  ((s.setThread { t with lane := t.lane.map fun (z : LaneCopy) =>
      if z.seq == n then { z with len := 0 } else z }).forgetAnswers (.lane q)).meterQueue q

/-- A queue copy fails with a copy fault (R327, R329 code 6). -/
def State.laneFault (s : State) (q : BitVec 10) (n : Word) : State :=
  ((((s.laneDone q n).dropRunning q n).abortQueue q 6).forgetAnswers (.lane q)).disown (.lane q)

/-- An access of a queue copy: an absent page pauses it, any other refusal is a copy fault (R225, R327). -/
def State.laneReach (s : State) (q : BitVec 10) (x : LaneCopy) (va n : Nat) (a : Access)
    (k : List LineRes → List Nat → State → State) : State :=
  match s.reachKeep (s.threadSite q) (.lane q) (globalRegion va n) a (vaRange va n) with
  | (.wait, s) => s
  | (.ok rs, s) => k rs (vaRange va n) s
  | (.cause c y, s) =>
    if c = 0x20 then
      let r := s.sendFault (s.qVd q) 0 (BitVec.ofNat 56 y) x.pc 0 0 (kindBits a) (.lane q)
      let t := r.2.thread q
      (r.2.setThread { t with lane := t.lane.map fun (z : LaneCopy) =>
        if z.seq == x.seq then { z with paused := some r.1 } else z }).forgetAnswers (.lane q)
    else s.laneFault q x.seq

/-- The lane's oldest copy, whose bytes have moved, is complete once those sent to other dies are acknowledged; an
acknowledgment that expires is a copy fault (R223, R263, R264, R327). -/
def State.laneEnd (s : State) (q : BitVec 10) (n : Word) : State :=
  if s.lost (.lane q) then s.laneFault q n
  else if s.sending (.lane q) then s
  else s.completePacket q n fun s => s.laneDone q n

/-- COPY_PACKET_COMPLETE (R221 to R223, R327): the lane's oldest copy is performed, and is complete once what it has
written is acknowledged. -/
def execCopyPacketComplete (q : BitVec 10) (s : State) : Result :=
  let t := s.thread q
  match t.lane with
  | [] => .next s
  | x :: _ =>
    if x.paused.isSome || t.pause.isSome then .next s
    else if x.len = 0 then .next (s.laneEnd q x.seq)
    else
      .next (s.laneReach q x x.src.toNat x.len .read fun rs as' s =>
        s.laneReach q x x.dst.toNat x.len (copyAccess x.op) fun rd ad s =>
          ((s.copyPiece (s.threadSite q) (.lane q) x.op rd ad (reachedBytes rs as')).laneMoved q x.seq).laneEnd q x.seq)

/-! ### The host's writes -/

/-- QCFG_WRITE (R324): a SIZE of 13 or more is ignored whole; setting EN makes QDONE the doorbell and
clears the abort. -/
def execQcfgWrite (q : BitVec 10) (v : DWord) (s : State) : Result :=
  inService s <|
  if 13 ≤ (v.extractLsb' 8 4).toNat then .next s
  else
    let on := v.getLsbD 63 && !s.qEnabled q
    let s := s.setReg (queueKey q 0) (v &&& 0xC000000000000FFF)
    if on then
      let s := (s.setReg (queueKey q 0x28) ((s.qdoor q).setWidth 64)).setReg (queueKey q 0x30) 0
      let t := s.thread q
      .next ((s.setThread { t with pause := t.pause.filter fun x => x.2 != .packet, overrun := false }).unhold q)
    else .next s

/-- A host's write to a queue's doorbell: ignored on a DEV queue; one that runs over the ring is an overrun (R324,
R325). -/
def State.writeQdoor (s : State) (q : BitVec 10) (v : DWord) : State :=
  if s.qDev q then s
  else
    let s := s.setReg (queueKey q 0x20) ((v.setWidth 32).setWidth 64)
    if s.qEnabled q && s.ringSize q < (s.qdoor q - s.qdone q).toNat then s.setThread { s.thread q with overrun := true }
    else if s.qdoor q == s.qdone q then s.unhold q
    else s

/-- QDOOR_WRITE (R324, R325), by the physical function; a virtual function rings its own queues' doorbells by
REGISTER_WRITE (R379). -/
def execQdoorWrite (q : BitVec 10) (v : DWord) (s : State) : Result := inService s (.next (s.writeQdoor q v))

/-- QABORT (R324, R330): a code from 0x100 to 0x7FFFFFFF aborts the queue; others are ignored. -/
def execQabort (q : BitVec 10) (v : DWord) (s : State) : Result :=
  inService s <|
  let c := (v.setWidth 32 : Word).toNat
  if 0x100 ≤ c && c ≤ 0x7FFFFFFF then .next (s.abortQueue q c) else .next s

/-- EVACK_WRITE (R341): records that wait are written while the ring has room. -/
def execEvackWrite (vd : BitVec 8) (v : DWord) (s : State) : Result :=
  inService s <|
  let s := s.setReg (vdKey vd 0x218) ((v.setWidth 32).setWidth 64)
  let d := s.vdev vd
  .next (s.drainEvents vd (d.evbuf.length + d.evresv.length + d.evwait.length))

end Sys2Proof.Machine
end

