-- ==== Sys2Proof/Machine/Sched.lean ====
section
/-!
DEFINITION. The dies' block dispatchers: the order of offers, the choice of clusters and cores, gangs,
energy windows and slices (R202, R253, R317, R333, R335, R336, R395).
The model's own choices here: DESIGN CHOICE, logs 4, 24, 28, 29.
-/
namespace Sys2Proof.Machine

/-- What a level needs of a core for one of its blocks: group places, and its base allocation. -/
def State.blockNeeds (s : State) (gr : Grid) (b : Block) : Nat × Units :=
  (if b.phase == .ready then b.ngrp
   else (s.groups.filter fun g => g.blk == b.id && g.phase == .saved).length, baseOf gr b)

/-- A core already chosen for a block: the core, its places, its units. -/
structure Chosen where
  core   : Nat
  places : Nat
  units  : Units
  deriving DecidableEq, Repr

/-- What the chosen blocks take of a core, by a measure. -/
def takenOn (cs : List Chosen) (i : Nat) (f : Chosen → Nat) : Nat :=
  ((cs.filter fun c => c.core == i).map f).sum

/-- A core for each block in turn: the lowest that has the places and the units; none when some block
finds no core (R147, R202). -/
def State.chooseCores (s : State) (gr : Grid) (hw : BitVec 6) (avail : ResVec) :
    List Block → List Chosen → Option (List Chosen)
  | [], cs => some cs
  | b :: t, cs =>
    let n := s.blockNeeds gr b
    let fits (i : Nat) : Bool :=
      let core := hw ++ BitVec.ofNat 3 i
      !(s.core core).removed &&
        n.2.reg + takenOn cs i (fun c => c.units.reg) ≤ avail.getD i 0 &&
        n.2.tile + takenOn cs i (fun c => c.units.tile) ≤ avail.getD (8 + i) 0 &&
        n.1 + takenOn cs i (fun c => c.places) ≤ (s.freePlaces core).length
    match (List.range 8).find? fits with
    | none => none
    | some i => State.chooseCores s gr hw avail t (cs ++ [⟨i, n.1, n.2⟩])

/-- An admission request with cores of the dispatcher's choice (R202). -/
def State.tryCluster (s : State) (gr : Grid) (dl cl : Nat) (hw : BitVec 6) : Admit :=
  let avail := s.availOf hw ((s.residents hw).map Block.holding)
  match s.chooseCores gr hw avail (s.waitingBlocks gr dl cl) [] with
  | some cs => s.admitLevel gr dl cl hw (cs.map fun c => BitVec.ofNat 3 c.core)
  | none => .withdrawn

/-- The first of some clusters that takes the level; a failed request ends the launch (R202). -/
def State.tryClusters (s : State) (gr : Grid) (dl cl : Nat) : List (BitVec 6) → Admit
  | [] => .withdrawn
  | hw :: t =>
    match s.tryCluster gr dl cl hw with
    | .withdrawn => State.tryClusters s gr dl cl t
    | r => r

/-- The levels of a grid with blocks that wait: die level and cluster level. -/
def State.waitingLevels (s : State) (gr : Grid) : List (Nat × Nat) :=
  gr.levels.flatMap fun d => (d.clus.filter fun c => !(s.waitingBlocks gr d.idx c.idx).isEmpty).map
    fun c => (d.idx, c.idx)

/-- All of a gang's levels, or none (R253, R317). `own` answers for the levels whose place is given. -/
def State.admitGang (s : State) (grid : Nat) (own : Grid → State → Nat → Nat → Option Admit) :
    List (Nat × Nat) → Admit
  | [] => .ok s
  | (dl, cl) :: t =>
    match s.grid? grid with
    | none => .withdrawn
    | some gr =>
      let die := match gr.die? dl with
        | some d => d.die.getD 0
        | none => 0
      let r := match own gr s dl cl with
        | some r => r
        | none => s.tryClusters gr dl cl (s.clustersOn gr.vd die)
      match r with
      | .ok s => State.admitGang s grid own t
      | r => r

/-- What an admission request leaves: a failed one ends its launch (R202). -/
def State.admitted (s : State) (gr : Grid) (r : Admit) : State :=
  match r with
  | .ok s => s
  | .withdrawn => s
  | .failed => s.failLaunch gr

/-- ADMISSION (R202, R253): the request for one cluster level on a cluster and its cores; for a gang, with
it those of every other level, where the dispatcher puts them. -/
def execAdmission (grid : Nat) (dl : BitVec 2) (cl : BitVec 4) (hw : BitVec 6) (cores : List (BitVec 3))
    (s : State) : Result :=
  match s.grid? grid with
  | none => .next s
  | some gr =>
    let one (gr : Grid) (s : State) : Admit := s.admitLevel gr dl.toNat cl.toNat hw cores
    let r := if gr.desc.gang then
        s.admitGang grid (fun gr s d c => if d = dl.toNat && c = cl.toNat then some (one gr s) else none)
          (s.waitingLevels gr)
      else one gr s
    .next (s.admitted gr r)

/-- Whether some node of a path has used its energy budget (R335). -/
def State.outOfEnergy (s : State) (gr : Grid) : Bool :=
  let d := s.vdev gr.vd
  gr.nodes.any fun n => n.energy != 0xFFFFFFFF && n.energy.toNat ≤ d.used n.va

/-- The energy of the work since the last metering, on every node of every path with resident blocks; the
amount is the hardware's, a free value (R335; log 4, DESIGN CHOICE). -/
def State.meter (s : State) : State :=
  let run := s.grids.filter fun gr => s.blocks.any fun b => b.grid == gr.id && b.phase == .resident
  run.foldl (fun s gr =>
    { s.setVdev ((s.vdev gr.vd).meter (gr.nodes.map fun n => n.va) (Config.freeWord s.free).toNat) with
      free := s.free + 1 }) s

/-- ENERGY_WINDOW (R335): at a multiple of 1,000,000 ticks every budget is renewed. -/
def execEnergyWindow (s : State) : Result :=
  let n := s.timebase.toNat / 1000000
  if n = s.window then .next s
  else .next { s with window := n, vds := s.vds.map fun (d : VirtDev) => { d with energy := [] } }

/-- An offer a dispatcher may make on a die: a grid's level that may go there, or all of a gang's, with the blocks it
costs and the rounds until its grid's deficit covers them (R335). -/
structure Offer where
  grid   : Nat
  levels : List (Nat × Nat)
  cost   : Nat
  rank   : List Nat
  rounds : Nat
  deriving DecidableEq, Repr

/-- Whether a level may go to a die at all. -/
def State.levelMay (s : State) (gr : Grid) (die : BitVec 2) (x : Nat × Nat) : Bool :=
  (s.clustersOn gr.vd die).any fun hw => s.mayOffer gr x.1 x.2 hw

/-- Whether a gang's level may go to its own die at all. -/
def State.gangMay (s : State) (gr : Grid) (x : Nat × Nat) : Bool :=
  match (gr.die? x.1).bind fun d => d.die with
  | some die => s.levelMay gr die x
  | none => false

/-- When the first saved block of a level was saved, in the order of the resume list; a level without one
comes after all (R317, R335). -/
def State.resumeRank (s : State) (gr : Grid) (x : Nat × Nat) : Nat :=
  let bs := (s.waitingBlocks gr x.1 x.2).map fun b => b.id
  match (List.range gr.resume.length).find? fun i => bs.contains (gr.resume.getD i 0) with
  | some i => i
  | none => gr.resume.length

/-- Puts a level in its place among those that come before it. -/
def insertLevel (f : Nat × Nat → Nat) (x : Nat × Nat) : List (Nat × Nat) → List (Nat × Nat)
  | [] => [x]
  | y :: t => if f x < f y then x :: y :: t else y :: insertLevel f x t

/-- HEAD of a die's THERM (R360). -/
def State.headroom (s : State) (die : BitVec 2) : Nat := ((s.reg (dieKey die 0x20)).extractLsb' 8 8).toNat

/-- An offer of some levels of a grid. -/
def State.offerOf (s : State) (die : BitVec 2) (gr : Grid) (ls : List (Nat × Nat)) : Offer :=
  let bs := ls.flatMap fun y => s.waitingBlocks gr y.1 y.2
  let waited := bs.all fun b => s.timebase.toNat < b.since + 20000000
  let hot := gr.desc.power == 3 && s.headroom die < 10 && waited
  let w := weightOf gr.nodes
  { grid := gr.id, levels := ls, cost := bs.length, rank := [15 - prioOf gr.nodes, if hot then 1 else 0],
    rounds := (bs.length - gr.deficit + w - 1) / w }

/-- A grid's offers on a die, in their order: an offer comes no earlier than those before it (R335). -/
def inOrder (n : Nat) : List Offer → List Offer
  | [] => []
  | x :: t => { x with rounds := max n x.rounds } :: inOrder (max n x.rounds) t

/-- A grid's offers on a die: its waiting levels one by one, those with saved blocks first, or a gang's together
(R253, R317, R335). -/
def State.offersOf (s : State) (die : BitVec 2) (gr : Grid) : List Offer :=
  let ls := if gr.desc.gang then
      (let ls := s.waitingLevels gr
       if (gr.levels.any fun d => d.die == some die) && ls.all fun x => s.gangMay gr x then ls else [])
    else (s.waitingLevels gr).filter (s.levelMay gr die)
  let ls := ls.foldl (fun l x => insertLevel (s.resumeRank gr) x l) []
  if s.outOfEnergy gr || ls.isEmpty then []
  else if gr.desc.gang then [s.offerOf die gr ls]
  else inOrder 0 (ls.map fun x => s.offerOf die gr [x])

/-- Puts an offer in its place: by rank, then by the rounds it needs (R335). -/
def insertOffer (x : Offer) : List Offer → List Offer
  | [] => [x]
  | y :: t =>
    if rankLt (x.rank ++ [x.rounds]) (y.rank ++ [y.rounds]) then x :: y :: t else y :: insertOffer x t

/-- The offers on a die in the order in which its dispatcher makes them (R335). -/
def State.offers (s : State) (die : BitVec 2) : List Offer :=
  (s.grids.flatMap (s.offersOf die)).foldl (fun l x => insertOffer x l) []

/-- The Reeve's answer to an offer: a level, or a gang's levels together (R202, R253, R335). -/
def State.offerGrid (s : State) (die : BitVec 2) (gr : Grid) (x : Offer) : Admit :=
  if gr.desc.gang then s.admitGang gr.id (fun _ _ _ _ => none) x.levels
  else
    match x.levels with
    | l :: _ => s.tryClusters gr l.1 l.2 (s.clustersOn gr.vd die)
    | [] => .withdrawn

/-- Whether an offer finds no room on a die: of a gang, its levels there (R253, R336). -/
def State.noRoom (s : State) (die : BitVec 2) (gr : Grid) (x : Offer) : Bool :=
  let here (l : Nat × Nat) : Bool := !gr.desc.gang || ((gr.die? l.1).bind fun d => d.die) == some die
  (s.offerGrid die gr { x with levels := x.levels.filter here }) == .withdrawn

/-- After an offer was taken: the rounds it took add each equal's weight to its deficit, and the offer
costs its grid its blocks, which the deficit covers then (R335). -/
def State.payOffer (s : State) (all : List Offer) (x : Offer) : State :=
  { s with grids := s.grids.map fun (g : Grid) =>
      let added := if all.any fun y => y.grid == g.id && y.rank == x.rank
        then x.rounds * weightOf g.nodes else 0
      { g with deficit := g.deficit + added - (if g.id == x.grid then x.cost else 0) } }

/-- The offers in turn until one is taken; one that is withdrawn costs nothing (R202, R335). -/
def State.tryOffers (s : State) (die : BitVec 2) (all : List Offer) : List Offer → State
  | [] => s
  | x :: t =>
    match s.grid? x.grid with
    | none => State.tryOffers s die all t
    | some gr =>
      match s.offerGrid die gr x with
      | .ok s' => s'.payOffer all x
      | .failed => s.admitted gr .failed
      | .withdrawn => State.tryOffers s die all t

/-- BLOCK_DISPATCH (R335). -/
def execBlockDispatch (die : BitVec 2) (s : State) : Result :=
  let s := s.meter
  let os := s.offers die
  .next (s.tryOffers die os os)

/-- The blocks resident on a die that a slice may end for a block of priority `p`, with their priorities
(R336). -/
def State.sliceable (s : State) (die : BitVec 2) (p : Nat) : List (Block × Nat) :=
  let least := 1024 * ((s.reg (dieKey die 0x18)).toNat % 2 ^ 32)
  s.blocks.filterMap fun b =>
    match s.grid? b.grid with
    | some gr =>
      let q := prioOf gr.nodes
      if b.phase == .resident && dieOf b.core == die && b.stop.isNone && q < p &&
          b.since + least ≤ s.timebase.toNat then some (b, q) else none
    | none => none

/-- The block a slice ends for a block of priority `p`: of the lowest priority below it the one resident longest
(R336). -/
def State.sliceVictim (s : State) (die : BitVec 2) (p : Nat) : Option Block :=
  ((s.sliceable die p).foldl (fun (m : Option (Block × Nat)) y =>
    match m with
    | none => some y
    | some z => if y.2 < z.2 || (y.2 == z.2 && y.1.since < z.1.since) then some y else some z) none).map fun y => y.1

/-- What the offers on a die, in turn, find to stop: the first that finds no room and has a block below it (R336). -/
def State.sliceFor (s : State) (die : BitVec 2) : List Offer → Option Block
  | [] => none
  | x :: t =>
    match (s.grid? x.grid).bind fun gr => if s.noRoom die gr x then s.sliceVictim die (prioOf gr.nodes) else none with
    | some b => some b
    | none => State.sliceFor s die t

/-- SLICE_PREEMPT (R336): for an offer that finds no room the lowest block below its priority that has been resident
longest is asked to stop; one block at a time, so none while a stop on the die is under way. -/
def execSlicePreempt (die : BitVec 2) (s : State) : Result :=
  let off := (s.reg (dieKey die 0x18)).toNat % 2 ^ 32 = 0
  let under := s.blocks.any fun b => b.phase == .resident && dieOf b.core == die && b.stop.isSome
  if off || under then .next s
  else
    match s.sliceFor die (s.offers die) with
    | some b => .next (s.requestStop b)
    | none => .next s

end Sys2Proof.Machine
end

