-- ==== Sys2Proof/Machine/Halt.lean ====
section
/-!
DEFINITION. Fault domains: halt lines, stop records, discards, clock faults, VF Enable; the host's answers to
page faults (R176, R225, R265, R266, R277, R292, R320 to R322, R372, R378, R382).
The model's own choices here: DESIGN CHOICE, logs 25, 32, 40.
-/
namespace Sys2Proof.Machine

/-- The grids of a fault domain (R310, R320). -/
def State.domainGrids (s : State) (vd : BitVec 8) (fdom : BitVec 16) : List Grid :=
  s.grids.filter fun gr => gr.vd == vd && gr.fdom == fdom

/-- The blocks of some grids. -/
def State.blocksOf (s : State) (grs : List Grid) : List Block :=
  s.blocks.filter fun b => grs.any fun gr => gr.id == b.grid

/-- The queues whose threads belong to a fault domain (R310, R320, R323). -/
def State.domainQueues (s : State) (vd : BitVec 8) (fdom : BitVec 16) : List (BitVec 10) :=
  match (s.vdev vd).root with
  | none => []
  | some r =>
    ((List.range 1024).map fun n => BitVec.ofNat 10 n).filter fun q =>
      s.qEnabled q && s.qVd q == vd && s.threadDomain q r == fdom

/-- What a group that a halt stops will record: its path's PC and its active mask (R321). -/
def haltedGroup (g : Group) (cause : BitVec 8) (now : Nat) : Frozen :=
  let pc := match g.paths with
    | p :: _ => p.pc
    | [] => 0
  { grp := some g.id, chan := none, cause := cause, pc := pc, addr := 0,
    lanes := g.paths.foldl (fun m p => m ||| p.mask) 0, time := now }

/-- What a channel that a halt stops will record (R321). -/
def haltedChan (b : Block) (n : Nat) (cause : BitVec 8) (now : Nat) : Frozen :=
  let pc := match (b.chan n).queue with
    | x :: _ => x.pc
    | [] => 0
  { grp := none, chan := some (b.id, n), cause := cause, pc := pc, addr := 0, lanes := 0, time := now }

/-- The matrix work that runs for some grids' resident blocks is abandoned (R247). -/
def State.abandonWork (s : State) (grs : List Grid) : State :=
  s.cores.foldl (fun (s : State) k => k.array.foldl (fun (s : State) x =>
    match s.block? x.blk with
    | some b =>
      if b.phase == .resident then
        match grs.find? fun gr => gr.id == b.grid with
        | some gr => s.abandon k.id b gr x
        | none => s
      else s
    | none => s) s) s

/-- Every party of a raised domain stops: groups and channels of its resident blocks; their matrix
operations are abandoned (R247, R320). -/
def State.haltStop (s : State) (vd : BitVec 8) (h : HaltPend) : State :=
  let s := s.abandonWork (s.domainGrids vd h.fdom)
  let up := (s.blocksOf (s.domainGrids vd h.fdom)).filter fun b => b.phase == .resident
  let cause : BitVec 8 := if h.clock then 0x60 else 0
  let now := s.timebase.toNat
  let isUp (g : Group) : Bool :=
    (g.phase == .running || g.phase == .stopped) && up.any fun b => b.id == g.blk
  let gs := s.groups.filter isUp
  let d := s.vdev vd
  let chans := up.flatMap fun b => (List.range b.alloc.eng).filterMap fun n =>
    if d.frozen.any fun f => f.chan == some (b.id, n) then none else some (haltedChan b n cause now)
  let s := s.setVdev { d with
    frozen := d.frozen ++ (gs.map fun g => haltedGroup g cause now) ++ chans,
    raised := d.raised.map fun (x : HaltPend) => if x.fdom == h.fdom then { x with stopped := true } else x }
  let s := gs.foldl (fun s g => s.withdraw g.id) s
  { s with
    groups := s.groups.map fun (g : Group) =>
      if isUp g then { g with phase := .frozen, replay := [] } else g,
    blocks := s.blocks.map fun (b : Block) =>
      if up.any fun x => x.id == b.id then
        { b with stop := none, chans := (List.range b.alloc.eng).map fun n => { b.chan n with frozen := true } }
      else b,
    cores := s.cores.map fun (k : Core) =>
      k.abandonOps (s.idleGate k.id) fun x => up.any fun b => b.id == x.blk }

/-- The 64 bytes of a stop record (R321). -/
def stopBytes (vd : BitVec 8) (fdom : BitVec 16) (f : Frozen) (party wh : Nat) (origin clock host : Bool)
    (seq : Nat) (place : DWord) : List Byte :=
  let bit (b : Bool) (n : Nat) : Nat := if b then 2 ^ n else 0
  bytesOfNat 8 f.time ++ bytesOfNat 8 f.pc.toNat ++ bytesOfNat 8 f.addr.toNat ++
    bytesOfNat 4 f.lanes.toNat ++ bytesOfNat 4 wh ++
    bytesOfNat 4 (vd.toNat + 2 ^ 8 * f.cause.toNat + 2 ^ 16 * party + bit origin 19 + bit clock 20 +
      bit host 21) ++
    bytesOfNat 2 fdom.toNat ++ [0, 0] ++ bytesOfNat 8 seq ++ bytesOfNat 4 place.toNat ++
    List.replicate 12 0

/-- The count of the stop records a node's domain has had, in the first 8 bytes of the node's device area (R310,
R321; log 32, DESIGN CHOICE). -/
def State.recordIndex (s : State) (vd : BitVec 8) (n : Node) : Nat :=
  if n.level = 0 then
    let x := s.rootPlace vd
    (s.frameWord x.1 (x.2 + 0x40)).toNat
  else match s.deviceRead vd (n.va.toNat + 0x40) 8 with
    | some (bs, _) => natOfBytes bs
    | none => 0

@[inherit_doc State.recordIndex]
def State.setRecordIndex (s : State) (vd : BitVec 8) (n : Node) (i : Nat) : State :=
  if n.level = 0 then
    let x := s.rootPlace vd
    { s with mem := Memory.writeN s.mem (frameKey x.1 (x.2 + 0x40)) (bytesOfNat 8 i) }
  else s.deviceWriteN 0 vd 1 (n.va.toNat + 0x40) (bytesOfNat 8 i)

/-- One stop record in a node's record area: written while its index is below the area's count, counted always
(R321). -/
def State.putRecord (s : State) (vd : BitVec 8) (n : Node) (bytes : Nat → List Byte) : State :=
  let i := s.recordIndex vd n
  let cnt := n.reccount.toNat
  let s := s.setRecordIndex vd n (i + 1)
  if i < cnt then s.deviceWriteN 0 vd 2 ((n.recarea.toNat + 64 * (i % cnt)) % 2 ^ 56) (bytes i) else s

/-- Whether a PGINV covers a node's device area or its record area (R271). -/
def State.recordBusy (s : State) (vd : BitVec 8) (n : Node) : Bool :=
  (n.level != 0 && s.rangeBusy vd n.va.toNat 128) || s.rangeBusy vd n.recarea.toNat (64 * n.reccount.toNat)

/-- The block of a frozen party. -/
def State.frozenBlock (s : State) (f : Frozen) : Option Block :=
  match f.grp, f.chan with
  | some g, _ => (s.group? g).bind fun g => s.block? g.blk
  | none, some (b, _) => s.block? b
  | none, none => none

/-- Whether a frozen party belongs to a fault domain. -/
def State.frozenIn (s : State) (fdom : BitVec 16) (f : Frozen) : Bool :=
  match s.frozenBlock f with
  | some b => (match s.grid? b.grid with
    | some gr => gr.fdom == fdom
    | none => false)
  | none => false

/-- The node whose record area a grid's parties write into (R310). -/
def Grid.recordNode (gr : Grid) : Option Node := gr.nodes.find? fun n => n.fdom == gr.fdom

/-- The stop record of a group or a channel, in its grid's record area (R310, R321). A channel's, as a Mill thread's,
has 0 for its place, of which R158 gives these none (log 32, DESIGN CHOICE). -/
def State.partyRecord (s : State) (vd : BitVec 8) (h : HaltPend) (f : Frozen) (origin : Bool) : State :=
  match s.frozenBlock f with
  | none => s
  | some b =>
    match s.grid? b.grid with
    | none => s
    | some gr =>
      let wh := match f.chan, f.grp.bind fun g => s.group? g with
        | some (_, n), _ => (whereChan b n).toNat
        | none, some g => (whereOf b g.idx).toNat
        | none, none => 0
      let place : DWord := match f.grp.bind fun g => s.group? g with
        | some g => placeWord b g
        | none => 0
      match gr.recordNode with
      | none => s
      | some n => s.putRecord vd n fun i =>
          stopBytes vd h.fdom f (if f.chan.isSome then 1 else 0) wh origin h.clock h.host i place

/-- The node that gives a queue's thread its fault domain (R310, R323). -/
def State.queueNode (s : State) (q : BitVec 10) (r : Root) : Node :=
  match s.readNode (s.qVd q) (s.reg (queueKey q 0x10)) 1 with
  | some (n, _, _) => if n.fdom == 0xFFFF then r.node else n
  | none => r.node

/-- The stop record of a Mill thread, which stopped when the domain's halt line rose, in the record area of the node that
gives it its domain (R310, R320, R321). -/
def State.threadRecord (s : State) (vd : BitVec 8) (h : HaltPend) (r : Root) (q : BitVec 10) : State :=
  let t := s.thread q
  let busy := t.nextAt.isSome
  let f : Frozen := {
    grp := none, chan := none, cause := if h.clock then 0x60 else 0,
    pc := if busy then BitVec.ofNat 56 (s.packetVa q (s.qdone q + 1)) else 0,
    addr := 0, lanes := 0, time := h.since }
  s.putRecord vd (s.queueNode q r) fun i =>
    stopBytes vd h.fdom f 2 q.toNat false h.clock h.host i 0

/-- Whether every store of a stopped domain's groups is acknowledged, or its deadline has expired (R264,
R292). -/
def State.haltQuiet (s : State) (gs : List Group) : Bool :=
  gs.all fun g => g.sb.isEmpty && g.sbRest.isEmpty &&
    !(s.flight.any fun f => f.who.isNone && f.grp == g.id && f.deadline != some 0)

/-- A grid whose domain has halted: its blocks give everything back, its queue aborts with code 7 and its
packet is no longer outstanding (R211, R320, R327, R329, R398). -/
def State.discardGrid (s : State) (gr : Grid) : State :=
  let s := (s.blocksOf [gr]).foldl (fun (s : State) b => s.releaseBlock b) s
  ((s.dropGrid gr).dropRunning gr.queue gr.seq).abortQueue gr.queue 7

/-- What a party of a halted domain records: under a package clock fault every one the cause 0x60, be it frozen already
(R265). -/
def HaltPend.recorded (h : HaltPend) (f : Frozen) : Frozen := if h.clock then { f with cause := 0x60 } else f

/-- The records are written, the event is sent, the domain's resources go back (R320, R321). The event record has the
count of saved blocks as its code and, as R341 lays its type out, an empty payload; the domain that R320 has it report
stands in no field of it (log 32, DESIGN CHOICE). -/
def State.haltFinish (s : State) (vd : BitVec 8) (h : HaltPend) : State :=
  let grs := s.domainGrids vd h.fdom
  let saved := ((s.blocksOf grs).filter fun b => b.phase == .saved).length
  let mine := (s.vdev vd).frozen.filter (s.frozenIn h.fdom)
  let first := (mine.find? fun f => f.cause != 0 && !h.clock && !h.host).map fun f => (f.grp, f.chan)
  let s' := mine.foldl (fun (s : State) f => s.partyRecord vd h (h.recorded f) (first == some (f.grp, f.chan))) s
  let s' := match (s.vdev vd).root with
    | some r => (s.domainQueues vd h.fdom).foldl (fun (s : State) q => s.threadRecord vd h r q) s'
    | none => s'
  let s' := grs.foldl (fun (s : State) gr => s.discardGrid gr) s'
  let d := s'.vdev vd
  (s'.setVdev { d with
    frozen := d.frozen.filter fun f => !mine.contains f,
    raised := d.raised.filter fun x => x.fdom != h.fdom,
    halted := if d.halted.contains h.fdom then d.halted else d.halted ++ [h.fdom] }).event vd 3 0xFFFF
      (BitVec.ofNat 32 saved) []

/-- Whether a PGINV holds up the stop records of a domain (R271). -/
def State.recordsBusy (s : State) (vd : BitVec 8) (fdom : BitVec 16) : Bool :=
  ((s.domainGrids vd fdom).any fun gr => match gr.recordNode with
    | some n => s.recordBusy vd n
    | none => false) ||
  match (s.vdev vd).root with
  | some r => (s.domainQueues vd fdom).any fun q => s.recordBusy vd (s.queueNode q r)
  | none => false

/-- HALT_RAISE (R320, R321): a raised domain's parties stop; once their stores are acknowledged, each
has its stop record. -/
def execHaltRaise (vd : BitVec 8) (fdom : BitVec 16) (s : State) : Result :=
  match (s.vdev vd).raised.find? fun h => h.fdom == fdom with
  | none => .next s
  | some h =>
    if !h.stopped then .next (s.haltStop vd h)
    else
      let bs := (s.blocksOf (s.domainGrids vd fdom)).filter fun b => b.phase == .resident
      if s.haltQuiet (s.groups.filter fun g => bs.any fun b => b.id == g.blk) && !s.recordsBusy vd fdom then
        .next (s.haltFinish vd h)
      else .next s

/-- The host raises a fault domain's halt line; a domain without a party is halted at once, so that no grid
that comes later is taken for one (R320). -/
def State.hostHalt (s : State) (vd : BitVec 8) (fdom : BitVec 16) : State :=
  let up := s.raiseHalt vd fdom false true
  if (s.domainGrids vd fdom).isEmpty && (s.domainQueues vd fdom).isEmpty then
    match (up.vdev vd).raised.find? fun h => h.fdom == fdom with
    | some h => up.haltFinish vd h
    | none => up
  else up

/-- VDHALT_RAISE (R320, R378). -/
def execVdhaltRaise (vd : BitVec 8) (fdom : BitVec 16) (s : State) : Result :=
  inService s <|
  .next ((s.setReg (vdKey vd 0x108) (fdom.setWidth 64)).hostHalt vd fdom)

/-- VDHALT_CLEAR (R266, R320, R378): ignored while a package clock fault stands. -/
def execVdhaltClear (vd : BitVec 8) (fdom : BitVec 16) (s : State) : Result :=
  inService s <|
  let s := s.setReg (vdKey vd 0x108) (fdom.setWidth 64)
  if s.clkFault then .next s
  else
    let d := s.vdev vd
    .next (s.setVdev { d with halted := d.halted.filter fun x => x != fdom })

/-- Every fault domain of a virtual device that a party is known for (R265, R322). -/
def State.allDomains (s : State) (vd : BitVec 8) : List (BitVec 16) :=
  let gs := (s.grids.filter fun gr => gr.vd == vd).map fun gr => gr.fdom
  match (s.vdev vd).root with
  | none => gs
  | some r =>
    r.node.fdom :: gs ++ (((List.range 1024).map fun n => BitVec.ofNat 10 n).filter fun q =>
      s.qEnabled q && s.qVd q == vd).map fun q => s.threadDomain q r

/-- PACKAGE_CLOCK_FAULT (R265, R266): the timebase stands, every domain halts, one event record goes to the
physical function. -/
def execPackageClockFault (s : State) : Result :=
  if s.clkFault then .next s
  else
    let s := { s with clkFault := true }.setReg (dieKey 0 0x48) 1
    let s := s.vds.foldl (fun s d =>
      (s.allDomains d.vd).foldl (fun s f => s.raiseHalt d.vd f true false) s) s
    .next (s.event 0 5 0xFFFF 0 [])

/-- CXL_MEM_ERROR (R320, R382): an access of the virtual device's line to CXL memory has failed; the line is
not filled, and the domain of its root halts. -/
def execCxlMemError (die : BitVec 2) (vd : BitVec 8) (va : Va) (s : State) : Result :=
  let leaf : Option Leaf := match s.homeLine? die vd (lineOf va) with
    | some h => some h.leaf
    | none => match s.translate die vd va with
      | .ok (l, _) => some l
      | .error _ => none
  match leaf, (s.vdev vd).root with
  | some l, some r =>
    if cxlBase ≤ l.pfn.toNat * 2 ^ 16 then
      let s := { s with home := s.home.filter fun h => !(h.die == die && h.vd == vd && h.va == lineOf va) }
      .next (s.raiseHalt vd r.node.fdom false false)
    else .next s
  | _, _ => .next s

/-- Whether a virtual device has work running (R322). -/
def State.hasWork (s : State) (vd : BitVec 8) : Bool :=
  (s.grids.any fun gr => gr.vd == vd) ||
    s.threads.any fun t => s.qVd t.q == vd && (!t.running.isEmpty || t.nextAt.isSome)

/-- The 64 KiB page at a VA reads zero from now on (R322). -/
def State.zeroPage (s : State) (vd : BitVec 8) (va : Va) : State :=
  let die := s.homeOf vd va
  let inPage (k : LineKey) : Bool := match k with
    | .mem _ v la => v == vd && la.extractLsb' 16 40 == va.extractLsb' 16 40
    | .host _ _ | .scr _ _ | .tile _ _ => false
  match s.translate die vd va with
  | .error _ => s
  | .ok (l, s) =>
    let lo := frameKey die (l.pfn.toNat * 2 ^ 16)
    { s.dropLines inPage false with mem := s.mem.filter fun c => c.1 < lo || lo + 2 ^ 16 ≤ c.1 }

/-- The save slots in use are zeroed before they go back (R316, R322). -/
def State.zeroSlots (s : State) (vd : BitVec 8) (bs : List Block) : State :=
  match (s.vdev vd).root with
  | none => s
  | some r => bs.foldl (fun s b =>
      match b.slot with
      | none => s
      | some n => (List.range 64).foldl (fun s i =>
          s.zeroPage vd (BitVec.ofNat 56 (r.savepool.toNat + n * 0x400000 + i * 65536))) s) s

/-- A resize of a virtual device's partition that is in progress ends: its bitmaps stay as they were, and its GO
has its event record (R322, R341; log 32, DESIGN CHOICE). -/
def State.endResize (s : State) (vd : BitVec 8) : State :=
  match s.partOf vd, s.partPend with
  | some p, some c => if c.part == p.num then { s with partPend := none }.event 0 4 0xFFFF 0 [] else s
  | _, _ => s

/-- One virtual device's work ends without records or completions; what its blocks held reads zero
(R198, R322). -/
def State.discardVd (s : State) (vd : BitVec 8) : State :=
  let s := s.endResize vd
  let doms := s.allDomains vd
  let grs := s.grids.filter fun gr => gr.vd == vd
  let bs := s.blocksOf grs
  let s := bs.foldl (fun (s : State) b => s.releaseBlock b) (s.zeroSlots vd bs)
  let gone := (s.groups.filter fun g => bs.any fun b => b.id == g.blk).map fun g => g.id
  let s := grs.foldl (fun s gr => s.dropGrid gr) s
  let d := s.vdev vd
  let s := s.setVdev { d with raised := [], frozen := [], faults := [], evwait := [],
                              halted := d.halted ++ doms.filter fun f => !d.halted.contains f }
  let s := s.endPri fun x => x.vd == vd
  { s with
    flight := s.flight.filter fun f => !(if f.who.isNone then gone.contains f.grp else f.vd == vd),
    reqs := s.reqs.filter fun q => q.vd != vd,
    resps := s.resps.filter fun x => x.req.vd != vd,
    txns := s.txns.filter fun t => !bs.any fun b => b.id == t.blk,
    cores := s.cores.map fun (k : Core) =>
      k.abandonOps (s.idleGate k.id) fun x => bs.any fun b => b.id == x.blk,
    clusters := s.clusters.map fun (k : Cluster) =>
      { k with queue := k.queue.filter fun r => !gone.contains r.path.grp,
               deferred := k.deferred.filter fun r => !gone.contains r.path.grp },
    threads := s.threads.filter fun t => s.qVd t.q != vd }

/-- VF_ENABLE_CLEAR (R322): every virtual function with work running is discarded; one event record goes to
the physical function. -/
def execVfEnableClear (s : State) : Result :=
  waking <|
  let vds := (s.vds.filter fun d => d.vd != 0 && s.hasWork d.vd).map fun d => d.vd
  let s := { s with vfEnable := false }
  if vds.isEmpty then .next s
  else .next ((vds.foldl (fun s v => s.discardVd v) s).event 0 6 0xFFFF 0 [])

/-- FUNCTION_LEVEL_RESET (R372): as clearing VF Enable, for one virtual function. -/
def execFunctionLevelReset (vd : BitVec 8) (s : State) : Result :=
  waking <|
  if vd = 0 || !s.hasWork vd then .next s else .next ((s.discardVd vd).event 0 6 0xFFFF 0 [])

/-! ### The host's answers -/

/-- The slot whose path waits under a kind. -/
def Group.waiter (g : Group) (k : WaitKind) : Option (Bool × Path) :=
  let is (p : Path) : Bool := match p.wait with
    | some w => w.kind == k
    | none => false
  match g.slot0.filter is, g.slot1.filter is with
  | some p, _ => some (false, p)
  | none, some p => some (true, p)
  | none, none => none

/-- Whether a parked instruction's record is the one with a tag: a page-fault record's, or a page request's number
(R175, R176). -/
def FaultTag.is (t : FaultTag) (tag : Word) (host : Bool) : Bool := t.tag == tag && t.host == host

/-- The answer to a record of a parked instruction: it is noted; a refusal is fatal with the refused page's
lanes (R176). -/
def State.answerReplay (s : State) (grp : Nat) (pc : Va) (inSlot : Bool) (tag : Word) (host ok : Bool) : Result :=
  match s.group? grp with
  | none => .next s
  | some g =>
    match g.replay.find? fun r => r.pc == pc && r.slot == inSlot && r.tags.any fun t => t.is tag host with
    | none => .next s
    | some r =>
      let note (t : FaultTag) : FaultTag := if t.is tag host then { t with answer := some ok } else t
      let r' := { r with tags := r.tags.map note }
      let s := s.setGroup { g with replay := replaceFirst (fun x => x.idx == r.idx) (fun _ => r') g.replay }
      if ok then .next s
      else
        let lanes := match r.tags.find? fun t => t.is tag host with
          | some t => t.lanes
          | none => 0
        let page : Va := match r.tags.find? fun t => t.is tag host with
          | some t => t.page
          | none => 0
        match g.waiter (.parked r.idx) with
        | some (slot, p) => s.freeze g slot p.pc p.hdr 0x20 lanes 0 (page.setWidth 64)
        | none => s.freeze g r.slot r.pc r.pc 0x20 lanes 0 (page.setWidth 64)

/-- The answer to a record of a fetch (R105, R176). -/
def State.answerFetch (s : State) (r : PathRef) (tag : Word) (va : Va) (ok : Bool) : Result :=
  match s.group? r.grp with
  | none => .next s
  | some g =>
    match g.waiter (.fetch tag) with
    | none => .next s
    | some (slot, p) =>
      if ok then .next (s.setGroup (g.setPath slot (some { p with wait := none })))
      else s.freeze g slot p.pc p.hdr 0x20 p.mask 0 (va.setWidth 64)

/-- The answer to a record of a paused Carter operation (R176, R225). -/
def State.answerCarter (s : State) (blk ch : Nat) (tag : Word) (ok : Bool) : State :=
  match s.block? blk with
  | none => s
  | some b =>
    match (b.chan ch).queue.find? fun x => x.state == .paused tag with
    | none => s
    | some x =>
      if ok then s.setBlock (b.setOp ch { x with state := .moving }) else s.copyFault b ch x 0x41

/-- The answer to a record of a paused queue copy (R176, R327). -/
def State.answerLane (s : State) (q : BitVec 10) (tag : Word) (ok : Bool) : State :=
  let t := s.thread q
  match t.lane.find? fun x => x.paused == some tag with
  | none => s
  | some x =>
    if ok then
      s.setThread { t with lane := t.lane.map fun (y : LaneCopy) =>
        if y.seq == x.seq then { y with paused := none } else y }
    else s.laneFault q x.seq

/-- The answer to a record of a paused thread access (R176, R327). -/
def State.answerThread (s : State) (q : BitVec 10) (tag : Word) (ok : Bool) : State :=
  let t := s.thread q
  match t.pause with
  | none => s
  | some (n, what) =>
    if n != tag then s
    else
      let s := s.setThread { t with pause := none }
      if ok then s
      else match what with
        | .packet => s.abortQueue q 9
        | .done n => s.failDone q n
        | .qsig => s.qsigDone q

/-- What an answer releases; `host` is whether it answers a page request (R176, R277). -/
def State.answerOwner (s : State) (o : FaultOwner) (tag : Word) (va : Va) (host ok : Bool) : Result :=
  match o with
  | .replay grp pc slot => s.answerReplay grp pc slot tag host ok
  | .fetch r => s.answerFetch r tag va ok
  | .carter blk ch => .next (s.answerCarter blk ch tag ok)
  | .lane q => .next (s.answerLane q tag ok)
  | .thread q => .next (s.answerThread q tag ok)

/-- FAULT_RESPONSE (R176): a tag that names no unanswered record of the virtual device is ignored. -/
def execFaultResponse (vd : BitVec 8) (v : DWord) (s : State) : Result :=
  inService s <|
  let d := s.vdev vd
  let tag : Word := v.setWidth 32
  match d.faults.find? fun f => f.tag == tag with
  | none => .next s
  | some f =>
    (s.setVdev { d with faults := d.faults.filter fun x => x.tag != tag }).answerOwner f.owner tag f.va
      false (!v.getLsbD 32)

/-- PRI_RESPONSE (R277): the PRG Response to a page request. -/
def execPriResponse (tag : Nat) (ok : Bool) (s : State) : Result :=
  match (s.priReqs.take 1024).find? fun x => x.tag == tag with
  | none => .next s
  | some x =>
    (s.endPri fun y => y.tag == tag).answerOwner x.owner (BitVec.ofNat 32 tag)
      (x.vpn.setWidth 44 ++ (0 : BitVec 12)) true ok

end Sys2Proof.Machine
end

