-- ==== Sys2Proof/Machine/Partition.lean ====
section
/-!
DEFINITION. Partitions, their changes, and the roots of virtual devices (R305 to R310, R318).
The model's own choices here: DEDUCED, log 7; DESIGN CHOICE, log 34.
-/
namespace Sys2Proof.Machine

/-- The fused record of a die (R368). -/
def State.fuses (s : State) (die : BitVec 2) : Memory :=
  match s.defects.find? fun x => x.1 == die with
  | some x => x.2
  | none => []

/-- Whether a valid spare-map entry keeps the zero fields of its class (R368). -/
def spareGood (c : Nat) (w : Word) : Bool :=
  !w.getLsbD 31 ||
    ((w.extractLsb' 28 3) == 0 &&
     (match c with
      | 0 => true
      | 1 | 2 => w.extractLsb' 16 5 == 0
      | 3 => w.extractLsb' 21 3 == 0
      | _ => w.extractLsb' 21 7 == 0))

/-- Whether a die's record is good: its magic, its checksum, its spare entries (R368). -/
def fusesGood (m : Memory) : Bool :=
  let w (o : Nat) : Nat := natOfBytes (Memory.readN m o 4)
  w 0 == 0x50414D44 && w 0xFFC == (crc32c (Memory.readN m 0 0xFFC)).toNat &&
    (List.range 7).all fun c => (List.range 144).all fun i =>
      spareGood c (BitVec.ofNat 32 (w (0x20 + 576 * c + 4 * i)))

/-- Whether a cluster is disabled: the one its die's record names, or every one of a disabled die (R305,
R368). -/
def State.clusterOff (s : State) (hw : BitVec 6) : Bool :=
  let m := s.fuses (hw.extractLsb' 4 2)
  !fusesGood m || (Memory.read m 0x10).toNat == (hw.extractLsb' 0 4).toNat

/-- The L2B bitmap without disabled banks (R368). -/
def State.enabledBanks (s : State) (m : BitVec 128) : BitVec 128 :=
  let off (d : BitVec 2) : BitVec 128 := BitVec.ofNat 128
    (natOfBytes (Memory.readN (s.fuses d) 0x14 4) * 2 ^ (32 * d.toNat))
  m &&& ~~~(off 0 ||| off 1 ||| off 2 ||| off 3)

/-- The staged bitmaps, as a partition (R305, R307). -/
def State.staged (s : State) (n : BitVec 6) : Partition :=
  { num := n, clu := s.reg 0x40008, l2b := s.reg 0x40018 ++ s.reg 0x40010, chan := s.reg 0x40028,
    eng := (s.reg 0x40020).extractLsb' 32 32 }

/-- Whether all five staged words are zero (R307). -/
def State.nothingStaged (s : State) : Bool :=
  s.reg 0x40008 == 0 && s.reg 0x40010 == 0 && s.reg 0x40018 == 0 && s.reg 0x40020 == 0 &&
    s.reg 0x40028 == 0

/-- The virtual devices whose valid root names a partition (R307, R308). -/
def State.partVds (s : State) (n : BitVec 6) : List VirtDev :=
  s.vds.filter fun d => match d.root with
    | some r => r.part == n.toNat
    | none => false

/-- Whether two partitions share a resource (R305). -/
def Partition.overlaps (p q : Partition) : Bool :=
  p.clu &&& q.clu != 0 || p.l2b &&& q.l2b != 0 || p.chan &&& q.chan != 0 || p.eng &&& q.eng != 0

/-- Whether a partition owns a cluster, an L2 bank and a memory channel of a die (R306). -/
def Partition.holdsDie (p : Partition) (die : BitVec 2) : Bool :=
  (p.clu.extractLsb' (16 * die.toNat) 16) != 0 && (p.l2b.extractLsb' (32 * die.toNat) 32) != 0 &&
    (p.chan.extractLsb' (16 * die.toNat) 16) != 0

/-- Whether a partition owns no disabled cluster (R305). -/
def State.clustersGood (s : State) (p : Partition) : Bool :=
  (List.range 64).all fun n => !p.clu.getLsbD n || !s.clusterOff (BitVec.ofNat 6 n)

/-- ERR of a GO: 0 when it is accepted (R305 to R307). -/
def State.partError (s : State) (n : BitVec 6) : Nat :=
  let p := s.staged n
  let q := { p with l2b := s.enabledBanks p.l2b }
  if s.nothingStaged then (if (s.partVds n).isEmpty then 0 else 5)
  else if p.clu = 0 then 2
  else if s.parts.any fun x => x.num != n && x.overlaps q then 1
  else if !s.clustersGood p then 3
  else if (s.partVds n).any fun d => match d.root with
    | some r => (maskDies r.mask).any fun die => !q.holdsDie die
    | none => false then 4
  else 0

/-- The partition with a number; one that does not exist owns nothing. -/
def State.part (s : State) (n : BitVec 6) : Partition :=
  match s.parts.find? fun p => p.num == n with
  | some p => p
  | none => ⟨n, 0, 0, 0, 0⟩

/-- What a partition gives up when it becomes `w`. -/
def Partition.leaving (p : Partition) (w : Option Partition) : Partition :=
  match w with
  | some w => ⟨p.num, p.clu &&& ~~~w.clu, p.l2b &&& ~~~w.l2b, p.chan &&& ~~~w.chan, p.eng &&& ~~~w.eng⟩
  | none => p

/-- The blocks of a partition's virtual devices resident on clusters it gives up. -/
def State.leavers (s : State) (n : BitVec 6) (clu : DWord) : List Block :=
  let vds := (s.partVds n).map fun d => d.vd
  s.blocks.filter fun b => b.phase == .resident && vds.contains b.vd && clu.getLsbD (clusterOf b.core).toNat

/-- PARTCTL (R307, R318): a GO that passes the checks starts the change, with a stop request for every
block on a cluster that leaves; one that fails sets ERR; while BUSY a write is ignored. -/
def execPartctlGo (v : DWord) (s : State) : Result :=
  inService s <|
  let n : BitVec 6 := v.setWidth 6
  if !v.getLsbD 63 || s.partPend.isSome then .next s
  else
    let err := s.partError n
    let s := s.setReg 0x40000 (BitVec.ofNat 64 (err * 2 ^ 48))
    if err ≠ 0 then .next s
    else
      let p := s.staged n
      let want := if s.nothingStaged then none else some { p with l2b := s.enabledBanks p.l2b }
      let out := s.leavers n ((s.part n).leaving want).clu
      .next (out.foldl (fun (s : State) b => s.requestStop b) { s with partPend := some ⟨n, want⟩ })

/-- The lines of a partition in L2 banks that leave are written back to the LLC and leave their L2 (R306,
R318). -/
def State.flushBanks (s : State) (p : Partition) (l2b : BitVec 128) : State :=
  let vds := (s.partVds p.num).map fun d => d.vd
  { s with home := s.home.map fun (h : HomeLine) =>
      if vds.contains h.vd && h.inL2 && l2b.getLsbD (32 * h.die.toNat + (s.l2Set h.die h.key).1) then
        { h with inL2 := false } else h }

/-- Whether a copy of a block is under way with an endpoint in some space. -/
def Block.moving (b : Block) (space : BitVec 8 → Bool) : Bool :=
  b.chans.any fun c => c.queue.any fun x => x.state != .queued && (space x.dst.handle.space || space x.src.handle.space)

/-- Whether an operation of a partition's virtual devices is in flight on an engine that leaves: on a fabric
port; on a host DMA channel, a copy or a request in host space; on a CXL port, a copy in memory (R305, R318,
R375, R382). -/
def State.enginesBusy (s : State) (n : BitVec 6) (eng : BitVec 32) : Bool :=
  let ports := (List.range 16).filter fun k => eng.getLsbD k
  let vds := (s.partVds n).map fun d => d.vd
  let mine := s.blocks.filter fun b => vds.contains b.vd
  let host := eng.extractLsb' 20 12 != 0 && (mine.any (fun b => b.moving fun x => x == 8) ||
    s.reqs.any fun q => vds.contains q.vd && q.key.isHost)
  let cxl := eng.extractLsb' 16 4 != 0 && (mine.any (fun b => b.moving fun x => x == 0 || x == 6) ||
    s.threads.any fun t => vds.contains (s.qVd t.q) && !t.lane.isEmpty)
  let fabric := !ports.isEmpty && ((ports.any fun k => !(s.port (BitVec.ofNat 4 k)).sent.isEmpty || !(s.port (BitVec.ofNat 4 k)).queue.isEmpty) ||
    s.txns.any fun t => mine.any fun b => b.id == t.blk)
  host || cxl || fabric

/-- PARTITION_CHANGE_DONE (R318): once the blocks on leaving clusters are saved and the leaving engines are
quiet, the L2 banks are emptied, the bitmaps apply, BUSY clears, and the physical function has its event
record. -/
def execPartitionChangeDone (s : State) : Result :=
  match s.partPend with
  | none => .next s
  | some c =>
    let p := s.part c.part
    let gone := p.leaving c.want
    if !(s.leavers c.part gone.clu).isEmpty || s.enginesBusy c.part gone.eng then .next s
    else
      let s := s.flushBanks p gone.l2b
      let parts := match c.want with
        | some w => upsert (fun x => x.num == c.part) w s.parts
        | none => s.parts.filter fun x => x.num != c.part
      .next ({ s with parts := parts, partPend := none }.event 0 4 0xFFFF 0 [])

/-! ### Roots -/

/-- Whether a virtual device is idle (R309): no grid, no packet it has begun or could read. -/
def State.vdIdle (s : State) (vd : BitVec 8) : Bool :=
  (s.grids.all fun gr => gr.vd != vd) &&
    (s.threads.all fun t => s.qVd t.q != vd ||
      (t.running.isEmpty && t.lane.isEmpty && t.nextAt.isNone && t.pause.isNone && t.ending.isEmpty &&
        t.sigs.isEmpty)) &&
    ((List.range 1024).all fun n =>
      let q := BitVec.ofNat 10 n
      !(s.qVd q == vd && s.mayRead q && s.qdoor q != s.qdone q && !((s.thread q).overrun && s.aborted q)))

/-- Every line of an ASID is written back and invalidated at every level, and its walks go (R271, R309). -/
def State.flushVd (s : State) (vd : BitVec 8) : State :=
  let hit (k : LineKey) : Bool := k.inVd vd
  let s := ((s.landStores hit).dropLines hit true).recall hit
  { s with walks := s.walks.filter fun w => w.vd != vd }

/-- VDRCB (R308, R309). -/
def execVdrcbWrite (vd : BitVec 8) (v : DWord) (s : State) : Result :=
  inService s <|
  if !s.vdIdle vd then .next s
  else
    let v := v &&& 0xC000FFFFFFFFFF81
    let s := (s.flushVd vd).setReg (vdKey vd 0) v
    let root := if v.getLsbD 0 then
        some (s.readRoot (v.extractLsb' 62 2) ((v.extractLsb' 7 41).toNat * 128))
      else none
    .next (s.setVdev { s.vdev vd with root := root })

end Sys2Proof.Machine
end

