-- ==== Sys2Proof/Machine/Kenzu.lean ====
section
/-!
DEFINITION. The Kenzu debug port: stops, steps, breakpoints, shadow samples (R348 to R355, R357).
The model's own choices here: DESIGN CHOICE, log 35.
-/
namespace Sys2Proof.Machine

/-- The virtual device the window shows (R348). -/
def State.kzvd (s : State) : BitVec 8 := (s.reg 0x41000).setWidth 8

/-- The block WHERE names: the oldest of the virtual device's resident or saved blocks with those
coordinates (R177, R348, R349). -/
def State.kzBlock (s : State) (vd : BitVec 8) (wh : Nat) : Option Block :=
  let of' (ph : BlockPhase) : Option Block :=
    s.blocks.find? fun b => b.vd == vd && b.phase == ph && b.named wh
  match of' .resident with
  | some b => some b
  | none => of' .saved

/-- A group of a block. -/
def State.groupIn (s : State) (b : Block) (idx : Nat) : Option Group :=
  s.groups.find? fun g => g.blk == b.id && g.idx == idx

/-- The RW fields of a write to KZCTL (R349). -/
def State.storeKzctl (s : State) (v : DWord) : State :=
  s.setKz s.kzvd 0x008 (v &&& 0x1800000000003FFF)

/-- Whether a write to KZCTL sets bit `n` and no other of STOP, RUN and STEP (R349). -/
def onlyAction (v : DWord) (n : Nat) : Bool :=
  [63, 62, 61].all fun i => v.getLsbD i == (i == n)

/-- The paths of a group with the debugger's marks set: `named` on the path it names, nothing on the others
(R354). -/
def Group.stepping (g : Group) (slot : Option Bool) : Group :=
  let put (here : Bool) (p : Path) : Path :=
    if here then { p with step := .due, bpSkip := true } else { p with step := .none }
  { g with slot0 := g.slot0.map (put (slot == some false)), slot1 := g.slot1.map (put (slot == some true)),
           stack := g.stack.map (put false) }

/-- No path of a block is to step any more. -/
def State.endStep (s : State) (blk : Nat) : State :=
  { s with groups := s.groups.map fun (g : Group) => if g.blk == blk then g.stepping none else g }

/-- KZCTL_STOP (R349, R351, R354): a stop of the named block is requested, or its pending step
abandoned. -/
def execKzctlStop (v : DWord) (s : State) : Result :=
  inService s <|
  if !onlyAction v 63 then .next s
  else
    let s := s.storeKzctl v
    match s.kzBlock s.kzvd (v.toNat % 2 ^ 13) with
    | none => .next s
    | some b => .next ((s.setBlock { b.requestStop none with stepReq := none }).endStep b.id)

/-- KZCTL_RUN (R349, R351): a stopped block's paths go on. -/
def execKzctlRun (v : DWord) (s : State) : Result :=
  inService s <|
  if !onlyAction v 62 then .next s
  else
    let s := s.storeKzctl v
    match s.kzBlock s.kzvd (v.toNat % 2 ^ 13) with
    | none => .next s
    | some b =>
      if b.dbg then
        .next (((s.setBlock { b with dbg := false, dbgWhy := none, stepReq := none }).endStep b.id).retestAll
          (clusterOf b.core))
      else .next s

/-- KZCTL_STEP (R349, R354): the named path of a stopped block may retire one instruction. -/
def execKzctlStep (v : DWord) (s : State) : Result :=
  inService s <|
  if !onlyAction v 61 then .next s
  else
    let s := s.storeKzctl v
    let slot := v.getLsbD 13
    match s.kzBlock s.kzvd (v.toNat % 2 ^ 13) with
    | none => .next s
    | some b =>
      match (s.groupIn b (v.toNat % 16)) with
      | none => .next s
      | some g =>
        match g.path slot with
        | none => .next s
        | some p =>
          if b.dbg && b.stepReq.isNone then
            let s := s.setGroup (g.stepping (some slot))
            .next ((s.setBlock { b with stepReq := some (⟨g.id, slot⟩, p.handler.isSome) }).retestAll
              (clusterOf b.core))
          else .next s

/-- KZCTL_QUI (R349, R355): a write that sets none of STOP, RUN and STEP holds or releases the selected
virtual device's operations and packets, and sets the other fields. -/
def execKzctlQui (v : DWord) (s : State) : Result :=
  inService s <|
  if !onlyAction v 64 then .next s else .next (s.storeKzctl v)

/-- The path a stop record describes: the one that stopped the block, or the one KZCTL names (R349,
R357; log 35, DESIGN CHOICE). -/
def State.stopPath (s : State) (b : Block) : PathRef :=
  match b.dbgWhy with
  | some x => x.1
  | none =>
    let k := s.kz b.vd 0x008
    match s.groupIn b (k.toNat % 16) with
    | some g => ⟨g.id, k.getLsbD 13⟩
    | none => ⟨0, false⟩

/-- The path of a step: the one that still has to retire an instruction, or has retired it, wherever its group
holds it now (R354). -/
def Group.stepPath (g : Group) : Option Path := g.paths.find? fun p => p.step != .none

/-- Bit 16 s + g of a stop record's data: group g has arrived at block slot s (R357). -/
def arrivedBits (gs : List Group) : Nat :=
  gs.foldl (fun n g =>
    (g.bars.filter fun x => x.level == .blk && x.state == .arrived).foldl (fun n x =>
      n + 2 ^ (16 * x.slot + g.idx)) n) 0

/-- A stop or step record of a path of a group (R357). -/
def State.debugRecord (s : State) (b : Block) (ty : BitVec 8) (g : Option Group) (p : Option Path) (cause : BitVec 8)
    (data : List Byte) : TraceRec :=
  { ty := ty, phase := b.phaseSum,
    wh := whereOf b (match g with
      | some g => g.idx
      | none => 0),
    time := s.timebase,
    pc := match p with
      | some p => p.pc.setWidth 64
      | none => 0,
    value := cause.setWidth 32,
    mask := match p with
      | some p => p.mask
      | none => 0,
    data := data }

/-- KZDUMP0 to KZDUMP7 take a record's 64 bytes (R351). -/
def State.dump (s : State) (vd : BitVec 8) (bs : List Byte) : State :=
  (List.range 8).foldl (fun s i =>
    s.setKz vd (0x40 + 8 * i) (BitVec.ofNat 64 (natOfBytes ((bs.drop (8 * i)).take 8)))) s

/-- Whether a step is over: its path is gone, or has retired an instruction, or has taken a trap (R354). -/
def State.stepOver (s : State) (r : PathRef) : Bool :=
  (s.group? r.grp).all fun g => g.paths.all fun p => p.step != .due

/-- The cause a step record carries: the trap its instruction took, else single step (R354, R357). -/
def Group.stepCause (g : Group) (inHandler : Bool) : BitVec 8 :=
  match g.stepPath with
  | none => 0x72
  | some p => if p.handler.isSome && !inHandler then g.trap.cause else 0x72

/-- The record of a step that is over (R357). -/
def State.stepRecord (s : State) (b : Block) (r : PathRef) (inHandler : Bool) : TraceRec :=
  let g := s.group? r.grp
  s.debugRecord b 6 g (g.bind Group.stepPath) ((g.map fun g => g.stepCause inHandler).getD 0x72) []

/-- BLOCK_DEBUG_STOPPED (R351, R354, R357): every path of a resident block that was asked to stop has
halted, or the stepped path has retired its instruction. -/
def execBlockDebugStopped (blk : Nat) (s : State) : Result :=
  match s.block? blk with
  | none => .next s
  | some b =>
    if b.phase != .resident || (s.tracing b.vd && s.traceBusy b.vd) then .next s
    else if b.dbgReq && !b.dbg then
      let gs := s.groups.filter fun g => g.blk == blk
      let cause := match b.dbgWhy with
        | some x => x.2
        | none => 0
      let r := s.stopPath b
      let g := s.group? r.grp
      let rec' := s.debugRecord b 5 g (g.bind fun g => g.path r.slot) cause (bytesOfNat 32 (arrivedBits gs))
      let s := s.setBlock { b with dbg := true, dbgReq := false }
      let s := if s.tracing b.vd then s.trace (dieOf b.core) b.vd [rec'] else s
      .next (s.dump b.vd rec'.bytes)
    else
      match b.stepReq with
      | none => .next s
      | some (r, h) =>
        if s.stepOver r then
          let rec' := s.stepRecord b r h
          let s := (s.setBlock { b with stepReq := none }).endStep blk
          .next (if s.tracing b.vd then s.trace (dieOf b.core) b.vd [rec'] else s)
        else .next s

/-- BREAKPOINT_STOP (R353): the path's oldest instruction lies at a breakpoint; its block stops before
it. -/
def execBreakpointStop (r : PathRef) (s : State) : Result :=
  match fetch s r with
  | .run s' (.breakpointStop _) =>
    match s'.group? r.grp with
    | none => .next s
    | some g =>
      match g.path r.slot, s'.block? g.blk with
      | some p, some b =>
        let s' := s'.setGroup (g.setPath r.slot (some { p with bpSkip := true }))
        .next (s'.setBlock (b.requestStop (some (r, 0))))
      | _, _ => .next s
  | _ => .next s

/-! ### Shadow samples -/

/-- The path whose special registers a sample shows: the slot-0 path, or the slot-1 path. -/
def Group.samplePath (g : Group) : Option (Bool × Path) :=
  match g.slot0, g.slot1 with
  | some p, _ => some (false, p)
  | none, some p => some (true, p)
  | none, none => none

/-- Where a group's area of a save slot holds what a sample asks for, as offset and bytes; none for a register
that is not written there (R100, R316). -/
def Group.samplePlace (g : Group) (cls idx lane : Nat) : Option (Nat × Nat) :=
  let live (f : LiveNote → Bool) : Bool := g.note.all f
  match cls with
  | 0 =>
    let other := bitAt (g.held true) lane
    if idx < g.regn && live (fun n => n.vlive.getLsbD idx) && (!other || g.saveKind == 2) then
      some ((if other then 0x7800 else 0x5800) + 128 * idx + 4 * lane, 4) else none
  | 1 => if 1 ≤ idx && idx < 63 && live (fun n => n.slive.getLsbD idx) then some (0x108 + 8 * idx, 8) else none
  | 2 => if 1 ≤ idx && idx < 8 && live (fun n => n.plive.getLsbD idx) then some (0x2FC + 4 * idx, 4) else none
  | 4 =>
    if 0x020 ≤ idx && idx < 0x030 then some (112 + 4 * (idx - 0x020), 4)
    else match idx with
      | 0x000 => some (68, 4)
      | 0x030 => some (67, 1)
      | 0x031 => some (80, 8)
      | 0x032 => some (88, 8)
      | 0x033 => some (96, 4)
      | 0x034 => some (100, 4)
      | 0x035 => some (104, 8)
      | _ => none
  | _ => none

/-- Bytes of the area of a group in its block's save slot, while the block is saved and the slot can be read
(R316, R350; log 35, DESIGN CHOICE). -/
def State.savedValue (s : State) (b : Block) (g : Group) (x : Nat × Nat) : Option DWord :=
  if b.phase != .saved then none
  else (s.slotVa b).bind fun va =>
    (s.deviceRead b.vd (va + 0x1000 + 0x10000 * g.idx + x.1) x.2).map fun r => BitVec.ofNat 64 (natOfBytes r.1)

/-- A value the state holds, or what the save slot of a block that is not resident holds in its place; a register
that reads zero by R96 is zero (R350). -/
def State.sampled (s : State) (b : Block) (g : Group) (cls idx lane : Nat) (v : DWord) : DWord × DWord :=
  let zero := cls == 0 && bitAt (mapEntry (g.map (bitAt (g.held true) lane)) idx).zero lane
  let v := if zero then 0 else ((g.samplePlace cls idx lane).bind (s.savedValue b g)).getD v
  (v, v)

/-- What a sample reads: the value, and what a second read of KZSHVAL then answers (R350). -/
def State.sample (s : State) (b : Block) (g : Group) (cls idx lane : Nat) : DWord × DWord :=
  match cls with
  | 0 =>
    if idx < g.regn then
      s.sampled b g 0 idx lane ((g.vlane (bitAt (g.held true) lane) idx lane).setWidth 64)
    else (0, 0)
  | 1 => if idx < 64 then s.sampled b g 1 idx lane (g.sreg (BitVec.ofNat 6 idx)) else (0, 0)
  | 2 => if idx < 8 then s.sampled b g 2 idx lane ((g.pred (BitVec.ofNat 6 idx)).setWidth 64) else (0, 0)
  | 3 =>
    match if idx < 2 then g.path (idx == 1) else none with
    | some p => ((s.savedValue b g (32 * idx, 8)).getD (p.pc.setWidth 64),
        (s.savedValue b g (32 * idx + 16, 4)).getD (p.mask.setWidth 64) <<< 32)
    | none => (0, 0)
  | 4 =>
    match g.samplePath with
    | some (slot, p) =>
      if specialKnown idx || (0x100 ≤ idx && idx ≤ 0x1FF && s.mfg) then
        s.sampled b g 4 idx lane (specialValue s b ⟨⟨g.id, slot⟩, p.pc, false⟩ g p idx)
      else (0, 0)
    | none => (0, 0)
  | _ => (0, 0)

/-- KZSHSEL_WRITE (R350): KZSHVAL takes a value of a group; what a second read answers is kept beside it. -/
def execKzshselWrite (v : DWord) (s : State) : Result :=
  inService s <|
  let vd := s.kzvd
  let f (lo n : Nat) : Nat := v.toNat / 2 ^ lo % 2 ^ n
  let x : DWord × DWord := match s.kzBlock vd (f 0 13) with
    | none => (0, 0)
    | some b =>
      match s.groupIn b (f 0 4) with
      | none => (0, 0)
      | some g => s.sample b g (f 14 4) (f 18 12) (f 30 5)
  let s := s.setKz vd 0x010 (v &&& 0x00000007FFFFDFFF)
  .next ((s.setKz vd 0x018 x.1).setKz vd 0x020 x.2)

end Sys2Proof.Machine
end

