-- ==== Sys2Proof/Machine/Lane.lean ====
section
/-!
DEFINITION. Lane permutations, reductions, scans and votes (R53, R141 to R144).
-/
namespace Sys2Proof.Machine

/-- Lane `j` of v`r` as the path sees it: zero unless `j` is in its mask (R141). -/
def visible (g : Group) (slot : Bool) (m : Word) (r j : Nat) : Word :=
  if bitAt m j then g.vlane slot r j else 0

/-- A permutation: lane `l` of d takes lane `src b l` of a, read under R141 (R142). -/
def permute (vv : Bool) (o : ROps) (src : Word → Nat → Nat) (s : State) : Result :=
  guarded s o.g (vNames vv o) fun c g p e =>
    commit s c g p e
      (vWrite o.d (lanesOf fun l =>
          visible g c.p.slot p.mask o.a.toNat (src (laneB vv g c.p.slot o.b l) l)) 0
        (marksR o .v (bKind vv) .none))

/-- XSHF (R142). -/
def execXshf (o : ROps) (s : State) : Result :=
  permute true o (fun b _ => b.toNat % 32) s

/-- XBRD (R142). -/
def execXbrd (o : ROps) (s : State) : Result :=
  permute false o (fun b _ => b.toNat % 32) s

/-- XXOR (R142). -/
def execXxor (o : ROps) (s : State) : Result :=
  permute false o (fun b l => Nat.xor l (b.toNat % 32)) s

/-- XUP (R142). -/
def execXup (o : ROps) (s : State) : Result :=
  permute false o (fun b l => let n := min b.toNat 32; if n ≤ l then l - n else l) s

/-- XDN (R142). -/
def execXdn (o : ROps) (s : State) : Result :=
  permute false o (fun b l => let n := min b.toNat 32; if l + n ≤ 31 then l + n else l) s

/-- One step of a reduction, with its flags; FP32 sums round with RNE (R143). -/
def redStep (op : RedOp) (a b : Word) : Word × Word :=
  match op with
  | .iadd => (a + b, 0)
  | .imin => (if a.slt b then a else b, 0)
  | .imax => (if a.slt b then b else a, 0)
  | .umin => (if a.ult b then a else b, 0)
  | .umax => (if a.ult b then b else a, 0)
  | .and => (a &&& b, 0)
  | .or => (a ||| b, 0)
  | .xor => (a ^^^ b, 0)
  | .fadd => fadd32 none a b
  | .fmin => fmin32 none a b
  | .fmax => fmax32 none a b

/-- The identity of a reduction (R143). -/
def redIdentity : RedOp → Word
  | .iadd => 0
  | .imin => 0x7FFFFFFF
  | .imax => 0x80000000
  | .umin => 0xFFFFFFFF
  | .umax => 0
  | .and => 0xFFFFFFFF
  | .or => 0
  | .xor => 0
  | .fadd => 0x80000000
  | .fmin => 0x7F800000
  | .fmax => 0xFF800000

/-- An operand of the reduction tree that may be absent (R143). -/
def combine (op : RedOp) (x y : Option Word) : Option Word × Word :=
  match x, y with
  | some a, some b => let r := redStep op a b; (some r.1, r.2)
  | some a, none => (some a, 0)
  | none, b => (b, 0)

/-- One level of the tree: neighbours combine (R143). -/
def combinePairs (op : RedOp) : List (Option Word) → List (Option Word) × Word
  | x :: y :: t =>
    let r := combine op x y
    let q := combinePairs op t
    (r.1 :: q.1, r.2 ||| q.2)
  | t => (t, 0)

/-- The tree of XRED over the lanes that are present: five levels of neighbours (R143). -/
def treeReduce (op : RedOp) : Nat → List (Option Word) → Option Word × Word
  | 0, t => (t.headD none, 0)
  | n + 1, t =>
    let r := combinePairs op t
    let q := treeReduce op n r.1
    (q.1, r.2 ||| q.2)

/-- XRED (R143). -/
def execXred (op : RedOp) (o : ROps) (s : State) : Result :=
  guarded s o.g [o.d.toNat, o.a.toNat] fun c g p e =>
    let t := treeReduce op 5 ((List.range 32).map fun l =>
      if bitAt e l then some (g.vlane c.p.slot o.a.toNat l) else none)
    commit s c g p e
      (vWrite o.d (lanesOf fun _ => t.1.getD 0) t.2 (marksR o .v .none .none))

/-- XSCAN's prefixes in ascending lane order: each lane's value, and the flags (R143). -/
def scanLanes (op : RedOp) (ex : Bool) (v : Nat → Word) :
    List Nat → Option Word → List (Nat × Word) × Word
  | [], _ => ([], 0)
  | l :: t, acc =>
    let r := combine op acc (some (v l))
    let q := scanLanes op ex v t r.1
    let y := if ex then acc.getD (redIdentity op) else r.1.getD 0
    ((l, y) :: q.1, r.2 ||| q.2)

/-- XSCAN (R143). -/
def execXscan (op : RedOp) (ex : Bool) (o : ROps) (s : State) : Result :=
  guarded s o.g [o.d.toNat, o.a.toNat] fun c g p e =>
    let t := scanLanes op ex (g.vlane c.p.slot o.a.toNat) (lanesIn e) none
    commit s c g p e
      (vWrite o.d (lanesOf fun l => match t.1.find? fun x => x.1 == l with
          | some x => x.2
          | none => 0) t.2 (marksR o .v .none .none))

/-- XVOTE (R144). -/
def execXvote (vt : Vote) (o : ROps) (s : State) : Result :=
  groupLevel s o.g [] fun c g p e =>
    let x := g.pred o.a &&& e
    let one (b : Bool) : DWord := if b then 1 else 0
    let v : DWord := match vt with
      | .ballot => x.setWidth 64
      | .any => one (x != 0)
      | .all => one (x == e)
      | .uni => one (x == 0 || x == e)
    commit s c g p e (sWrite o.d v 0 [])

end Sys2Proof.Machine
end

