-- ==== Sys2Proof/Machine/Keccak.lean ====
section
/-!
DEFINITION. SHAKE256 and the verification of an Ed448 signature, which R369 and R371 name.
The functions themselves stand outside the manual, in FIPS 202 and RFC 8032: PRESUMED, log 47.
The model's own choices here: PRESUMED, log 47.
-/
namespace Sys2Proof.Machine

/-! ### SHAKE256 -/

/-- Keccak's state: 25 lanes, lane (x, y) at 5 y + x (log 47, PRESUMED). -/
abbrev Sponge := List DWord

/-- A lane of the state; its coordinates are taken modulo 5. -/
def spongeLane (a : Sponge) (x y : Nat) : DWord := a.getD (5 * (y % 5) + x % 5) 0

/-- A state from its lanes. -/
def spongeOf (f : Nat → Nat → DWord) : Sponge := (List.range 25).map fun i => f (i % 5) (i / 5)

/-- The step theta. -/
def theta (a : Sponge) : Sponge :=
  let c := (List.range 5).map fun x => (List.range 5).foldl (fun v y => v ^^^ spongeLane a x y) (0 : DWord)
  spongeOf fun x y => spongeLane a x y ^^^ c.getD ((x + 4) % 5) 0 ^^^ (c.getD ((x + 1) % 5) 0).rotateLeft 1

/-- The rotation of each lane in the step rho. -/
def rhoOffsets : List Nat :=
  [0, 1, 62, 28, 27, 36, 44, 6, 55, 20, 3, 10, 43, 25, 39, 41, 45, 15, 21, 8, 18, 2, 61, 56, 14]

/-- The steps rho and pi. -/
def rhoPi (a : Sponge) : Sponge :=
  spongeOf fun x y =>
    let x' := (x + 3 * y) % 5
    (spongeLane a x' x).rotateLeft (rhoOffsets.getD (5 * x + x') 0)

/-- The steps chi and iota. -/
def chiIota (a : Sponge) (rc : DWord) : Sponge :=
  spongeOf fun x y =>
    spongeLane a x y ^^^ (~~~spongeLane a (x + 1) y &&& spongeLane a (x + 2) y) ^^^ (if x = 0 ∧ y = 0 then rc else 0)

/-- The constants of the step iota, one for each round. -/
def roundConstants : List DWord :=
  [0x0000000000000001, 0x0000000000008082, 0x800000000000808A, 0x8000000080008000,
   0x000000000000808B, 0x0000000080000001, 0x8000000080008081, 0x8000000000008009,
   0x000000000000008A, 0x0000000000000088, 0x0000000080008009, 0x000000008000000A,
   0x000000008000808B, 0x800000000000008B, 0x8000000000008089, 0x8000000000008003,
   0x8000000000008002, 0x8000000000000080, 0x000000000000800A, 0x800000008000000A,
   0x8000000080008081, 0x8000000000008080, 0x0000000080000001, 0x8000000080008008]

/-- Keccak-f[1600]. -/
def keccak (a : Sponge) : Sponge := roundConstants.foldl (fun a rc => chiIota (rhoPi (theta a)) rc) a

/-- A block of 136 bytes is taken in. -/
def absorb (a : Sponge) (block : List Byte) : Sponge :=
  keccak ((List.range 25).map fun i =>
    a.getD i 0 ^^^ BitVec.ofNat 64 (if i < 17 then natOfBytes ((block.drop (8 * i)).take 8) else 0))

/-- A message with SHAKE256's padding. -/
def shakePad (bs : List Byte) : List Byte :=
  let m := bs ++ [0x1F]
  let m := m ++ List.replicate ((136 - m.length % 136) % 136) 0
  m.dropLast ++ [m.getLastD 0 ^^^ 0x80]

/-- The first `n` bytes of SHAKE256 of a message, `n` at most 136 (R369, R371). -/
def shake256 (n : Nat) (bs : List Byte) : List Byte :=
  let m := shakePad bs
  let a := (List.range (m.length / 136)).foldl (fun a i => absorb a ((m.drop (136 * i)).take 136))
    (List.replicate 25 0)
  (a.flatMap fun v => bytesOfNat 8 v.toNat).take n

/-! ### Ed448 -/

/-- The prime of Ed448's field (log 47, PRESUMED). -/
def edP : Nat := 2 ^ 448 - 2 ^ 224 - 1

/-- The order of Ed448's base point. -/
def edL : Nat := 2 ^ 446 - 13818066809895115352007386748515426880336692474882178609894547503885

/-- The curve's coefficient, -39081. -/
def edD : Nat := edP - 39081

/-- A difference in the field. -/
def edSub (a b : Nat) : Nat := (a + (edP - b % edP)) % edP

/-- A power in the field; `n` bounds the exponent's bits. -/
def edPow (a e : Nat) : Nat → Nat
  | 0 => 1
  | n + 1 =>
    let h := edPow a (e / 2) n
    if e % 2 = 1 then h * h % edP * a % edP else h * h % edP

/-- A point of the curve in projective coordinates. -/
structure EdPoint where
  x : Nat
  y : Nat
  z : Nat
  deriving DecidableEq, Repr

/-- The base point. -/
def edBase : EdPoint :=
  ⟨224580040295924300187604334099896036246789641632564134246125461686950415467406032909029192869357953282578032075146446173674602635247710,
   298819210078481492676017930443930673437544040154080242095928241372331506189835876003536878655418784733982303233503462500531545062832660,
   1⟩

/-- The sum of two points. -/
def edAdd (p q : EdPoint) : EdPoint :=
  let a := p.z * q.z % edP
  let b := a * a % edP
  let c := p.x * q.x % edP
  let d := p.y * q.y % edP
  let e := edD * c % edP * d % edP
  let f := edSub b e
  let g := (b + e) % edP
  let h := (p.x + p.y) * (q.x + q.y) % edP
  ⟨a * f % edP * edSub h (c + d) % edP, a * g % edP * edSub d c % edP, f * g % edP⟩

/-- A multiple of a point; `n` bounds the factor's bits. -/
def edMul (p : EdPoint) (k : Nat) : Nat → EdPoint
  | 0 => ⟨0, 1, 1⟩
  | n + 1 =>
    let h := edMul p (k / 2) n
    let h := edAdd h h
    if k % 2 = 1 then edAdd h p else h

/-- Whether two points are one. -/
def edSame (p q : EdPoint) : Bool :=
  p.x * q.z % edP == q.x * p.z % edP && p.y * q.z % edP == q.y * p.z % edP

/-- A point from its 57 bytes. -/
def edPoint (bs : List Byte) : Option EdPoint :=
  let n := natOfBytes bs
  let y := n % 2 ^ 455
  let sign := n / 2 ^ 455 % 2
  let u := edSub (y * y % edP) 1
  let v := edSub (edD * (y * y % edP) % edP) 1
  let u3v := u * u % edP * u % edP * v % edP
  let x := u3v * edPow (u3v * (u * u % edP) % edP * (v * v % edP) % edP) ((edP - 3) / 4) 448 % edP
  if edP ≤ y || v * (x * x % edP) % edP != u || (x = 0 && sign = 1) then none
  else some ⟨if x % 2 = sign then x else edP - x, y, 1⟩

/-- Whether 114 bytes are an Ed448 signature of a message under a key of 57 bytes (R369; log 47, PRESUMED). -/
def ed448Good (key msg sig : List Byte) : Bool :=
  let r := sig.take 57
  let n := natOfBytes (sig.drop 57)
  -- the prefix "SigEd448", no prehash, no context
  let dom : List Byte := [0x53, 0x69, 0x67, 0x45, 0x64, 0x34, 0x34, 0x38, 0, 0]
  match edPoint key, edPoint r with
  | some a, some p =>
    let k := natOfBytes (shake256 114 (dom ++ r ++ key ++ msg)) % edL
    sig.length == 114 && n < edL &&
      edSame (edMul (edMul edBase n 448) 4 3) (edMul (edAdd p (edMul a k 448)) 4 3)
  | _, _ => false

end Sys2Proof.Machine
end

