-- ==== Sys2Proof/Machine/Power.lean ====
section
/-!
DEFINITION. Power, idle states, tests, margins, firmware, attestation, resets (R2, R13, R266, R360 to
R373).
The model's own choices here: DESIGN CHOICE, logs 4, 30, 37; PRESUMED, log 47.
-/
namespace Sys2Proof.Machine

/-! ### Clocks -/

/-- The highest arithmetic clock of a die, in 25 MHz units (R368). -/
def State.topClock (s : State) (die : BitVec 2) : BitVec 8 := Memory.read (s.fuses die) 0x11

/-- What the steps up to a value have added. -/
def risen (f : Nat → Nat) (n : Nat) : Nat := ((List.range (n + 1)).map f).sum

/-- THERM of a die: what its sensors read is the hardware's, free values that a lower clock makes no higher and a lower
temperature no lower (R360, R361; log 4, DESIGN CHOICE). -/
def State.sense (s : State) (die : BitVec 2) : State :=
  let temp := min 255 (risen (Config.warmth s.free) (s.clocks.getD die.toNat 0).toNat)
  let head := 100 - min 100 (risen (Config.headLoss s.free) temp)
  { s.setReg (dieKey die 0x20) (BitVec.ofNat 64 (256 * head + temp)) with free := s.free + 1 }

/-- The package power limit in force, in W (R16, R361). -/
def State.powerLimit (s : State) : Nat := max 1200 (min 2400 ((s.reg (dieKey 0 0x40)).toNat % 2 ^ 12))

/-- Clocks lowered together, 25 MHz at a time, until the package's power over the window, which is the hardware's,
a free value, is at or below the limit; `n` bounds the steps (R361; log 30, DESIGN CHOICE). -/
def fitClocks (limit window : Nat) : Nat → List (BitVec 8) → List (BitVec 8)
  | 0, cs => cs
  | n + 1, cs =>
    if Config.windowPower window cs ≤ limit then cs
    else fitClocks limit window n (cs.map fun c => if c.toNat ≤ 1 then c else c - 1)

/-- POWER_WINDOW (R13, R16, R360, R361): each die's clock is set, at or below its highest and as far below as the
power limit needs, and its sensors are read; no result and no order changes. -/
def execPowerWindow (clk : List (BitVec 8)) (s : State) : Result :=
  let ok := clk.length = 4 && (List.range 4).all fun i =>
    let c := clk.getD i 0
    c != 0 && c.toNat ≤ (s.topClock (BitVec.ofNat 2 i)).toNat
  if ok then
    .next ([(0 : BitVec 2), 1, 2, 3].foldl (fun (s : State) d => s.sense d)
      { s with clocks := fitClocks s.powerLimit s.free 255 clk, free := s.free + 1 })
  else .next s

/-! ### Idle states -/

/-- Whether a queue's thread is blocked or has nothing to do (R362). -/
def State.threadIdle (s : State) (q : BitVec 10) : Bool :=
  (s.reg (queueKey q 0x30)).getLsbD 62 || !s.mayRead q || s.qdoor q == s.qdone q

/-- Whether the package is idle (R362). -/
def State.idle (s : State) : Bool :=
  (s.blocks.all fun b => b.phase != .resident) &&
    (s.threads.all fun t => t.lane.isEmpty && t.sigs.isEmpty) && s.txns.isEmpty &&
    ((List.range 1024).all fun n => s.threadIdle (BitVec.ofNat 10 n)) &&
    s.priReqs.isEmpty && (s.ports.all fun p => p.sent.isEmpty && p.queue.isEmpty) && s.flight.isEmpty && s.reqs.isEmpty &&
    s.resps.all fun x => x.there

/-- Whether the deadline of some thread's WAIT has come, which wakes the package (R328, R362). -/
def State.waitDue (s : State) : Bool :=
  !s.clkFault && s.threads.any fun t =>
    match t.held, t.nextAt with
    | some bs, some since =>
      fieldOf bs 0 1 == 4 && fieldOf bs 8 8 != 0 && since + fieldOf bs 8 8 ≤ s.timebase.toNat
    | _, _ => false

/-- The deepest state the host's tolerance admits (R362). -/
def idleState (ltol : Nat) : PowerState :=
  if 900 ≤ ltol then .deep else if 40 ≤ ltol then .retention else if 2 ≤ ltol then .gated else .active

/-- LTOL (R362). -/
def State.ltol (s : State) : Nat := (s.reg (dieKey 0 0x28)).toNat % 2 ^ 32

/-- What deep loses: every cached line, the dirty ones written back first (R362). -/
def State.loseCaches (s : State) : State :=
  s.dropLines (fun _ => true) true

/-- IDLE_ENTRY (R362): the package becomes idle; 10 µs later it enters the deepest state within the host's
tolerance. -/
def execIdleEntry (s : State) : Result :=
  if !s.idle || s.power != .active then .next { s with idleAt := none }
  else
    match s.idleAt with
    | none => .next { s with idleAt := some s.timebase.toNat }
    | some t =>
      let p := idleState s.ltol
      if s.timebase.toNat < t + 10000 || p == .active then .next s
      else
        let s := if p == .deep then s.loseCaches else s
        .next { s with power := p }

/-- IDLE_WAKE (R362): the wake an event has begun is complete. -/
def execIdleWake (s : State) : Result := .next { s with power := .active, idleAt := none }

/-! ### Built-in self-test and margins -/

/-- The core a BISTCTL value names on a die (R365). -/
def bistCore (die : BitVec 2) (v : DWord) : BitVec 9 := die ++ v.extractLsb' 8 4 ++ v.extractLsb' 5 3

/-- Whether a BISTCTL GO is refused: a resident block on its target, the fused-off cluster, no such class
(R365). -/
def State.bistRefused (s : State) (die : BitVec 2) (v : DWord) : Bool :=
  let core := bistCore die v
  let cls := v.toNat % 16
  3 < cls || s.clusterOff (clusterOf core) ||
    s.blocks.any fun b => b.phase == .resident &&
      (if cls = 3 then clusterOf b.core == clusterOf core else b.core == core)

/-- Whether a die's test runs (R365). -/
def State.bistBusy (s : State) (die : BitVec 2) : Bool := s.bist.any fun x => x.1 == die

/-- BISTCTL (R365): a GO starts the test, is refused, or while BUSY is ignored; without GO the fields are
written. -/
def execBistctlGo (die : BitVec 2) (v : DWord) (s : State) : Result :=
  waking <|
  let key := dieKey die 0x30
  let f := v &&& 0xFEF
  if !v.getLsbD 63 then .next (s.setReg key ((s.reg key &&& 0x4000000000000000) ||| f))
  else if s.bistBusy die then .next s
  else
    if s.bistRefused die v then .next (s.setReg key (f ||| 0x4000000000000000))
    else .next { s.setReg key f with bist := s.bist ++ [(die, v.toNat % 4096)] }

/-- BIST_COMPLETE (R364, R365): BISTRES has what the cells gave, a free value; a tested L1 holds no line. -/
def execBistComplete (die : BitVec 2) (s : State) : Result :=
  match s.bist.find? fun x => x.1 == die with
  | none => .next s
  | some x =>
    let core := bistCore die (BitVec.ofNat 64 x.2)
    let s := if x.2 % 16 = 1 then s.clearL1 core else s
    .next { s.setReg (dieKey die 0x38) (marchResult (Config.railWord s.free (s.rails die))) with
      free := s.free + 1, bist := s.bist.filter fun y => y.1 != die }

/-- Whether the lane a LMARGCTL value names is out of service (R367). -/
def State.laneFree (s : State) (die : BitVec 2) (v : DWord) : Bool :=
  match (v.extractLsb' 48 8).toNat with
  | 0 | 1 => s.mfg
  | 6 => s.cxlBytes.getD die.toNat 0 = 0
  | n =>
    if 2 ≤ n && n ≤ 5 then
      match (s.port (die ++ BitVec.ofNat 2 (n - 2))).state with
      | .down | .failed => true
      | .training | .up => false
    else false

/-- LMARGCTL (R367): a GO on a lane in service sets ERR; without GO the fields are written. Of a GO while BUSY the
rule says nothing: it is ignored (log 30, DESIGN CHOICE). -/
def execLmargctlGo (die : BitVec 2) (v : DWord) (s : State) : Result :=
  waking <|
  let key := dieKey die 0x340
  let f := v &&& 0x00FFFF00FFFFFFFF
  if !v.getLsbD 63 then .next (s.setReg key ((s.reg key &&& 0x4000000000000000) ||| f))
  else if s.margin.any fun x => x.1 == die then .next s
  else
    if !s.laneFree die v then .next (s.setReg key (s.reg key ||| 0x4000000000000000))
    else .next { s.setReg key f with margin := s.margin ++ [(die, s.timebase.toNat + 2 ^ 20)] }

/-- LMARG_SCAN_COMPLETE (R367): after 2^20 ticks LMARGRES has the errors the lane made, a free value. -/
def execLmargScanComplete (die : BitVec 2) (s : State) : Result :=
  match s.margin.find? fun x => x.1 == die with
  | none => .next s
  | some x =>
    if s.timebase.toNat < x.2 then .next s
    else
      let w : Word := (Config.railWord s.free (s.rails die)).setWidth 32
      .next { s.setReg (dieKey die 0x348) (w.setWidth 64) with
        free := s.free + 1, margin := s.margin.filter fun y => y.1 != die }

/-! ### Firmware -/

/-- The bytes of the staging window (R370). -/
def stagingBytes : Nat := 0x4000000

/-- A firmware image that passes the checks of R369: its magic, its key against the fused digest, its signature of the
body's hash, its svn; none otherwise. -/
def checkImage (bs digest : List Byte) (fused : BitVec 32) : Option Image :=
  let part (o n : Nat) : List Byte := (bs.drop o).take n
  let len := natOfBytes (part 8 8)
  let svn : BitVec 32 := BitVec.ofNat 32 (natOfBytes (part 4 4))
  let body := part 0x100 len
  if natOfBytes (part 0 4) == 0x57464B59 && len + 0x100 ≤ bs.length && fused.toNat ≤ svn.toNat &&
      shake256 32 (part 0x10 57) == digest && ed448Good (part 0x10 57) (shake256 64 body) (part 0x49 114) then
    some ⟨svn, body⟩
  else none

/-- RECGO (R370): outside recovery ignored; a GO starts the check, or while it runs is ignored; without GO the
field is written. -/
def execRecgo (v : DWord) (s : State) : Result :=
  waking <|
  let old := s.reg 0x40500
  if !s.recovery || (old.getLsbD 63 && v.getLsbD 63) then .next s
  else .next (s.setReg 0x40500 ((old &&& 0xC000000000000001) ||| (v &&& 0x8000000000000002)))

/-- RECGO_CHECK_COMPLETE (R369, R370): a good image starts, and may raise the fused counter; another is
rejected. -/
def execRecgoCheckComplete (s : State) : Result :=
  let v := s.reg 0x40500
  if !s.recovery || !v.getLsbD 63 then .next s
  else
    let svnup := v &&& 2
    match checkImage (Memory.readN s.staging 0 stagingBytes) s.keyDigest s.fusedSvn with
    | none => .next (s.setReg 0x40500 (svnup ||| 0x4000000000000000))
    | some im =>
      let fused := if svnup != 0 && s.fusedSvn.toNat < im.svn.toNat then im.svn else s.fusedSvn
      .next { s.setReg 0x40500 (svnup ||| 1) with recovery := false, image := im, fusedSvn := fused }

/-- The checksum a die's record holds (R368). -/
def State.mapCrc (s : State) (die : BitVec 2) : List Byte := Memory.readN (s.fuses die) 0xFFC 4

/-- The dies whose record is bad, one bit each (R368). -/
def State.disabledDies (s : State) : Nat :=
  ((List.range 4).filter fun d => !fusesGood (s.fuses (BitVec.ofNat 2 d))).foldl (fun n d => n + 2 ^ d) 0

/-- ATTESTATION_REQUEST (R2, R368, R371): the reply's nonce, hash, svn, Revision ID, checksums and status, in
an order of the model's own, with the device's signature. -/
def execAttestationRequest (nonce : BitVec 256) (s : State) : Result :=
  let bs := bytesOfNat 32 nonce.toNat ++ shake256 64 s.image.body ++
    bytesOfNat 4 s.image.svn.toNat ++ [0x10] ++
    ([(0 : BitVec 2), 1, 2, 3].flatMap fun d => s.mapCrc d) ++ bytesOfNat 1 s.disabledDies
  .next { s with out := s.out ++ [.report (bs ++ Config.attestSignature bs)] }

/-! ### Resets -/

/-- Step 4 of R372: the ROM checks the image of the board's flash, whose bytes the manual leaves to the
board; the device runs it or stays in recovery, its staging window zeroed (R369, R370; log 4, DESIGN CHOICE). -/
def State.verify (s : State) : State :=
  let n := s.free
  let s := { s with free := n + 1, staging := [] }
  match checkImage (Config.flashImage n) s.keyDigest s.fusedSvn with
  | some im => { s with recovery := false, image := im }
  | none => { s with recovery := true }

/-- COLD_RESET (R363, R372): everything but the fuses and what the ports report is as at reset; the
MFGMODE ball is sampled. -/
def execColdReset (mfg : Bool) (s : State) : Result :=
  .next { State.reset with
    mfg := mfg, fusedSvn := s.fusedSvn, keyDigest := s.keyDigest, defects := s.defects, cxlBytes := s.cxlBytes,
    clocks := [(0 : BitVec 2), 1, 2, 3].map s.topClock, free := s.free, nextId := s.nextId,
    out := s.out }.verify

/-- WARM_RESET (R266, R372, R373): memory, fuses and the timebase stay; work, cached lines and registers
go. A clock fault that stands clears if its monitor sees the timebase advance, a free value. -/
def execWarmReset (s : State) : Result :=
  let stands := s.clkFault && (Config.freeWord s.free).getLsbD 0
  let s' := { State.reset with
    timebase := s.timebase, mfg := s.mfg, clkFault := stands, fusedSvn := s.fusedSvn,
    keyDigest := s.keyDigest, defects := s.defects,
    clocks := [(0 : BitVec 2), 1, 2, 3].map s.topClock, window := s.window, mem := s.mem,
    cxlBytes := s.cxlBytes, free := s.free + 1, nextId := s.nextId, out := s.out }
  .next (if stands then s'.setReg (dieKey 0 0x48) 1 else s').verify

end Sys2Proof.Machine
end

