-- ==== Sys2Proof/Machine/Link.lean ====
section
/-!
DEFINITION. Fabric links and transactions, and the host's accesses: registers, function blocks, windows
(R7, R359, R366, R370, R374 to R390).
The model's own choices here: DESIGN CHOICE, logs 26, 36, 42.
-/
namespace Sys2Proof.Machine

/-! ### Links -/

/-- Whether a sequence number lies behind another, or is it, modulo 4,096 (R386). -/
def seqUpTo (a b : BitVec 12) : Bool := (b - a).toNat < 2048

/-- Flits a peer has acknowledged up to a number leave the port, whose replay timer starts again when one does
(R386, R387). -/
def Port.acked (p : Port) (ack : BitVec 12) (now : Nat) : Port :=
  let rest := p.sent.filter fun f => !seqUpTo (hdrOf f.flit.hdr).seq ack
  { p with sent := rest, ackAt := if rest.length < p.sent.length then now else p.ackAt }

/-- The link-control flit that is a NAK: it names the number its sender waits for in the first two bytes of its payload
(R386, R387; log 36, DESIGN CHOICE). -/
def nakFlit (due : BitVec 12) : Flit := flitOf ⟨0, due - 1, 3, false, false⟩ (bytesOfNat 2 due.toNat)

/-- The number a NAK names. -/
def nakDue (f : Flit) : BitVec 12 := BitVec.ofNat 12 (natOfBytes (f.payload.take 2))

/-- The port's one NAK for the flit it waits for (R387). -/
def State.sendNak (s : State) (p : Port) : State :=
  if p.nakSent then s.setPort p
  else { s.setPort { p with nakSent := true } with out := s.out ++ [.flit p.num (nakFlit p.expSeq)] }

/-- Whether a flit's checksum is good (R386). -/
def flitGood (f : Flit) : Bool := f.crc == crc32c (bytesOfNat 4 f.hdr.toNat ++ f.payload)

/-- The replay from the oldest unacknowledged flit; REPLAYS counts the flits (R386, R387). -/
def State.replay (s : State) (p : Port) : State :=
  let sent := p.sent.map fun (f : SentFlit) =>
    { f with replays := f.replays + 1 }
  let s := { s.setPort { p with sent := sent, ackAt := s.timebase.toNat } with out := s.out ++ p.sent.map fun (f : SentFlit) => Message.flit p.num f.flit }
  let n := (s.reg (fpstatKey p.num)).toNat % 2 ^ 32
  s.setReg (fpstatKey p.num) (BitVec.ofNat 64 (min (n + p.sent.length) (2 ^ 32 - 1)))

/-- A port that has sent some flits may replay them: none of them has been replayed 8 times (R387). -/
def Port.replays (p : Port) : Bool := !p.sent.isEmpty && p.sent.all fun f => f.replays < 8

/-- A peer waits for a number: those before it have arrived, and the rest is replayed (R387). -/
def State.nakked (s : State) (p : Port) (due : BitVec 12) : State :=
  let p := p.acked (due - 1) s.timebase.toNat
  if p.replays then s.replay p else s.setPort p

/-- FLIT_RECEIVE (R386, R387): a good flit acknowledges, and is accepted in order; a bad one, or one past
the number that is due, is discarded with a NAK; one that came before is discarded; one of link control is a NAK. -/
def execFlitReceive (port : BitVec 4) (f : Flit) (s : State) : Result :=
  waking <|
  let p := s.port port
  if p.state != .up then .next s
  else if !flitGood f then .next (s.sendNak p)
  else
    let h := hdrOf f.hdr
    let p := p.acked h.ack s.timebase.toNat
    if h.vc = 3 then .next (s.nakked p (nakDue f))
    else if h.seq = p.expSeq then .next (s.setPort { p with expSeq := p.expSeq + 1, nakSent := false })
    else if seqUpTo h.seq p.expSeq then .next (s.setPort p)
    else .next (s.sendNak p)

/-- FLIT_NAK (R387). -/
def execFlitNak (port : BitVec 4) (due : BitVec 12) (s : State) : Result :=
  waking <|
  let p := s.port port
  if p.state == .up then .next (s.nakked p due) else .next s

/-- A port keeps flits, and none has been acknowledged for 1,000 ticks (R387). -/
def State.ackLate (s : State) (p : Port) : Bool :=
  p.state == .up && !p.sent.isEmpty && p.ackAt + 1000 ≤ s.timebase.toNat

/-- REPLAY_TIMEOUT (R387): nothing has been acknowledged for 1,000 ticks. -/
def execReplayTimeout (port : BitVec 4) (s : State) : Result :=
  let p := s.port port
  if s.ackLate p && p.replays then .next (s.replay p) else .next s

/-- A port goes down by itself: a flit it has replayed 8 times is not acknowledged (R387). -/
def State.portLost (s : State) (p : Port) : Bool := s.ackLate p && !p.replays

/-- A transaction that is refused or lost: its operation completes with cause 0x41 (R387 to R389). -/
def State.txnFailed (s : State) (t : SentTxn) : State :=
  let s := { s with txns := s.txns.filter fun x => x.op != t.op }
  match s.block? t.blk with
  | none => s
  | some b =>
    match (b.chan t.ch).queue.find? fun x => x.id == t.op with
    | some x => s.copyFault b t.ch x 0x41
    | none => s

/-- A port goes down: every transaction with an unacknowledged flit on it, or that it has still to send, is lost
(R387; log 36, DESIGN CHOICE). -/
def State.dropPort (s : State) (n : BitVec 4) (st : PortState) : State :=
  let p := s.port n
  let lost := s.txns.filter fun t => (p.sent.any fun f => f.tag == some t.tag) || p.queue.any fun x => x.tag == some t.tag
  let s := s.setPort { p with state := st, queue := [], sent := [], nakSent := false, downAt := some s.timebase.toNat }
  lost.foldl (fun (s : State) t => s.txnFailed t) s

/-- PORT_DOWN (R387): after 8 replays of a flit, or with lane lock lost, the port retrains. -/
def execPortDown (port : BitVec 4) (s : State) : Result :=
  if (s.port port).state == .up then .next (s.dropPort port .training) else .next s

/-- PORT_RETRAIN_TIMEOUT (R387): a port that does not come up within 10,000,000 ticks is failed. -/
def execPortRetrainTimeout (port : BitVec 4) (s : State) : Result :=
  let p := s.port port
  match p.downAt with
  | some t =>
    if p.state == .training && t + 10000000 ≤ s.timebase.toNat then .next (s.setPort { p with state := .failed })
    else .next s
  | none => .next s

/-- FABRIC_PORT_UP (R383, R386, R387): training succeeds, and sequence numbers start again; while the
package has no identity its ports stay down. -/
def execFabricPortUp (port : BitVec 4) (s : State) : Result :=
  let p := s.port port
  let may := match p.state with
    | .down | .training => true
    | .up | .failed => false
  if may && s.fabId != 4095 && !s.recovery then
    .next (s.setPort { p with state := .up, sendSeq := 0, expSeq := 0, queue := [], sent := [], nakSent := false,
                              downAt := none })
  else .next s

/-! ### Arriving requests -/

/-- The die of a fabric port (R257). -/
def portDie (port : BitVec 4) : BitVec 2 := port.extractLsb' 2 2

/-- A window this package exports (R385). -/
structure Export where
  base   : DWord
  length : DWord
  vdid   : BitVec 8
  perm   : BitVec 8
  peer   : BitVec 16
  svd    : BitVec 8
  sany   : Bool
  deriving DecidableEq, Repr

/-- FWEXP`n` (R385). -/
def State.exportOf (s : State) (n : BitVec 8) : Export :=
  let k := 0x48000 + 32 * n.toNat
  let w := s.reg (k + 0x10)
  { base := s.reg k, length := s.reg (k + 8), vdid := w.extractLsb' 0 8, perm := w.extractLsb' 8 8,
    peer := w.extractLsb' 16 16, svd := w.extractLsb' 32 8, sany := w.getLsbD 40 }

/-- The admission of a transaction that needs permission bit `bit`: 0, or the reason of its refusal (R385,
R388). -/
def Export.refusal (x : Export) (bit : Nat) (t : Txn) : Nat :=
  if !x.perm.getLsbD 7 then 1
  else if !((x.peer.getLsbD 15 || x.peer.extractLsb' 0 12 == t.src.setWidth 12) && (x.sany || x.svd == t.svd))
  then 2
  else if !x.perm.getLsbD bit then 3
  else if x.length.toNat < t.off.toNat + t.len.toNat then 4
  else 0

/-- What the lines of an exported range come to. -/
inductive Exported where
  | ok (rs : List LineRes) (s : State)
  | refuse (why : Nat) (s : State)
  | wait
  deriving DecidableEq, Repr

/-- The lines of an exported range at their homes, as accesses of the exporting virtual device by the die of the port;
another die's home counts its refusal (R267, R385). -/
def State.exportLines (s : State) (die : BitVec 2) (vd : BitVec 8) (a : Access) : List Nat → Exported
  | [] => .ok [] s
  | la :: t =>
    let va : Va := BitVec.ofNat 56 la
    let home := s.homeOf vd va
    let k := LineKey.mem home vd va
    if s.keyBusy k then .wait
    else
      match s.homeFetch home vd va with
      | .error .absent => .refuse 5 s
      | .error .tableError => .refuse 6 (s.countRefusal die vd a la 1)
      | .ok (h, s') =>
        if !h.leaf.permits a then .refuse 3 (s.countRefusal die vd a la 1)
        else
          match State.exportLines s' die vd a t with
          | .ok rs s'' => .ok (⟨la, k, .ok h.bytes (some h.leaf)⟩ :: rs) s''
          | r => r

/-- A reply goes back on a port that is up, if there is one: the lowest with room, else the lowest, where it waits for
room; the exporting virtual device's tokens pay (R387, R388; log 36, DESIGN CHOICE). -/
def State.reply (s : State) (ports : List (BitVec 4)) (t : Txn) (kind : BitVec 8) (svd : BitVec 8) (why : Nat)
    (data : List Byte) : State :=
  let r : Txn := { t with svd := svd, src := s.fabId, dst := t.src.setWidth 12, why := BitVec.ofNat 8 why,
                          data := data }
  match s.sendTxn ports kind 1 r none with
  | some s => s
  | none => match ports.find? fun n => (s.port n).state == .up with
    | some n => s.setPort ((s.port n).enqueue ⟨r.svd, 1, none, false, txnPayloads kind r⟩)
    | none => s

/-- A refusal, counted in FWNAK; it goes back on the port its request came by (R388; log 36, DESIGN CHOICE). -/
def State.refuseTxn (s : State) (t : Txn) (svd : BitVec 8) (why : Nat) : State :=
  (s.bumpReg 0x40310).reply [t.port] t 7 svd why []

/-- Whether a transaction keeps R388's header and is for this package. -/
def State.txnMine (s : State) (t : Txn) : Bool :=
  1 ≤ t.len.toNat && t.len.toNat ≤ 4096 && t.dst.setWidth 12 == s.fabId && s.fabId != 4095

/-- Whether a fabric port serves a virtual device: its partition owns the port (R306). -/
def State.portServes (s : State) (port : BitVec 4) (vd : BitVec 8) : Bool :=
  match s.partOf vd with
  | some p => p.eng.getLsbD port.toNat
  | none => false

/-- Why a request that came by a port is not admitted; 0 if it is. A port that does not serve the exporting
virtual device admits no source (R306, R385; log 36, DESIGN CHOICE). -/
def State.whyNot (s : State) (x : Export) (bit : Nat) (t : Txn) : Nat :=
  if x.perm.getLsbD 7 && !s.portServes t.port x.vdid then 2 else x.refusal bit t

/-- A request that arrives by a port: admitted and performed, its answer on the exporting virtual device's
ports, or refused (R306, R385, R388, R390). -/
def State.serveTxn (s : State) (t : Txn) (bit : Nat) (a : Access)
    (act : State → List LineRes → List Nat → State × List Byte) (kind : BitVec 8) : Result :=
  if !s.txnMine t || s.recovery then .next s
  else
    let x := s.exportOf t.win
    let why := s.whyNot x bit t
    if why ≠ 0 then .next (s.refuseTxn t x.vdid why)
    else
      let addrs := (List.range t.len.toNat).map fun i => (x.base.toNat + t.off.toNat + i) % 2 ^ 56
      match s.exportLines (portDie t.port) x.vdid a (linesOf addrs) with
      | .wait => .next s
      | .refuse why s => .next (s.refuseTxn t x.vdid why)
      | .ok rs s' =>
        let r := act s' rs addrs
        .next (r.1.reply (r.1.usablePorts x.vdid (t.src.setWidth 12)) t kind x.vdid 0 r.2)

/-- FABRIC_READ (R385, R388). -/
def execFabricRead (t : Txn) (s : State) : Result :=
  s.serveTxn t 0 .read (fun s rs addrs => (s, reachedBytes rs addrs)) 5

/-- FABRIC_WRITE (R385, R388, R390). -/
def execFabricWrite (t : Txn) (s : State) : Result :=
  s.serveTxn t 1 .write (fun s rs addrs => (s.storeAt (portDie t.port) rs (addrs.zip t.data), [])) 6

/-- FABRIC_ADD_FP32 (R221, R385, R388). -/
def execFabricAddFp32 (t : Txn) (s : State) : Result :=
  s.serveTxn t 2 .atomic (fun s rs addrs => (s.addAt (portDie t.port) .fadd rs addrs t.data, [])) 6

/-- FABRIC_ADD_BF16 (R221, R385, R388). -/
def execFabricAddBf16 (t : Txn) (s : State) : Result :=
  s.serveTxn t 2 .atomic (fun s rs addrs => (s.addAt (portDie t.port) .hadd rs addrs t.data, [])) 6

/-! ### Arriving replies -/

/-- Whether a request's deadline has passed (R388). -/
def State.overdue (s : State) (x : SentTxn) : Bool :=
  match x.deadline with
  | some d => s.expired d
  | none => false

/-- The request a reply answers, while its deadline has not passed (R388). -/
def State.awaited (s : State) (t : Txn) : Option SentTxn :=
  s.txns.find? fun x => x.tag == t.tag && !s.overdue x

/-- A request has its reply: its operation goes on with what came back (R388). -/
def State.txnDone (s : State) (x : SentTxn) (data : List Byte) : State :=
  let s := { s with txns := s.txns.filter fun y => y.tag != x.tag }
  match s.block? x.blk with
  | none => s
  | some b =>
    match (b.chan x.ch).queue.find? fun y => y.id == x.op with
    | none => s
    | some o => s.setBlock (b.setOp x.ch { o with
        txns := o.txns.filter fun y => y != x.tag,
        buf := if data.isEmpty then o.buf else putBytes o.buf x.off (data.take x.len) })

/-- FABRIC_READ_DATA (R388). -/
def execFabricReadData (t : Txn) (s : State) : Result :=
  match s.awaited t with
  | some x => if x.kind == .read then .next (s.txnDone x t.data) else .next s
  | none => .next s

/-- FABRIC_ACK (R388). -/
def execFabricAck (t : Txn) (s : State) : Result :=
  match s.awaited t with
  | some x => if x.kind == .read then .next s else .next (s.txnDone x [])
  | none => .next s

/-- FABRIC_REFUSAL (R388, R389). -/
def execFabricRefusal (t : Txn) (s : State) : Result :=
  match s.awaited t with
  | some x => .next (s.txnFailed x)
  | none => .next s

/-- FABRIC_DEADLINE_EXPIRY (R388, R389): a request without a reply by FDLINE is lost. -/
def execFabricDeadlineExpiry (tag : BitVec 32) (s : State) : Result :=
  match s.txns.find? fun x => x.tag == tag with
  | some x => if s.overdue x then .next (s.txnFailed x) else .next s
  | none => .next s

/-! ### The host's accesses -/

/-- The bank's key of an offset of the physical function's BAR0 (R348, R377). -/
def State.bar0Key (s : State) (off : Nat) : Nat :=
  if 0x41008 ≤ off && off < 0x42000 then kenzuKey s.kzvd (off - 0x41000) else off

/-- Whether a write to the register at a key of the bank is an event of its own: its fields without one
are kept by that event (R307, R308, R324, R341, R349, R350, R365, R367, R370, R378). -/
def ownEvent (k : Nat) : Bool :=
  if k < 0x40000 then k % 0x10000 == 0x30 || k % 0x10000 == 0x340
  else if k == 0x40000 || k == 0x40500 then true
  else if 0x50000 ≤ k && k < 0x60000 then [0x00, 0x20, 0x38].contains (k % 64)
  else if 0x100000 ≤ k && k < 0x200000 then
    [0x000, 0x100, 0x108, 0x110, 0x118, 0x218].contains (k % 0x1000)
  else if 0x1000000 ≤ k then [0x008, 0x010].contains (k % 0x1000)
  else false

/-- A margining register outside manufacturing mode takes no write (R366). -/
def State.marginLocked (s : State) (k : Nat) : Bool :=
  k < 0x40000 && 0x300 ≤ k % 0x10000 && k % 0x10000 ≤ 0x318 && !s.mfg

/-- The register at a key takes a value under its access codes (R7). -/
def State.bankWriteReg (s : State) (k : Nat) (v : DWord) : State :=
  match regInfo k with
  | none => s
  | some r => if s.marginLocked k then s else s.setReg k (r.merge (s.reg k) v)

/-- With no identity every fabric port is down (R383). -/
def State.portsFollow (s : State) : State :=
  if s.fabId = 4095 then (s.ports.map fun p => p.num).foldl (fun (s : State) n => s.dropPort n .down) s else s

/-- A write of VDHALT that neither raises nor clears selects a domain (R378). -/
def selectsHalt (k : Nat) (v : DWord) : Bool :=
  0x100000 ≤ k && k < 0x200000 && k % 0x1000 == 0x108 && (v.extractLsb' 62 2) == 0

/-- A write through the physical function's BAR0: in recovery only the die control spaces take one (R370,
R376, R377). -/
def State.pfWrite (s : State) (off : Nat) (v : DWord) : State :=
  let k := s.bar0Key off
  if s.recovery && 0x40000 ≤ off then s
  else if ownEvent k && !selectsHalt k v then s
  else
    let s' := s.bankWriteReg k v
    if k = 0x40300 then s'.portsFollow else s'

/-- A write through virtual function `n`'s BAR0: its own EVBASE and EVCFG, the domain its VDHALT selects, and the
doorbells of its own queues (R378, R379). -/
def State.vfWrite (s : State) (n : BitVec 8) (off : Nat) (v : DWord) : State :=
  let k := vdKey n off
  if !s.vfEnable || s.recovery then s
  else if 0x1000 ≤ off then
    let q : BitVec 10 := BitVec.ofNat 10 ((off - 0x10000) / 64)
    if 0x10000 ≤ off && off < 0x20000 && off % 64 = 0x20 && s.qVd q == n then s.writeQdoor q v else s
  else if off = 0x200 || off = 0x208 || selectsHalt k v then s.bankWriteReg k v
  else s

/-- REGISTER_WRITE (R7, R376 to R379). -/
def execRegisterWrite (fn : BitVec 8) (off : BitVec 24) (v : DWord) (s : State) : Result :=
  waking (if off.toNat % 8 ≠ 0 then .next s
    else if fn = 0 then .next (s.pfWrite off.toNat v)
    else .next (s.vfWrite fn off.toNat v))

/-- The die and the die-local PA an offset of the physical window reaches (R380). -/
def State.windowPa (s : State) (off : BitVec 38) : BitVec 2 × Nat :=
  let die : BitVec 2 := off.extractLsb' 36 2
  (die, (s.reg (0x40100 + 8 * die.toNat)).toNat / 2 ^ 36 % 4096 * 2 ^ 36 + off.toNat % 2 ^ 36)

/-- What a read through the physical window answers; all ones where nothing is backed (R380). -/
def State.windowRead (s : State) (off : BitVec 38) : DWord :=
  let x := s.windowPa off
  if s.recovery then
    (if off.toNat < stagingBytes then BitVec.ofNat 64 (natOfBytes (Memory.readN s.staging off.toNat 8)) else 0)
  else if s.backed x.1 x.2 then s.frameWord x.1 x.2
  else BitVec.allOnes 64

/-- PHYS_WINDOW_ACCESS (R370, R380): a write reaches the frame, or in recovery the staging window. -/
def execPhysWindowAccess (off : BitVec 38) (wr : Option (BitVec 64)) (s : State) : Result :=
  waking <|
  match wr with
  | none => .next s
  | some v =>
    let x := s.windowPa off
    let bs := bytesOfNat 8 v.toNat
    if s.recovery then
      if off.toNat + 8 ≤ stagingBytes then .next { s with staging := Memory.writeN s.staging off.toNat bs }
      else .next s
    else if s.backed x.1 x.2 then .next { s with mem := Memory.writeN s.mem (frameKey x.1 x.2) bs }
    else .next s

/-! ### What the host reads -/

/-- STATE of a port (R386). -/
def PortState.code : PortState → Nat
  | .down => 0
  | .training => 1
  | .up => 2
  | .failed => 3

/-- A bit of a register. -/
def flagAt (b : Bool) (n : Nat) : DWord := if b then BitVec.ofNat 64 (2 ^ n) else 0

/-- The bits of a register that show the state of a unit (R239, R271, R307, R320, R324, R349, R359, R365, R367,
R378, R386). -/
def State.liveBits (s : State) (k : Nat) : DWord :=
  if k < 0x40000 then
    let die : BitVec 2 := BitVec.ofNat 2 (k / 0x10000)
    let o := k % 0x10000
    if o = 0x30 then flagAt (s.bistBusy die) 63
    else if o = 0x340 then flagAt (s.margin.any fun x => x.1 == die) 63
    else if 0x1000 ≤ o && o < 0x2000 then
      BitVec.ofNat 64 (natOfBytes (Memory.readN (s.fuses die) (o - 0x1000) 8))
    else 0
  else if k = 0x40000 then flagAt s.partPend.isSome 63
  else if 0x40400 ≤ k && k < 0x40480 then
    BitVec.ofNat 64 ((s.port (BitVec.ofNat 4 ((k - 0x40400) / 8))).state.code * 2 ^ 62)
  else if 0x100000 ≤ k && k < 0x200000 then
    let vd : BitVec 8 := BitVec.ofNat 8 ((k - 0x100000) / 0x1000)
    match k % 0x1000 with
    | 0x100 => flagAt (s.blocks.any fun b => b.vd == vd && b.stop.isSome) 63
    | 0x108 => flagAt (s.clkFault || (s.vdev vd).halted.contains ((s.reg k).setWidth 16)) 61
    | 0x118 => flagAt (s.vdev vd).pginv.isSome 63
    | _ => 0
  else if 0x1000000 ≤ k && k % 0x1000 = 0x008 then
    let vd : BitVec 8 := BitVec.ofNat 8 ((k - 0x1000000) / 0x1000)
    match s.kzBlock vd (s.kzWhere vd) with
    | some b => flagAt (b.dbg && b.stepReq.isNone) 63
    | none => 0
  else 0

/-- What the physical function reads at an offset of its BAR0 (R6, R370, R377). -/
def State.pfRead (s : State) (off : Nat) : DWord :=
  let k := s.bar0Key off
  if s.recovery && 0x40000 ≤ off && off ≠ 0x40500 then 0
  else if !s.recovery && off = 0x40500 then 0
  else
    match regInfo k with
    | none => 0
    | some _ => s.reg k ||| s.liveBits k

/-- What the physical function reads at an offset that it reads again: of KZSHVAL, after a sample of class 3, a PC
slot, the mask in [63:32]; of any other register what the first read gave (R350). -/
def State.pfReadAgain (s : State) (off : Nat) : DWord :=
  if s.bar0Key off == kenzuKey s.kzvd 0x018 && !s.recovery && ((s.kz s.kzvd 0x010).extractLsb' 14 4) == 3 then
    s.kz s.kzvd 0x020
  else s.pfRead off

/-- What virtual function `n` reads at an offset of its BAR0 (R378, R379). -/
def State.vfRead (s : State) (n : BitVec 8) (off : Nat) : DWord :=
  if !s.vfEnable || s.recovery then 0
  else if off < 0x1000 then
    (if [0x100, 0x108, 0x110, 0x118, 0x200, 0x208, 0x210, 0x218].contains off
     then s.reg (vdKey n off) ||| s.liveBits (vdKey n off) else 0)
  else if 0x10000 ≤ off && off < 0x20000 then
    let q : BitVec 10 := BitVec.ofNat 10 ((off - 0x10000) / 64)
    let o := off % 64
    if s.qVd q == n && (o == 0x20 || o == 0x28 || o == 0x30) then s.reg (queueKey q o) else 0
  else 0

end Sys2Proof.Machine
end

