-- ==== Sys2Proof/Machine/VectorFloat.lean ====
section
/-!
DEFINITION. FP32 instructions (R52, R133 to R138).
The model's own choices here: DESIGN CHOICE, log 45.
-/
namespace Sys2Proof.Machine

/-- A two-source float instruction: sources go to `f` with the modifier word's bits still to be
applied (R125, R133). -/
def vectorF2 (vv : Bool) (o : ROps) (f : Word → Word → Word × Word) (s : State) : Result :=
  guarded s o.g (vNames vv o) fun c g p e =>
    let r (l : Nat) : Word × Word :=
      f (g.vlane c.p.slot o.a.toNat l) (laneB vv g c.p.slot o.b l)
    commit s c g p e
      (vWrite o.d (lanesOf fun l => (r l).1) (laneFlags e fun l => (r l).2)
        (marksR o .v (bKind vv) .none))

/-- A three-source float instruction (R133, R139). -/
def vectorF3 (vv : Bool) (o : ROps) (f : Word → Word → Word → Word × Word) (s : State) : Result :=
  guarded s o.g (vNames vv o ++ [o.c.toNat]) fun c g p e =>
    let r (l : Nat) : Word × Word :=
      f (g.vlane c.p.slot o.a.toNat l) (laneB vv g c.p.slot o.b l) (g.vlane c.p.slot o.c.toNat l)
    commit s c g p e
      (vWrite o.d (lanesOf fun l => (r l).1) (laneFlags e fun l => (r l).2)
        (marksR o .v (bKind vv) .v))

/-- A one-source float instruction (R136, R137). -/
def vectorF1 (o : ROps) (f : Word → Word × Word) (s : State) : Result :=
  guarded s o.g [o.d.toNat, o.a.toNat] fun c g p e =>
    let r (l : Nat) : Word × Word := f (g.vlane c.p.slot o.a.toNat l)
    commit s c g p e
      (vWrite o.d (lanesOf fun l => (r l).1) (laneFlags e fun l => (r l).2)
        (marksR o .v .none .none))

/-- FFMA in one lane: one rounding (R133). -/
def ffmaLane (md : Option ModWord) (a b c : Word) : Word × Word :=
  let r := op3F fmt32 md a.toNat b.toNat c.toNat
  (BitVec.ofNat 32 r.1, r.2)

/-- FCMP in one lane (R135). -/
def fcmpLane (cc : FCond) (md : Option ModWord) (a b : Word) : Bool × Word :=
  compareF cc (srcA fmt32 md a.toNat) (srcB fmt32 md b.toNat)

/-- FCMP: each lane's outcome into p_d (R135). -/
def vectorFcmp (vv : Bool) (cc : FCond) (o : ROps) (s : State) : Result :=
  guarded s o.g ([o.a.toNat] ++ (if vv then [(bField o.b).toNat] else [])) fun c g p e =>
    let r (l : Nat) : Bool × Word :=
      fcmpLane cc o.md (g.vlane c.p.slot o.a.toNat l) (laneB vv g c.p.slot o.b l)
    commit s c g p e
      (pWrite o.d (maskOf fun l => (r l).1) (laneFlags e fun l => (r l).2)
        (marksR o .v (bKind vv) .none))

/-- FADD.vv (R133). -/
def execFaddVv (o : ROps) (s : State) : Result :=
  vectorF2 true o (onWords (op2F fmt32 .add o.md)) s

/-- FADD.vs (R133). -/
def execFaddVs (o : ROps) (s : State) : Result :=
  vectorF2 false o (onWords (op2F fmt32 .add o.md)) s

/-- FSUB.vv (R133). -/
def execFsubVv (o : ROps) (s : State) : Result :=
  vectorF2 true o (onWords (op2F fmt32 .sub o.md)) s

/-- FSUB.vs (R133). -/
def execFsubVs (o : ROps) (s : State) : Result :=
  vectorF2 false o (onWords (op2F fmt32 .sub o.md)) s

/-- FMUL.vv (R133). -/
def execFmulVv (o : ROps) (s : State) : Result :=
  vectorF2 true o (onWords (op2F fmt32 .mul o.md)) s

/-- FMUL.vs (R133). -/
def execFmulVs (o : ROps) (s : State) : Result :=
  vectorF2 false o (onWords (op2F fmt32 .mul o.md)) s

/-- FMIN.vv (R134). -/
def execFminVv (o : ROps) (s : State) : Result :=
  vectorF2 true o (onWords (op2F fmt32 .min o.md)) s

/-- FMIN.vs (R134). -/
def execFminVs (o : ROps) (s : State) : Result :=
  vectorF2 false o (onWords (op2F fmt32 .min o.md)) s

/-- FMAX.vv (R134). -/
def execFmaxVv (o : ROps) (s : State) : Result :=
  vectorF2 true o (onWords (op2F fmt32 .max o.md)) s

/-- FMAX.vs (R134). -/
def execFmaxVs (o : ROps) (s : State) : Result :=
  vectorF2 false o (onWords (op2F fmt32 .max o.md)) s

/-- FDIV.vv (R133). -/
def execFdivVv (o : ROps) (s : State) : Result :=
  vectorF2 true o (onWords (op2F fmt32 .div o.md)) s

/-- FDIV.vs (R133). -/
def execFdivVs (o : ROps) (s : State) : Result :=
  vectorF2 false o (onWords (op2F fmt32 .div o.md)) s

/-- FFMA.vv (R133). -/
def execFfmaVv (o : ROps) (s : State) : Result :=
  vectorF3 true o (ffmaLane o.md) s

/-- FCMP.vv (R135). -/
def execFcmpVv (cc : FCond) (o : ROps) (s : State) : Result :=
  vectorFcmp true cc o s

/-- FFMA.vs (R133). -/
def execFfmaVs (o : ROps) (s : State) : Result :=
  vectorF3 false o (ffmaLane o.md) s

/-- FCMP.vs (R135). -/
def execFcmpVs (cc : FCond) (o : ROps) (s : State) : Result :=
  vectorFcmp false cc o s

/-- FRCP (R136). -/
def execFrcp (o : ROps) (s : State) : Result :=
  vectorF1 o (fun32 .rcp o.md) s

/-- FRSQ (R136). -/
def execFrsq (o : ROps) (s : State) : Result :=
  vectorF1 o (fun32 .rsq o.md) s

/-- FSQRT (R136). -/
def execFsqrt (o : ROps) (s : State) : Result :=
  vectorF1 o (fun32 .sqrt o.md) s

/-- FEXP2 (R136). -/
def execFexp2 (o : ROps) (s : State) : Result :=
  vectorF1 o (fun32 .exp2 o.md) s

/-- FLOG2 (R136). -/
def execFlog2 (o : ROps) (s : State) : Result :=
  vectorF1 o (fun32 .log2 o.md) s

/-- FRND (R137). -/
def execFrnd (o : ROps) (s : State) : Result :=
  vectorF1 o (frnd32 o.md) s

/-- FCVT (R138); a mark on a 64-bit source marks the even register (log 45, DESIGN CHOICE). -/
def execFcvt (cv : FConv) (o : ROps) (s : State) : Result :=
  let pd := (fcvtPairs cv).1
  let pa := (fcvtPairs cv).2
  guarded s o.g ([o.d.toNat, o.a.toNat] ++ (if pd then [o.d.toNat + 1] else []) ++
      (if pa then [o.a.toNat + 1] else [])) fun c g p e =>
    let r (l : Nat) : DWord × Word :=
      fcvtLane cv o.md (g.vlane c.p.slot o.a.toNat l) (pairAt g c.p.slot o.a.toNat l)
    commit s c g p e
      ⟨spread o.d (if pd then 2 else 1) fun k l => ((r l).1 >>> (32 * k)).setWidth 32, none, none,
        laneFlags e fun l => (r l).2, marksR o .v .none .none⟩

end Sys2Proof.Machine
end

