-- ==== Sys2Proof/Machine/Packed.lean ====
section
/-!
DEFINITION. Packed BF16 instructions (R52, R139, R140).
The model's own choices here: DESIGN CHOICE, log 45.
-/
namespace Sys2Proof.Machine

/-- HFMA2 in one lane: each element with one rounding (R139). -/
def hfmaLane (md : Option ModWord) (a b c : Word) : Word × Word :=
  let r0 := op3F fmtBf md (a.toNat % 65536) (b.toNat % 65536) (c.toNat % 65536)
  let r1 := op3F fmtBf md (a.toNat / 65536) (b.toNat / 65536) (c.toNat / 65536)
  (BitVec.ofNat 32 (r1.1 * 65536 + r0.1), r0.2 ||| r1.2)

/-- HADD2.vv (R139). -/
def execHadd2Vv (o : ROps) (s : State) : Result :=
  vectorF2 true o (onPairs (op2F fmtBf .add o.md)) s

/-- HADD2.vs (R139). -/
def execHadd2Vs (o : ROps) (s : State) : Result :=
  vectorF2 false o (onPairs (op2F fmtBf .add o.md)) s

/-- HMUL2.vv (R139). -/
def execHmul2Vv (o : ROps) (s : State) : Result :=
  vectorF2 true o (onPairs (op2F fmtBf .mul o.md)) s

/-- HMUL2.vs (R139). -/
def execHmul2Vs (o : ROps) (s : State) : Result :=
  vectorF2 false o (onPairs (op2F fmtBf .mul o.md)) s

/-- HMIN2.vv (R139). -/
def execHmin2Vv (o : ROps) (s : State) : Result :=
  vectorF2 true o (onPairs (op2F fmtBf .min o.md)) s

/-- HMIN2.vs (R139). -/
def execHmin2Vs (o : ROps) (s : State) : Result :=
  vectorF2 false o (onPairs (op2F fmtBf .min o.md)) s

/-- HMAX2.vv (R139). -/
def execHmax2Vv (o : ROps) (s : State) : Result :=
  vectorF2 true o (onPairs (op2F fmtBf .max o.md)) s

/-- HMAX2.vs (R139). -/
def execHmax2Vs (o : ROps) (s : State) : Result :=
  vectorF2 false o (onPairs (op2F fmtBf .max o.md)) s

/-- HFMA2.vv (R139). -/
def execHfma2Vv (o : ROps) (s : State) : Result :=
  vectorF3 true o (hfmaLane o.md) s

/-- HFMA2.vs (R139). -/
def execHfma2Vs (o : ROps) (s : State) : Result :=
  vectorF3 false o (hfmaLane o.md) s

/-- HCVT2 (R140); a mark on a 64-bit source marks the even register (log 45, DESIGN CHOICE). -/
def execHcvt2 (cv : HConv) (o : ROps) (s : State) : Result :=
  let pd := cv == .f32bf2
  let pa := cv == .bf2f32
  guarded s o.g ([o.d.toNat, o.a.toNat] ++ (if pd then [o.d.toNat + 1] else []) ++
      (if pa then [o.a.toNat + 1] else [])) fun c g p e =>
    let r (l : Nat) : Word × Word × Word :=
      hcvtLane cv o.md (g.vlane c.p.slot o.a.toNat l) (g.vlane c.p.slot (o.a.toNat + 1) l)
    commit s c g p e
      ⟨spread o.d (if pd then 2 else 1) fun k l => if k = 0 then (r l).1 else (r l).2.1, none, none,
        laneFlags e fun l => (r l).2.2, marksR o .v .none .none⟩

end Sys2Proof.Machine
end

