-- ==== Sys2Proof/Machine/Pred.lean ====
section
/-!
DEFINITION. Predicate instructions (R53, R145, R146).
-/
namespace Sys2Proof.Machine

/-- A predicate instruction: its result in the lanes of the effective set of p_d (R145). -/
def predOp (o : ROps) (f : Group → Word) (s : State) : Result :=
  guarded s o.g [] fun c g p e => commit s c g p e (pWrite o.d (f g) 0 [])

/-- PAND (R145). -/
def execPand (o : ROps) (s : State) : Result :=
  predOp o (fun g => g.pred o.a &&& g.pred (bField o.b)) s

/-- POR (R145). -/
def execPor (o : ROps) (s : State) : Result :=
  predOp o (fun g => g.pred o.a ||| g.pred (bField o.b)) s

/-- PXOR (R145). -/
def execPxor (o : ROps) (s : State) : Result :=
  predOp o (fun g => g.pred o.a ^^^ g.pred (bField o.b)) s

/-- PNOT (R145). -/
def execPnot (o : ROps) (s : State) : Result :=
  predOp o (fun g => ~~~g.pred o.a) s

/-- PFROM: 1 where the lane is not zero (R145). -/
def execPfrom (o : ROps) (s : State) : Result :=
  guarded s o.g [o.a.toNat] fun c g p e =>
    commit s c g p e
      (pWrite o.d (maskOf fun l => g.vlane c.p.slot o.a.toNat l != 0) 0 (marksR o .v .none .none))

/-- PTO: 1 or 0 in each lane (R145). -/
def execPto (o : ROps) (s : State) : Result :=
  guarded s o.g [o.d.toNat] fun c g p e =>
    commit s c g p e (vWrite o.d (lanesOf fun l => if bitAt (g.pred o.a) l then 1 else 0) 0 [])

/-- PCNT: the set lanes of the predicate within the effective set (R146). -/
def execPcnt (o : ROps) (s : State) : Result :=
  groupLevel s o.g [] fun c g p e =>
    commit s c g p e (sWrite o.d (BitVec.ofNat 64 (popWord (g.pred o.a &&& e))) 0 [])

end Sys2Proof.Machine
end

