-- ==== Sys2Proof/Machine/Scalar.lean ====
section
/-!
DEFINITION. Scalar instructions (R50, R117 to R124).
The model's own choices here: DEDUCED, log 44.
-/
namespace Sys2Proof.Machine

/-- A quotient truncated toward zero of signed words; by 0 it is 0 and sets DZ (R120). -/
def sdivResult (md : Option ModWord) (a b : DWord) : DWord × Word :=
  if b = 0 then (0, flDz)
  else
    let q := Int.tdiv a.toInt b.toInt
    if q = (2 : Int) ^ 63 then 
      (if wantsSat md then (BitVec.ofInt 64 (sMax 64), flSat) else (BitVec.ofInt 64 q, 0))
    else (BitVec.ofInt 64 q, 0)

/-- The unsigned quotient; by 0 it is 0 and sets DZ (R120). -/
def udivResult (a b : DWord) : DWord × Word :=
  if b = 0 then (0, flDz) else (BitVec.ofNat 64 (a.toNat / b.toNat), 0)

/-- The remainder that goes with the truncated quotient; by 0 it is 0 and sets DZ (R120). -/
def sremResult (a b : DWord) : DWord × Word :=
  if b = 0 then (0, flDz) else (BitVec.ofInt 64 (Int.tmod a.toInt b.toInt), 0)

/-- The unsigned remainder; by 0 it is 0 and sets DZ (R120). -/
def uremResult (a b : DWord) : DWord × Word :=
  if b = 0 then (0, flDz) else (BitVec.ofNat 64 (a.toNat % b.toNat), 0)

/-- SADD (R119): the signed sum, clamped under rm = 1. -/
def execSadd (o : ROps) (s : State) : Result :=
  scalar2 o (fun a b => signedResult 64 o.md (a.toInt + b.toInt)) s

/-- SSUB (R119): the signed difference, clamped under rm = 1. -/
def execSsub (o : ROps) (s : State) : Result :=
  scalar2 o (fun a b => signedResult 64 o.md (a.toInt - b.toInt)) s

/-- SMUL (R119): the signed product, clamped under rm = 1. -/
def execSmul (o : ROps) (s : State) : Result :=
  scalar2 o (fun a b => signedResult 64 o.md (a.toInt * b.toInt)) s

/-- SMULH (R119): the upper half of the signed 128-bit product. -/
def execSmulh (o : ROps) (s : State) : Result :=
  scalar2 o (fun a b => (BitVec.ofInt 64 ((a.toInt * b.toInt) / (2 : Int) ^ 64), 0)) s

/-- SMULH.u (R119): the upper half of the unsigned 128-bit product. -/
def execSmulhU (o : ROps) (s : State) : Result :=
  scalar2 o (fun a b => (BitVec.ofNat 64 (a.toNat * b.toNat / 2 ^ 64), 0)) s

/-- SDIV (R120). -/
def execSdiv (o : ROps) (s : State) : Result :=
  scalar2 o (sdivResult o.md) s

/-- SDIV.u (R120). -/
def execSdivU (o : ROps) (s : State) : Result :=
  scalar2 o udivResult s

/-- SREM (R120). -/
def execSrem (o : ROps) (s : State) : Result :=
  scalar2 o sremResult s

/-- SREM.u (R120). -/
def execSremU (o : ROps) (s : State) : Result :=
  scalar2 o uremResult s

/-- SAND (R121): bitwise. -/
def execSand (o : ROps) (s : State) : Result :=
  scalar2 o (fun a b => (a &&& b, 0)) s

/-- SOR (R121): bitwise. -/
def execSor (o : ROps) (s : State) : Result :=
  scalar2 o (fun a b => (a ||| b, 0)) s

/-- SXOR (R121): bitwise. -/
def execSxor (o : ROps) (s : State) : Result :=
  scalar2 o (fun a b => (a ^^^ b, 0)) s

/-- SSHL (R121). -/
def execSshl (o : ROps) (s : State) : Result :=
  scalar2 o (fun a b => (shiftL a b, 0)) s

/-- SSHR (R121). -/
def execSshr (o : ROps) (s : State) : Result :=
  scalar2 o (fun a b => (shiftR a b, 0)) s

/-- SSRA (R121). -/
def execSsra (o : ROps) (s : State) : Result :=
  scalar2 o (fun a b => (shiftA a b, 0)) s

/-- SMIN (R119): the signed minimum. -/
def execSmin (o : ROps) (s : State) : Result :=
  scalar2 o (fun a b => (if a.slt b then a else b, 0)) s

/-- SMIN.u (R119): the unsigned minimum. -/
def execSminU (o : ROps) (s : State) : Result :=
  scalar2 o (fun a b => (if a.ult b then a else b, 0)) s

/-- SMAX (R119): the signed maximum. -/
def execSmax (o : ROps) (s : State) : Result :=
  scalar2 o (fun a b => (if a.slt b then b else a, 0)) s

/-- SMAX.u (R119): the unsigned maximum. -/
def execSmaxU (o : ROps) (s : State) : Result :=
  scalar2 o (fun a b => (if a.ult b then b else a, 0)) s

/-- SCMP (R122): the outcome goes to every lane of the effective set of p_d. -/
def execScmp (cc : Cond) (u : Bool) (o : ROps) (s : State) : Result :=
  groupLevel s o.g [] fun c g p e =>
    let t := compareMod cc u o.md (g.sreg o.a) (scalarB g o.b)
    commit s c g p e (pWrite o.d (if t then allLanes else 0) 0 (marksR o .s .s .none))

/-- SSEL (R123): s_a where s_c meets the condition against zero, else b. -/
def execSsel (cc : Cond) (o : ROps) (s : State) : Result :=
  groupLevel s o.g [] fun c g p e =>
    let v := if condHolds cc (g.sreg o.c).toInt 0 then g.sreg o.a else scalarB g o.b
    commit s c g p e (sWrite o.d v 0 (marksR o .s .s .s))

/-- SMOV (R124). -/
def execSmov (o : ROps) (s : State) : Result :=
  scalar1 o (fun a _ => a) s

/-- SLIT (R124): the literal sign-extended. -/
def execSlit (o : ROps) (s : State) : Result :=
  groupLevel s o.g [] fun c g p e => commit s c g p e (sWrite o.d (scalarB g o.b) 0 [])

/-- SHI (R124): the literal above bits [31:0] of s_a. -/
def execShi (o : ROps) (s : State) : Result :=
  groupLevel s o.g [] fun c g p e =>
    commit s c g p e (sWrite o.d (uniformB g o.b ++ (g.sreg o.a).setWidth 32) 0 (marksR o .s .none .none))

/-- SCLZ (R124): leading zero bits. -/
def execSclz (o : ROps) (s : State) : Result :=
  scalar1 o (fun a _ => BitVec.ofNat 64 (clz a)) s

/-- SPOPC (R124): one bits. -/
def execSpopc (o : ROps) (s : State) : Result :=
  scalar1 o (fun a _ => BitVec.ofNat 64 (popBits a)) s

end Sys2Proof.Machine
end

