-- ==== Sys2Proof/Machine/VectorInt.lean ====
section
/-!
DEFINITION. Vector integer instructions (R51, R125 to R132).
The model's own choices here: DEDUCED, log 44; DESIGN CHOICE, log 45.
-/
namespace Sys2Proof.Machine

/-- VADD in one lane (R126). -/
def vaddLane (md : Option ModWord) (a b : Word) : Word × Word :=
  signedResult 32 md (a.toInt + b.toInt)

/-- VSUB in one lane (R126). -/
def vsubLane (md : Option ModWord) (a b : Word) : Word × Word :=
  signedResult 32 md (a.toInt - b.toInt)

/-- VMUL in one lane (R126). -/
def vmulLane (md : Option ModWord) (a b : Word) : Word × Word :=
  signedResult 32 md (a.toInt * b.toInt)

/-- VMULH in one lane: the upper word of the signed product (R126). -/
def vmulhLane (a b : Word) : Word × Word :=
  (BitVec.ofInt 32 ((a.toInt * b.toInt) / (2 : Int) ^ 32), 0)

/-- VMULH.u in one lane: the upper word of the unsigned product (R126). -/
def vmulhULane (a b : Word) : Word × Word :=
  (BitVec.ofNat 32 (a.toNat * b.toNat / 2 ^ 32), 0)

/-- VMIN in one lane (R126). -/
def vminLane (a b : Word) : Word × Word :=
  (if a.slt b then a else b, 0)

/-- VMAX in one lane (R126). -/
def vmaxLane (a b : Word) : Word × Word :=
  (if a.slt b then b else a, 0)

/-- VMIN.u in one lane (R126). -/
def vminULane (a b : Word) : Word × Word :=
  (if a.ult b then a else b, 0)

/-- VMAX.u in one lane (R126). -/
def vmaxULane (a b : Word) : Word × Word :=
  (if a.ult b then b else a, 0)

/-- VABSD in one lane: the magnitude of the signed difference (R126). -/
def vabsdLane (a b : Word) : Word × Word :=
  (BitVec.ofNat 32 (a.toInt - b.toInt).natAbs, 0)

/-- VABSD.u in one lane (R126). -/
def vabsdULane (a b : Word) : Word × Word :=
  (BitVec.ofNat 32 ((a.toNat : Int) - (b.toNat : Int)).natAbs, 0)

/-- VAND in one lane (R128). -/
def vandLane (a b : Word) : Word × Word :=
  (a &&& b, 0)

/-- VOR in one lane (R128). -/
def vorLane (a b : Word) : Word × Word :=
  (a ||| b, 0)

/-- VXOR in one lane (R128). -/
def vxorLane (a b : Word) : Word × Word :=
  (a ^^^ b, 0)

/-- VSHL in one lane (R128). -/
def vshlLane (a b : Word) : Word × Word :=
  (shiftL a b, 0)

/-- VSHR in one lane (R128). -/
def vshrLane (a b : Word) : Word × Word :=
  (shiftR a b, 0)

/-- VSRA in one lane (R128). -/
def vsraLane (a b : Word) : Word × Word :=
  (shiftA a b, 0)

/-- VADD.vv (R126). -/
def execVaddVv (o : ROps) (s : State) : Result :=
  vector2 true o (vaddLane o.md) s

/-- VADD.vs (R126). -/
def execVaddVs (o : ROps) (s : State) : Result :=
  vector2 false o (vaddLane o.md) s

/-- VSUB.vv (R126). -/
def execVsubVv (o : ROps) (s : State) : Result :=
  vector2 true o (vsubLane o.md) s

/-- VSUB.vs (R126). -/
def execVsubVs (o : ROps) (s : State) : Result :=
  vector2 false o (vsubLane o.md) s

/-- VMUL.vv (R126). -/
def execVmulVv (o : ROps) (s : State) : Result :=
  vector2 true o (vmulLane o.md) s

/-- VMUL.vs (R126). -/
def execVmulVs (o : ROps) (s : State) : Result :=
  vector2 false o (vmulLane o.md) s

/-- VMULH.vv (R126). -/
def execVmulhVv (o : ROps) (s : State) : Result :=
  vector2 true o vmulhLane s

/-- VMULH.vs (R126). -/
def execVmulhVs (o : ROps) (s : State) : Result :=
  vector2 false o vmulhLane s

/-- VMULH.u.vv (R126). -/
def execVmulhUVv (o : ROps) (s : State) : Result :=
  vector2 true o vmulhULane s

/-- VMULH.u.vs (R126). -/
def execVmulhUVs (o : ROps) (s : State) : Result :=
  vector2 false o vmulhULane s

/-- VAND.vv (R128). -/
def execVandVv (o : ROps) (s : State) : Result :=
  vector2 true o vandLane s

/-- VAND.vs (R128). -/
def execVandVs (o : ROps) (s : State) : Result :=
  vector2 false o vandLane s

/-- VOR.vv (R128). -/
def execVorVv (o : ROps) (s : State) : Result :=
  vector2 true o vorLane s

/-- VOR.vs (R128). -/
def execVorVs (o : ROps) (s : State) : Result :=
  vector2 false o vorLane s

/-- VXOR.vv (R128). -/
def execVxorVv (o : ROps) (s : State) : Result :=
  vector2 true o vxorLane s

/-- VXOR.vs (R128). -/
def execVxorVs (o : ROps) (s : State) : Result :=
  vector2 false o vxorLane s

/-- VSHL.vv (R128). -/
def execVshlVv (o : ROps) (s : State) : Result :=
  vector2 true o vshlLane s

/-- VSHL.vs (R128). -/
def execVshlVs (o : ROps) (s : State) : Result :=
  vector2 false o vshlLane s

/-- VSHR.vv (R128). -/
def execVshrVv (o : ROps) (s : State) : Result :=
  vector2 true o vshrLane s

/-- VSHR.vs (R128). -/
def execVshrVs (o : ROps) (s : State) : Result :=
  vector2 false o vshrLane s

/-- VSRA.vv (R128). -/
def execVsraVv (o : ROps) (s : State) : Result :=
  vector2 true o vsraLane s

/-- VSRA.vs (R128). -/
def execVsraVs (o : ROps) (s : State) : Result :=
  vector2 false o vsraLane s

/-- VMIN.vv (R126). -/
def execVminVv (o : ROps) (s : State) : Result :=
  vector2 true o vminLane s

/-- VMIN.vs (R126). -/
def execVminVs (o : ROps) (s : State) : Result :=
  vector2 false o vminLane s

/-- VMIN.u.vv (R126). -/
def execVminUVv (o : ROps) (s : State) : Result :=
  vector2 true o vminULane s

/-- VMIN.u.vs (R126). -/
def execVminUVs (o : ROps) (s : State) : Result :=
  vector2 false o vminULane s

/-- VMAX.vv (R126). -/
def execVmaxVv (o : ROps) (s : State) : Result :=
  vector2 true o vmaxLane s

/-- VMAX.vs (R126). -/
def execVmaxVs (o : ROps) (s : State) : Result :=
  vector2 false o vmaxLane s

/-- VMAX.u.vv (R126). -/
def execVmaxUVv (o : ROps) (s : State) : Result :=
  vector2 true o vmaxULane s

/-- VMAX.u.vs (R126). -/
def execVmaxUVs (o : ROps) (s : State) : Result :=
  vector2 false o vmaxULane s

/-- VABSD.vv (R126). -/
def execVabsdVv (o : ROps) (s : State) : Result :=
  vector2 true o vabsdLane s

/-- VABSD.vs (R126). -/
def execVabsdVs (o : ROps) (s : State) : Result :=
  vector2 false o vabsdLane s

/-- VABSD.u.vv (R126). -/
def execVabsdUVv (o : ROps) (s : State) : Result :=
  vector2 true o vabsdULane s

/-- VABSD.u.vs (R126). -/
def execVabsdUVs (o : ROps) (s : State) : Result :=
  vector2 false o vabsdULane s

/-- VMAD: the signed product plus c, clamped under rm = 1 (R127). -/
def vectorMad (vv : Bool) (o : ROps) (s : State) : Result :=
  guarded s o.g (vNames vv o ++ [o.c.toNat]) fun c g p e =>
    let r (l : Nat) : Word × Word :=
      signedResult 32 o.md
        ((modA o.md (g.vlane c.p.slot o.a.toNat l)).toInt * (modB o.md (laneB vv g c.p.slot o.b l)).toInt +
         (modC o.md (g.vlane c.p.slot o.c.toNat l)).toInt)
    commit s c g p e
      (vWrite o.d (lanesOf fun l => (r l).1) (laneFlags e fun l => (r l).2) (marksR o .v (bKind vv) .v))

/-- VCMP: each lane's outcome into p_d (R129). -/
def vectorCmp (vv : Bool) (cc : Cond) (u : Bool) (o : ROps) (s : State) : Result :=
  guarded s o.g ([o.a.toNat] ++ (if vv then [(bField o.b).toNat] else [])) fun c g p e =>
    commit s c g p e
      (pWrite o.d (maskOf fun l => compareMod cc u o.md (g.vlane c.p.slot o.a.toNat l)
          (laneB vv g c.p.slot o.b l)) 0 (marksR o .v (bKind vv) .none))

/-- VSEL: a where the predicate c is set, else b (R130). -/
def vectorSel (vv : Bool) (o : ROps) (s : State) : Result :=
  guarded s o.g (vNames vv o) fun c g p e =>
    commit s c g p e
      (vWrite o.d (lanesOf fun l => if bitAt (g.pred o.c) l then g.vlane c.p.slot o.a.toNat l
          else laneB vv g c.p.slot o.b l) 0 (marksR o .v (bKind vv) .none))

/-- VMAD.vv (R127). -/
def execVmadVv (o : ROps) (s : State) : Result :=
  vectorMad true o s

/-- VCMP.vv (R129). -/
def execVcmpVv (cc : Cond) (u : Bool) (o : ROps) (s : State) : Result :=
  vectorCmp true cc u o s

/-- VSEL.vv (R130). -/
def execVselVv (o : ROps) (s : State) : Result :=
  vectorSel true o s

/-- VMAD.vs (R127). -/
def execVmadVs (o : ROps) (s : State) : Result :=
  vectorMad false o s

/-- VCMP.vs (R129). -/
def execVcmpVs (cc : Cond) (u : Bool) (o : ROps) (s : State) : Result :=
  vectorCmp false cc u o s

/-- VSEL.vs (R130). -/
def execVselVs (o : ROps) (s : State) : Result :=
  vectorSel false o s

/-- VNOT (R128). -/
def execVnot (o : ROps) (s : State) : Result :=
  vector1 o (fun a => ~~~a) s

/-- VCLZ (R128). -/
def execVclz (o : ROps) (s : State) : Result :=
  vector1 o (fun a => BitVec.ofNat 32 (clz a)) s

/-- VPOPC (R128). -/
def execVpopc (o : ROps) (s : State) : Result :=
  vector1 o (fun a => BitVec.ofNat 32 (popBits a)) s

/-- VMOV (R131). -/
def execVmov (o : ROps) (s : State) : Result :=
  vector1 o (fun a => a) s

/-- VBCAST: s_b[31:0] or the literal in each lane (R131). -/
def execVbcast (o : ROps) (s : State) : Result :=
  guarded s o.g [o.d.toNat] fun c g p e =>
    commit s c g p e (vWrite o.d (lanesOf fun _ => uniformB g o.b) 0 (marksR o .none .s .none))

/-- VLID: the lane index (R103, R131). -/
def execVlid (o : ROps) (s : State) : Result :=
  guarded s o.g [o.d.toNat] fun c g p e =>
    commit s c g p e (vWrite o.d (lanesOf fun l => BitVec.ofNat 32 l) 0 [])

/-- The source of a VCVTI conversion as an integer, after na and aa at the source width; an
unsigned source's absolute value is itself (R41, R132). -/
def vcvtiSource (cv : IConv) (md : Option ModWord) (a : Word) (pr : DWord) : Int :=
  let neg := match md with
    | some m => m.na
    | none => false
  match cv with
  | .i32i8 => (modA md (a.setWidth 8)).toInt
  | .u32u8 => ((uAbsNeg neg (a.setWidth 8)).toNat : Int)
  | .i32i16 => (modA md (a.setWidth 16)).toInt
  | .u32u16 => ((uAbsNeg neg (a.setWidth 16)).toNat : Int)
  | .i8i32 | .u8i32 | .i16i32 | .u16i32 | .u32i32 | .i64i32 => (modA md a).toInt
  | .u8u32 | .u16u32 | .i32u32 | .u64u32 => ((uAbsNeg neg a).toNat : Int)
  | .i32i64 => (modA md pr).toInt
  | .u32u64 => ((uAbsNeg neg pr).toNat : Int)

/-- The destination range of a VCVTI conversion (R132). -/
def vcvtiRange : IConv → Int × Int
  | .i32i8 | .i32i16 | .i32u32 | .i32i64 => (sMin 32, sMax 32)
  | .u32u8 | .u32u16 | .u32i32 | .u32u64 => (0, uMax 32)
  | .i8i32 => (sMin 8, sMax 8)
  | .u8i32 | .u8u32 => (0, uMax 8)
  | .i16i32 => (sMin 16, sMax 16)
  | .u16i32 | .u16u32 => (0, uMax 16)
  | .i64i32 => (sMin 64, sMax 64)
  | .u64u32 => (0, uMax 64)

/-- Whether a VCVTI conversion writes a pair, and whether it reads one (R132). -/
def vcvtiPairs : IConv → Bool × Bool
  | .i64i32 | .u64u32 => (true, false)
  | .i32i64 | .u32u64 => (false, true)
  | _ => (false, false)

/-- One lane of VCVTI: the nearer end of the destination range with SAT, extended to the written
width (R24, R132). -/
def vcvtiLane (cv : IConv) (md : Option ModWord) (a : Word) (pr : DWord) : DWord × Word :=
  let r := vcvtiRange cv
  saturated 64 r.1 r.2 (vcvtiSource cv md a pr)

/-- VCVTI (R132); a mark on a 64-bit source marks the even register (log 45, DESIGN CHOICE). -/
def execVcvti (cv : IConv) (o : ROps) (s : State) : Result :=
  let pd := (vcvtiPairs cv).1
  let pa := (vcvtiPairs cv).2
  guarded s o.g ([o.d.toNat, o.a.toNat] ++ (if pd then [o.d.toNat + 1] else []) ++
      (if pa then [o.a.toNat + 1] else [])) fun c g p e =>
    let r (l : Nat) : DWord × Word :=
      vcvtiLane cv o.md (g.vlane c.p.slot o.a.toNat l) (pairAt g c.p.slot o.a.toNat l)
    commit s c g p e
      ⟨spread o.d (if pd then 2 else 1) fun k l => ((r l).1 >>> (32 * k)).setWidth 32, none, none,
        laneFlags e fun l => (r l).2, marksR o .v .none .none⟩

end Sys2Proof.Machine
end

