-- ==== Sys2Proof/Machine/Dispatch.lean ====
section
/-!
DEFINITION. One arm for each instruction and event: its meaning, or its rejection by name.
-/
namespace Sys2Proof.Machine

/-- The effect of one instruction or event (R34 to R390). -/
def exec (i : Instr) (s : State) : Host.Outcome State Fault Refusal :=
  match i with
  | .bra o => Sys2Proof.Machine.execBra o s
  | .brx o => Sys2Proof.Machine.execBrx o s
  | .brs cc o => Sys2Proof.Machine.execBrs cc o s
  | .ball o => Sys2Proof.Machine.execBall o s
  | .bany o => Sys2Proof.Machine.execBany o s
  | .brv o => Sys2Proof.Machine.execBrv o s
  | .join o => Sys2Proof.Machine.execJoin o s
  | .call o => Sys2Proof.Machine.execCall o s
  | .ret o => Sys2Proof.Machine.execRet o s
  | .exit o => Sys2Proof.Machine.execExit o s
  | .nop o => Sys2Proof.Machine.execNop o s
  | .sleep o => Sys2Proof.Machine.execSleep o s
  | .sleepWake p => Sys2Proof.Machine.execSleepWake p s
  | .yield o => Sys2Proof.Machine.execYield o s
  | .sadd o => Sys2Proof.Machine.execSadd o s
  | .ssub o => Sys2Proof.Machine.execSsub o s
  | .smul o => Sys2Proof.Machine.execSmul o s
  | .smulh o => Sys2Proof.Machine.execSmulh o s
  | .smulhU o => Sys2Proof.Machine.execSmulhU o s
  | .sdiv o => Sys2Proof.Machine.execSdiv o s
  | .sdivU o => Sys2Proof.Machine.execSdivU o s
  | .srem o => Sys2Proof.Machine.execSrem o s
  | .sremU o => Sys2Proof.Machine.execSremU o s
  | .sand o => Sys2Proof.Machine.execSand o s
  | .sor o => Sys2Proof.Machine.execSor o s
  | .sxor o => Sys2Proof.Machine.execSxor o s
  | .sshl o => Sys2Proof.Machine.execSshl o s
  | .sshr o => Sys2Proof.Machine.execSshr o s
  | .ssra o => Sys2Proof.Machine.execSsra o s
  | .smin o => Sys2Proof.Machine.execSmin o s
  | .sminU o => Sys2Proof.Machine.execSminU o s
  | .smax o => Sys2Proof.Machine.execSmax o s
  | .smaxU o => Sys2Proof.Machine.execSmaxU o s
  | .scmp cc u o => Sys2Proof.Machine.execScmp cc u o s
  | .ssel cc o => Sys2Proof.Machine.execSsel cc o s
  | .smov o => Sys2Proof.Machine.execSmov o s
  | .slit o => Sys2Proof.Machine.execSlit o s
  | .shi o => Sys2Proof.Machine.execShi o s
  | .sclz o => Sys2Proof.Machine.execSclz o s
  | .spopc o => Sys2Proof.Machine.execSpopc o s
  | .vaddVv o => Sys2Proof.Machine.execVaddVv o s
  | .vaddVs o => Sys2Proof.Machine.execVaddVs o s
  | .vsubVv o => Sys2Proof.Machine.execVsubVv o s
  | .vsubVs o => Sys2Proof.Machine.execVsubVs o s
  | .vmulVv o => Sys2Proof.Machine.execVmulVv o s
  | .vmulVs o => Sys2Proof.Machine.execVmulVs o s
  | .vmulhVv o => Sys2Proof.Machine.execVmulhVv o s
  | .vmulhVs o => Sys2Proof.Machine.execVmulhVs o s
  | .vmulhUVv o => Sys2Proof.Machine.execVmulhUVv o s
  | .vmulhUVs o => Sys2Proof.Machine.execVmulhUVs o s
  | .vmadVv o => Sys2Proof.Machine.execVmadVv o s
  | .vmadVs o => Sys2Proof.Machine.execVmadVs o s
  | .vandVv o => Sys2Proof.Machine.execVandVv o s
  | .vandVs o => Sys2Proof.Machine.execVandVs o s
  | .vorVv o => Sys2Proof.Machine.execVorVv o s
  | .vorVs o => Sys2Proof.Machine.execVorVs o s
  | .vxorVv o => Sys2Proof.Machine.execVxorVv o s
  | .vxorVs o => Sys2Proof.Machine.execVxorVs o s
  | .vshlVv o => Sys2Proof.Machine.execVshlVv o s
  | .vshlVs o => Sys2Proof.Machine.execVshlVs o s
  | .vshrVv o => Sys2Proof.Machine.execVshrVv o s
  | .vshrVs o => Sys2Proof.Machine.execVshrVs o s
  | .vsraVv o => Sys2Proof.Machine.execVsraVv o s
  | .vsraVs o => Sys2Proof.Machine.execVsraVs o s
  | .vminVv o => Sys2Proof.Machine.execVminVv o s
  | .vminVs o => Sys2Proof.Machine.execVminVs o s
  | .vminUVv o => Sys2Proof.Machine.execVminUVv o s
  | .vminUVs o => Sys2Proof.Machine.execVminUVs o s
  | .vmaxVv o => Sys2Proof.Machine.execVmaxVv o s
  | .vmaxVs o => Sys2Proof.Machine.execVmaxVs o s
  | .vmaxUVv o => Sys2Proof.Machine.execVmaxUVv o s
  | .vmaxUVs o => Sys2Proof.Machine.execVmaxUVs o s
  | .vabsdVv o => Sys2Proof.Machine.execVabsdVv o s
  | .vabsdVs o => Sys2Proof.Machine.execVabsdVs o s
  | .vabsdUVv o => Sys2Proof.Machine.execVabsdUVv o s
  | .vabsdUVs o => Sys2Proof.Machine.execVabsdUVs o s
  | .vcmpVv cc u o => Sys2Proof.Machine.execVcmpVv cc u o s
  | .vcmpVs cc u o => Sys2Proof.Machine.execVcmpVs cc u o s
  | .vselVv o => Sys2Proof.Machine.execVselVv o s
  | .vselVs o => Sys2Proof.Machine.execVselVs o s
  | .vnot o => Sys2Proof.Machine.execVnot o s
  | .vclz o => Sys2Proof.Machine.execVclz o s
  | .vpopc o => Sys2Proof.Machine.execVpopc o s
  | .vmov o => Sys2Proof.Machine.execVmov o s
  | .vbcast o => Sys2Proof.Machine.execVbcast o s
  | .vlid o => Sys2Proof.Machine.execVlid o s
  | .vcvti cv o => Sys2Proof.Machine.execVcvti cv o s
  | .faddVv o => Sys2Proof.Machine.execFaddVv o s
  | .faddVs o => Sys2Proof.Machine.execFaddVs o s
  | .fsubVv o => Sys2Proof.Machine.execFsubVv o s
  | .fsubVs o => Sys2Proof.Machine.execFsubVs o s
  | .fmulVv o => Sys2Proof.Machine.execFmulVv o s
  | .fmulVs o => Sys2Proof.Machine.execFmulVs o s
  | .ffmaVv o => Sys2Proof.Machine.execFfmaVv o s
  | .ffmaVs o => Sys2Proof.Machine.execFfmaVs o s
  | .fminVv o => Sys2Proof.Machine.execFminVv o s
  | .fminVs o => Sys2Proof.Machine.execFminVs o s
  | .fmaxVv o => Sys2Proof.Machine.execFmaxVv o s
  | .fmaxVs o => Sys2Proof.Machine.execFmaxVs o s
  | .fcmpVv cc o => Sys2Proof.Machine.execFcmpVv cc o s
  | .fcmpVs cc o => Sys2Proof.Machine.execFcmpVs cc o s
  | .fdivVv o => Sys2Proof.Machine.execFdivVv o s
  | .fdivVs o => Sys2Proof.Machine.execFdivVs o s
  | .frcp o => Sys2Proof.Machine.execFrcp o s
  | .frsq o => Sys2Proof.Machine.execFrsq o s
  | .fsqrt o => Sys2Proof.Machine.execFsqrt o s
  | .fexp2 o => Sys2Proof.Machine.execFexp2 o s
  | .flog2 o => Sys2Proof.Machine.execFlog2 o s
  | .frnd o => Sys2Proof.Machine.execFrnd o s
  | .fcvt cv o => Sys2Proof.Machine.execFcvt cv o s
  | .hadd2Vv o => Sys2Proof.Machine.execHadd2Vv o s
  | .hadd2Vs o => Sys2Proof.Machine.execHadd2Vs o s
  | .hmul2Vv o => Sys2Proof.Machine.execHmul2Vv o s
  | .hmul2Vs o => Sys2Proof.Machine.execHmul2Vs o s
  | .hfma2Vv o => Sys2Proof.Machine.execHfma2Vv o s
  | .hfma2Vs o => Sys2Proof.Machine.execHfma2Vs o s
  | .hmin2Vv o => Sys2Proof.Machine.execHmin2Vv o s
  | .hmin2Vs o => Sys2Proof.Machine.execHmin2Vs o s
  | .hmax2Vv o => Sys2Proof.Machine.execHmax2Vv o s
  | .hmax2Vs o => Sys2Proof.Machine.execHmax2Vs o s
  | .hcvt2 cv o => Sys2Proof.Machine.execHcvt2 cv o s
  | .xshf o => Sys2Proof.Machine.execXshf o s
  | .xbrd o => Sys2Proof.Machine.execXbrd o s
  | .xxor o => Sys2Proof.Machine.execXxor o s
  | .xup o => Sys2Proof.Machine.execXup o s
  | .xdn o => Sys2Proof.Machine.execXdn o s
  | .xred op o => Sys2Proof.Machine.execXred op o s
  | .xscan op ex o => Sys2Proof.Machine.execXscan op ex o s
  | .xvote vt o => Sys2Proof.Machine.execXvote vt o s
  | .pand o => Sys2Proof.Machine.execPand o s
  | .por o => Sys2Proof.Machine.execPor o s
  | .pxor o => Sys2Proof.Machine.execPxor o s
  | .pnot o => Sys2Proof.Machine.execPnot o s
  | .pfrom o => Sys2Proof.Machine.execPfrom o s
  | .pto o => Sys2Proof.Machine.execPto o s
  | .pcnt o => Sys2Proof.Machine.execPcnt o s
  | .ld o => Sys2Proof.Machine.execLd o s
  | .st o => Sys2Proof.Machine.execSt o s
  | .lds o => Sys2Proof.Machine.execLds o s
  | .sts o => Sys2Proof.Machine.execSts o s
  | .ldu o => Sys2Proof.Machine.execLdu o s
  | .ldm o => Sys2Proof.Machine.execLdm o s
  | .stm o => Sys2Proof.Machine.execStm o s
  | .prf o => Sys2Proof.Machine.execPrf o s
  | .hqry o => Sys2Proof.Machine.execHqry o s
  | .aop o => Sys2Proof.Machine.execAop o s
  | .acas o => Sys2Proof.Machine.execAcas o s
  | .saop o => Sys2Proof.Machine.execSaop o s
  | .sacas o => Sys2Proof.Machine.execSacas o s
  | .ahist o => Sys2Proof.Machine.execAhist o s
  | .csnap o => Sys2Proof.Machine.execCsnap o s
  | .fence o => Sys2Proof.Machine.execFence o s
  | .synca o => Sys2Proof.Machine.execSynca o s
  | .syncr o => Sys2Proof.Machine.execSyncr o s
  | .sack o => Sys2Proof.Machine.execSack o s
  | .bara o => Sys2Proof.Machine.execBara o s
  | .barw o => Sys2Proof.Machine.execBarw o s
  | .barrierPhaseComplete br => Sys2Proof.Machine.execBarrierPhaseComplete br s
  | .gangRoundMessage grid dst frm slot => Sys2Proof.Machine.execGangRoundMessage grid dst frm slot s
  | .dcf o => Sys2Proof.Machine.execDcf o s
  | .claim ty o => Sys2Proof.Machine.execClaim ty o s
  | .acq ty o => Sys2Proof.Machine.execAcq ty o s
  | .acqTry ty o => Sys2Proof.Machine.execAcqTry ty o s
  | .rel ty o => Sys2Proof.Machine.execRel ty o s
  | .relTakesEffect p => Sys2Proof.Machine.execRelTakesEffect p s
  | .rstat ty it o => Sys2Proof.Machine.execRstat ty it o s
  | .reeveTest cl => Sys2Proof.Machine.execReeveTest cl s
  | .reeveFreeze cl req => Sys2Proof.Machine.execReeveFreeze cl req s
  | .admission grid dl cl hw cores => Sys2Proof.Machine.execAdmission grid dl cl hw cores s
  | .blockComplete blk => Sys2Proof.Machine.execBlockComplete blk s
  | .copy op ch o => Sys2Proof.Machine.execCopy op ch o s
  | .qfence mask o => Sys2Proof.Machine.execQfence mask o s
  | .cpoll mask o => Sys2Proof.Machine.execCpoll mask o s
  | .sleept o => Sys2Proof.Machine.execSleept o s
  | .sleeptWake p => Sys2Proof.Machine.execSleeptWake p s
  | .carterOperationStart blk ch => Sys2Proof.Machine.execCarterOperationStart blk ch s
  | .carterOperationComplete blk ch => Sys2Proof.Machine.execCarterOperationComplete blk ch s
  | .mma o => Sys2Proof.Machine.execMma o s
  | .copym o => Sys2Proof.Machine.execCopym o s
  | .mld o => Sys2Proof.Machine.execMld o s
  | .mst o => Sys2Proof.Machine.execMst o s
  | .mzero o => Sys2Proof.Machine.execMzero o s
  | .mbatch o => Sys2Proof.Machine.execMbatch o s
  | .mwait o => Sys2Proof.Machine.execMwait o s
  | .gleanerGather core => Sys2Proof.Machine.execGleanerGather core s
  | .arrayOperationStart core => Sys2Proof.Machine.execArrayOperationStart core s
  | .arrayOperationComplete core => Sys2Proof.Machine.execArrayOperationComplete core s
  | .subarrayGate core => Sys2Proof.Machine.execSubarrayGate core s
  | .vquant o => Sys2Proof.Machine.execVquant o s
  | .vdeq km1 ctr bf o => Sys2Proof.Machine.execVdeq km1 ctr bf o s
  | .wpop o => Sys2Proof.Machine.execWpop o s
  | .enq o => Sys2Proof.Machine.execEnq o s
  | .sigop op sc acq o => Sys2Proof.Machine.execSigop op sc acq o s
  | .sigwait cd sc o => Sys2Proof.Machine.execSigwait cd sc o s
  | .trap o => Sys2Proof.Machine.execTrap o s
  | .tret o => Sys2Proof.Machine.execTret o s
  | .brk o => Sys2Proof.Machine.execBrk o s
  | .ppt o => Sys2Proof.Machine.execPpt o s
  | .rdsr o => Sys2Proof.Machine.execRdsr o s
  | .wrsr o => Sys2Proof.Machine.execWrsr o s
  | .trmark o => Sys2Proof.Machine.execTrmark o s
  | .bist cls o => Sys2Proof.Machine.execBist cls o s
  | .clauseWaitSatisfied p => Sys2Proof.Machine.execClauseWaitSatisfied p s
  | .fetchFault p => Sys2Proof.Machine.execFetchFault p s
  | .coreDispatchCycle core => Sys2Proof.Machine.execCoreDispatchCycle core s
  | .passedOverPin core => Sys2Proof.Machine.execPassedOverPin core s
  | .agePriority p => Sys2Proof.Machine.execAgePriority p s
  | .ageingSwap grp => Sys2Proof.Machine.execAgeingSwap grp s
  | .compaction grp => Sys2Proof.Machine.execCompaction grp s
  | .trapBackoffRetry p => Sys2Proof.Machine.execTrapBackoffRetry p s
  | .permitHoldExpiry core => Sys2Proof.Machine.execPermitHoldExpiry core s
  | .storeBufferDrain grp n => Sys2Proof.Machine.execStoreBufferDrain grp n s
  | .storeAck n => Sys2Proof.Machine.execStoreAck n s
  | .memoryResponse n => Sys2Proof.Machine.execMemoryResponse n s
  | .homeRequest n => Sys2Proof.Machine.execHomeRequest n s
  | .remoteNak n => Sys2Proof.Machine.execRemoteNak n s
  | .deadlineExpiry n => Sys2Proof.Machine.execDeadlineExpiry n s
  | .packageClockFault => Sys2Proof.Machine.execPackageClockFault s
  | .pageWalk die vd va => Sys2Proof.Machine.execPageWalk die vd va s
  | .faultResponse vd v => Sys2Proof.Machine.execFaultResponse vd v s
  | .pginv vd v => Sys2Proof.Machine.execPginv vd v s
  | .pginvComplete vd => Sys2Proof.Machine.execPginvComplete vd s
  | .atsInvalidation vd vpn n => Sys2Proof.Machine.execAtsInvalidation vd vpn n s
  | .priResponse tag ok => Sys2Proof.Machine.execPriResponse tag ok s
  | .partctlGo v => Sys2Proof.Machine.execPartctlGo v s
  | .partitionChangeDone => Sys2Proof.Machine.execPartitionChangeDone s
  | .vdrcbWrite vd v => Sys2Proof.Machine.execVdrcbWrite vd v s
  | .tokenArbitration arb inst reqs => Sys2Proof.Machine.execTokenArbitration arb inst reqs s
  | .stopRequest blk => Sys2Proof.Machine.execStopRequest blk s
  | .pptWindowExpiry grp => Sys2Proof.Machine.execPptWindowExpiry grp s
  | .forcedSave grp => Sys2Proof.Machine.execForcedSave grp s
  | .blockSaveComplete blk => Sys2Proof.Machine.execBlockSaveComplete blk s
  | .haltRaise vd fdom => Sys2Proof.Machine.execHaltRaise vd fdom s
  | .vfEnableClear => Sys2Proof.Machine.execVfEnableClear s
  | .vdstopGo vd => Sys2Proof.Machine.execVdstopGo vd s
  | .vdstopHold vd on => Sys2Proof.Machine.execVdstopHold vd on s
  | .vdhaltRaise vd fdom => Sys2Proof.Machine.execVdhaltRaise vd fdom s
  | .vdhaltClear vd fdom => Sys2Proof.Machine.execVdhaltClear vd fdom s
  | .blockDispatch die => Sys2Proof.Machine.execBlockDispatch die s
  | .energyWindow => Sys2Proof.Machine.execEnergyWindow s
  | .slicePreempt die => Sys2Proof.Machine.execSlicePreempt die s
  | .qcfgWrite q v => Sys2Proof.Machine.execQcfgWrite q v s
  | .qdoorWrite q v => Sys2Proof.Machine.execQdoorWrite q v s
  | .qabort q v => Sys2Proof.Machine.execQabort q v s
  | .packetConsume q => Sys2Proof.Machine.execPacketConsume q s
  | .launchStartDeferred q => Sys2Proof.Machine.execLaunchStartDeferred q s
  | .launchComplete grid => Sys2Proof.Machine.execLaunchComplete grid s
  | .feedStartDeferred q => Sys2Proof.Machine.execFeedStartDeferred q s
  | .copyPacketComplete q => Sys2Proof.Machine.execCopyPacketComplete q s
  | .waitEvaluation q => Sys2Proof.Machine.execWaitEvaluation q s
  | .waitDeadlineExpiry q => Sys2Proof.Machine.execWaitDeadlineExpiry q s
  | .millPrefetch q => Sys2Proof.Machine.execMillPrefetch q s
  | .evackWrite vd v => Sys2Proof.Machine.execEvackWrite vd v s
  | .kzctlStop v => Sys2Proof.Machine.execKzctlStop v s
  | .blockDebugStopped blk => Sys2Proof.Machine.execBlockDebugStopped blk s
  | .kzctlRun v => Sys2Proof.Machine.execKzctlRun v s
  | .kzctlStep v => Sys2Proof.Machine.execKzctlStep v s
  | .kzctlQui v => Sys2Proof.Machine.execKzctlQui v s
  | .kzshselWrite v => Sys2Proof.Machine.execKzshselWrite v s
  | .breakpointStop p => Sys2Proof.Machine.execBreakpointStop p s
  | .powerWindow clk => Sys2Proof.Machine.execPowerWindow clk s
  | .idleEntry => Sys2Proof.Machine.execIdleEntry s
  | .idleWake => Sys2Proof.Machine.execIdleWake s
  | .bistctlGo die v => Sys2Proof.Machine.execBistctlGo die v s
  | .bistComplete die => Sys2Proof.Machine.execBistComplete die s
  | .lmargctlGo die v => Sys2Proof.Machine.execLmargctlGo die v s
  | .lmargScanComplete die => Sys2Proof.Machine.execLmargScanComplete die s
  | .recgo v => Sys2Proof.Machine.execRecgo v s
  | .recgoCheckComplete => Sys2Proof.Machine.execRecgoCheckComplete s
  | .attestationRequest nonce => Sys2Proof.Machine.execAttestationRequest nonce s
  | .coldReset mfg => Sys2Proof.Machine.execColdReset mfg s
  | .warmReset => Sys2Proof.Machine.execWarmReset s
  | .functionLevelReset vd => Sys2Proof.Machine.execFunctionLevelReset vd s
  | .cxlMemError die vd va => Sys2Proof.Machine.execCxlMemError die vd va s
  | .physWindowAccess off wr => Sys2Proof.Machine.execPhysWindowAccess off wr s
  | .flitReceive port f => Sys2Proof.Machine.execFlitReceive port f s
  | .flitNak port seq => Sys2Proof.Machine.execFlitNak port seq s
  | .replayTimeout port => Sys2Proof.Machine.execReplayTimeout port s
  | .portDown port => Sys2Proof.Machine.execPortDown port s
  | .portRetrainTimeout port => Sys2Proof.Machine.execPortRetrainTimeout port s
  | .fabricRead t => Sys2Proof.Machine.execFabricRead t s
  | .fabricWrite t => Sys2Proof.Machine.execFabricWrite t s
  | .fabricAddFp32 t => Sys2Proof.Machine.execFabricAddFp32 t s
  | .fabricAddBf16 t => Sys2Proof.Machine.execFabricAddBf16 t s
  | .fabricReadData t => Sys2Proof.Machine.execFabricReadData t s
  | .fabricAck t => Sys2Proof.Machine.execFabricAck t s
  | .fabricRefusal t => Sys2Proof.Machine.execFabricRefusal t s
  | .fabricDeadlineExpiry tag => Sys2Proof.Machine.execFabricDeadlineExpiry tag s
  | .registerWrite fn off v => Sys2Proof.Machine.execRegisterWrite fn off v s
  | .illegalInstructionWord p addr cause => Sys2Proof.Machine.execIllegalInstructionWord p addr cause s
  | .wpopWaitExpiry p => Sys2Proof.Machine.execWpopWaitExpiry p s
  | .dcfWritebackDone p => Sys2Proof.Machine.execDcfWritebackDone p s
  | .fabricPortUp port => Sys2Proof.Machine.execFabricPortUp port s

end Sys2Proof.Machine
end

