-- ==== Sys2Proof/Machine/Round.lean ====
section
/-!
DEFINITION. The items of the agenda and their effects, a round of the package's own activity, and a
program placed by hand (R12, R13, R86, R276, R283; logs 1, 14).
The model's own choices here: DESIGN CHOICE, logs 1, 6, 14, 23.
-/
namespace Sys2Proof.Machine

/-- Time passes: the timebase advances, unless a clock fault has stopped it (R13, R265). -/
def State.tick (s : State) (n : Nat) : State :=
  if s.clkFault then s else { s with timebase := s.timebase + BitVec.ofNat 64 n }

/-- A line leaves its home: written back when dirty, and gone from L2 and LLC (R268, R275). -/
def State.evictHome (s : State) (die : BitVec 2) (vd : BitVec 8) (va : Va) : State :=
  match s.homeLine? die vd va with
  | none => s
  | some h =>
    (s.writeBack h).dropHome h

/-- A clean line leaves an RDC, unless a store that passed it has not arrived (R259, R288). -/
def State.evictRdc (s : State) (die : BitVec 2) (k : LineKey) : State :=
  { s with rdc := s.rdc.filter fun x => !(x.die == die && x.key == k && x.passed.isEmpty) }

/-- A line leaves an L1, unless it keeps a store's bytes (R174). -/
def State.evictL1 (s : State) (core : BitVec 9) (k : LineKey) : State :=
  { s with l1 := s.l1.filter fun x => !(x.core == core && x.key == k && x.keep.isEmpty) }

/-- Whether an agenda item's instruction is a device event. -/
def isEvent (i : Instr) : Bool := (opcodeOf i).isNone

/-- Whether a path's oldest instruction may retire: it has dispatched and executed and waits for nothing, and the
group's paths are not being moved (R88, R90, R95, R150). -/
def State.mayRetire (s : State) (r : PathRef) : Bool :=
  match s.group? r.grp with
  | none => false
  | some g => !g.moving && (g.path r.slot).any fun p => p.wait.isNone && (p.liveRob.head?.any fun e => e.done)

/-- The effect of one agenda item: an event is executed, a path runs its oldest instruction, one that has executed
retires, a line or a cached walk leaves, time passes. -/
def stepItem (ex : Instr → State → Result) (x : Item) (s : State) : Result :=
  match x with
  | .ev i => if isEvent i then ex i s else .next s
  | .run r =>
    match fetch s r with
    | .idle s => .next s
    | .run s i => ex i s
  | .retire r =>
    if !s.mayRetire r then .next s
    else match fetch s r with
      | .idle s => .next s
      | .run s i => ex i s
  | .evictHome d v a => .next (s.evictHome d v a)
  | .evictRdc d k => .next (s.evictRdc d k)
  | .evictL1 c k => .next (s.evictL1 c k)
  | .dropWalk d v n =>
    .next { s with walks := s.walks.filter fun w => !(w.die == d && w.vd == v && w.vpn == n) }
  | .portLost n => execPortDown n s
  | .powerWindow => execPowerWindow ([(0 : BitVec 2), 1, 2, 3].map s.topClock) s
  | .tick n => .next (s.tick n)
  | .removeCore c out => .next (s.removeCore c out)
  | .setVfEnable => .next { s.wake with vfEnable := !s.mfg }
  | .softError vd fdom => .next (s.raiseHalt vd fdom false false)

/-! ### A round of the package's own activity (log 1, DESIGN CHOICE) -/

/-- The barrier slots of a list that have arrivals. -/
def openSlots (w : Nat) (bs : List BarSlot) : List (BitVec w) :=
  (bs.filter fun x => x.arrivals != 0).map fun x => BitVec.ofNat w x.slot

/-- A group's items: its drains, its swaps and its saves; what its paths do stands in their core's cycle. -/
def groupItems (g : Group) : List Item :=
  (g.sb.map fun e => .ev (.storeBufferDrain g.id e.id)) ++
    [.ev (.ageingSwap g.id), .ev (.compaction g.id), .ev (.pptWindowExpiry g.id), .ev (.forcedSave g.id)]

/-- A block's items: its barriers, its channels, its save, its end. -/
def blockItems (b : Block) : List Item :=
  ((openSlots 4 b.bars).map fun n => .ev (.barrierPhaseComplete (.blk b.id n))) ++
    (b.chans.flatMap fun c =>
      [.ev (.carterOperationStart b.id (BitVec.ofNat 4 c.num)),
       .ev (.carterOperationComplete b.id (BitVec.ofNat 4 c.num))]) ++
    [.ev (.blockDebugStopped b.id), .ev (.blockSaveComplete b.id), .ev (.blockComplete b.id)]

/-- A grid's items: the barriers of its levels, its end. -/
def gridItems (gr : Grid) : List Item :=
  (gr.levels.flatMap fun d =>
    let dl : BitVec 2 := BitVec.ofNat 2 d.idx
    (d.clus.flatMap fun c => (openSlots 4 c.bars).map fun n =>
      .ev (.barrierPhaseComplete (.clu gr.id dl (BitVec.ofNat 4 c.idx) n))) ++
    ((openSlots 6 d.bars).map fun n => .ev (.barrierPhaseComplete (.die gr.id dl n))) ++
    (d.gangs.flatMap fun x =>
      let n : BitVec 6 := BitVec.ofNat 6 x.slot
      .ev (.barrierPhaseComplete (.gang gr.id dl n)) ::
        gr.levels.map fun e => .ev (.gangRoundMessage gr.id dl (BitVec.ofNat 2 e.idx) n))) ++
    [.ev (.launchComplete gr.id)]

/-- A core's items: its array, its permits, its cycle. -/
def coreItems (c : BitVec 9) : List Item :=
  [.ev (.gleanerGather c), .ev (.arrayOperationStart c), .ev (.arrayOperationComplete c),
   .ev (.subarrayGate c), .ev (.permitHoldExpiry c), .ev (.passedOverPin c), .ev (.coreDispatchCycle c)]

/-- The cores with resident blocks, with work at their array, or with sub-arrays that are awake (R239). -/
def State.busyCores (s : State) : List (BitVec 9) :=
  (((s.blocks.filter fun b => b.phase == .resident).map fun b => b.core) ++
    (s.cores.filter fun k => k.awake || !k.array.isEmpty).map fun k => k.id).foldl (fun cs c =>
      if cs.contains c then cs else cs ++ [c]) []

/-- The clusters whose Reeve has a request, with their items. -/
def clusterItems (k : Cluster) : List Item :=
  (k.deferred.filter fun r => 64 ≤ r.passed && !r.frozen).map (fun r => .ev (.reeveFreeze k.id r.id)) ++
    (if k.queue.isEmpty && k.retest.isEmpty then [] else [.ev (.reeveTest k.id)])

/-- What is on its way: requests, stores, answers; their deadlines. -/
def State.memoryItems (s : State) : List Item :=
  (s.reqs.flatMap fun q => [.ev (.homeRequest q.n), .ev (.deadlineExpiry q.n)]) ++
    (s.flight.flatMap fun f => [.ev (.homeRequest f.id), .ev (.storeAck f.id), .ev (.deadlineExpiry f.id)]) ++
    ((s.resps.filter fun x => !x.there).flatMap fun x =>
      [.ev (.memoryResponse x.n), .ev (.remoteNak x.n), .ev (.deadlineExpiry x.n)]) ++
    s.grids.flatMap fun gr => gr.levels.flatMap fun d => d.gangs.flatMap fun x =>
      x.sent.map fun m => .ev (.deadlineExpiry m.n)

/-- A cycle of the die-to-die ports for each flit that waits at one: port `4 a + b` is that of die `a`
towards its neighbour `b` (R10, R311). -/
def State.crossItems (s : State) : List Item :=
  (List.range 16).flatMap fun n =>
    let cs := s.crossings (BitVec.ofNat 2 (n / 4)) (BitVec.ofNat 2 n)
    let vds := cs.foldl (fun l c => if l.contains c.vd then l else l ++ [c.vd]) []
    cs.flatMap fun c => List.replicate c.left (.ev (.tokenArbitration 5 n vds))

/-- A cycle of a fabric port for each flit it has still to send (R311, R388). -/
def portItems (p : Port) : List Item :=
  let vds := p.queue.foldl (fun l x => if l.contains x.vd || (p.nextOf x.vd).isNone then l else l ++ [x.vd]) []
  p.queue.flatMap fun x => x.rest.map fun _ => .ev (.tokenArbitration 6 p.num.toNat vds)

/-- A queue's items. -/
def State.queueItems (s : State) (q : BitVec 10) : List Item :=
  let t := s.thread q
  (if t.ending != [] || t.sigs != [] || (s.qEnabled q && (t.overrun || t.held.isNone)) then [.ev (.packetConsume q)]
    else []) ++
    (if t.held.isSome then
      [.ev (.launchStartDeferred q), .ev (.feedStartDeferred q), .ev (.waitEvaluation q),
       .ev (.waitDeadlineExpiry q)] else []) ++
    (if t.lane.isEmpty then [] else [.ev (.copyPacketComplete q)])

/-- A virtual device's items. -/
def vdItems (d : VirtDev) : List Item :=
  (if d.pginv.isSome then [.ev (.pginvComplete d.vd)] else []) ++
    d.raised.map fun h => .ev (.haltRaise d.vd h.fdom)

/-- A port's and the package's remaining items; a window of 1 ms ends where the timebase is a multiple of 1,000,000
(R13, R361). -/
def State.packageItems (s : State) : List Item :=
  (s.ports.flatMap fun p => portItems p ++ [.ev (.replayTimeout p.num), .ev (.portRetrainTimeout p.num)] ++
      (if s.portLost p then [.portLost p.num] else [])) ++
    (s.txns.map fun t => .ev (.fabricDeadlineExpiry t.tag)) ++
    (s.bist.map fun x => .ev (.bistComplete x.1)) ++ (s.margin.map fun x => .ev (.lmargScanComplete x.1)) ++
    (if s.partPend.isSome then [.ev .partitionChangeDone] else []) ++
    (if s.recovery then [.ev .recgoCheckComplete] else []) ++
    (if s.grids.isEmpty then [] else
      [(0 : BitVec 2), 1, 2, 3].flatMap fun d => [.ev (.blockDispatch d), .ev (.slicePreempt d)]) ++
    (if s.timebase.toNat % 1000000 = 0 then
      [.powerWindow] else []) ++
    (if s.power == .active then [.ev .idleEntry] else if s.idle && !s.waitDue then [] else [.ev .idleWake])

/-- One round of the package's own activity: whatever may be due is tried once, and a tick passes. -/
def State.round (s : State) : List Item :=
  s.crossItems ++ s.memoryItems ++ s.groups.flatMap groupItems ++ s.blocks.flatMap blockItems ++
    s.grids.flatMap gridItems ++ s.clusters.flatMap clusterItems ++ s.busyCores.flatMap coreItems ++
    (((List.range 1024).map fun n => BitVec.ofNat 10 n).filter fun q =>
      s.qEnabled q || s.threads.any fun t => t.q == q).flatMap s.queueItems ++
    s.vds.flatMap vdItems ++ s.packageItems ++ [.ev .energyWindow, .tick 1]

/-- The placed code's address. -/
def placeVa : Va := 0x100000000

/-- A kernel of one group of one block with every register allocated (R75). -/
def placeDesc : Desc :=
  { gang := false, entry := placeVa.setWidth 64, handler := 0, livetab := 0, wmap := 0, groups := 1,
    blocks := 1, regs8 := 8, power := 0, gclass := 0, feedsz := 0, dstack := 64, nlive := 0,
    args := 0, perLane := 0, claim := ⟨8, 0, 0, 0⟩, base := ⟨8, 0, 0, 0⟩ }

/-- A root for virtual device 0 that homes every address on die 0 (R310). -/
def placeRoot : Root :=
  { node := { va := 0, level := 0, prio := 0, fdom := 0, weight := 1, regcap := 128, scrcap := 128,
              tilecap := 32, engcap := 16, energy := 0xFFFFFFFE, parent := 0, recarea := 0,
              reccount := 1 },
    good := true, ptroot := [0, 0, 0, 0], seed := 0, mask := 1, part := 0, nhand := 1, nslot := 1,
    htab := 0, savepool := 0 }

/-- Code of one instruction at `placeVa`, in virtual device 0, as the one group of a fresh block on
core 0 (log 14, DESIGN CHOICE). -/
def State.placeCode (s : State) (code : List Byte) : State :=
  let n := s.nextId
  let leaf : Leaf := ⟨0, false, false, 0, 0, true, false, false⟩
  let line : HomeLine :=
    ⟨0, 0, placeVa, (bytesOfWord 0xF1000000 ++ code ++ List.replicate 128 0).take 128, 0, leaf, true⟩
  let d := s.vdev 0
  let gr : Grid := {
    id := n, vd := 0, queue := 0, seq := 0, desc := placeDesc, wmap := [], args := [],
    levels := [⟨0, some 0, [], [], [⟨0, some 0, [], ⟨128, 32, 128, 16⟩⟩], none⟩],
    nodes := [placeRoot.node], fdom := 0, deficit := 0, resume := [],
    halted := false }
  let b : Block := {
    id := n + 1, grid := n, vd := 0, bid := 0, nblk := 1, cid := 0, nclu := 1,
    dieid := 0, diedim := 1, blin := 0, ngrp := 1, core := 0, phase := .resident,
    claim := ⟨8, 0, 0, 0⟩, alloc := ⟨8, 0, 0, 0⟩, pend := ⟨0, 0, 0, 0⟩, acqd := [], win := [], bars := [], tile := [],
    scr := [], chans := [], slot := none, stop := none, since := 0, dbg := false, dbgReq := false,
    dbgWhy := none, stepReq := none }
  let g := freshGroup (n + 2) (n + 1) 0 64 0 placeVa zeroSregs
  let s := s.setVdev { d with root := some placeRoot, pginv := none }
  let s := s.setHome line
  let s := (List.range 4).foldl (fun s i => s.setReg (kenzuKey 0 (0x80 + 8 * i)) 0) s
  { s with grids := gr :: s.grids, blocks := b :: s.blocks, groups := g :: s.groups,
           agenda := [.run ⟨n + 2, false⟩], cur := none, nextId := n + 3 }

end Sys2Proof.Machine
end

