-- ==== Sys2Proof/Machine/Step.lean ====
section
/-!
DEFINITION. One step: the head of the agenda; and the placing of an instruction where the next step
fetches it.
The model's own choices here: DESIGN CHOICE, logs 1, 14.
-/
namespace Sys2Proof.Machine

/-- One step of the package (log 1, DESIGN CHOICE): the next item of the agenda, or, when none is left, the agenda
of another round. -/
def step (s : State) : Host.Outcome State Fault Refusal :=
  match s.agenda with
  | [] => .next { s with agenda := s.round }
  | x :: t => Sys2Proof.Machine.stepItem exec x { s with agenda := t }

/-- The state with an instruction placed where the next step fetches it (log 14, DESIGN CHOICE): a resident group
of a fresh block whose path stands at a header of one mixed instruction, in a line its die already
holds, and the agenda asks for that path. -/
def State.withFetchWord (s : State) (nbits w : Nat) : State :=
  s.placeCode (Sys2Proof.tableBytes nbits w)

end Sys2Proof.Machine
end

