-- ==== Sys2Proof/Safety.lean ====
section
/-!
DEFINITION. What a good state of the package is, and the terms the statements use: the acting path, its
effective set, retirement, and what the spec says a register-only instruction writes.
-/
namespace Sys2Proof.Machine

/-- Memory, the staging window, every block's tile and scratch memory, and the register bank are in
canonical form. -/
def State.Canonical (s : State) : Prop :=
  Memory.wf s.mem = true ∧ RegBank.wf s.regs = true ∧ Memory.wf s.staging = true ∧
    ∀ b ∈ s.blocks, Memory.wf b.tile = true ∧ Memory.wf b.scr = true

/-- Every number a rename map names is a physical register the group holds (R93). -/
def Group.Named (g : Group) : Prop :=
  ∀ slot, ∀ e ∈ g.map slot, ∀ n, e.name = some n → ∃ q ∈ g.phys, q.num = n

/-- The paths of the two maps have no lane in common (R88). -/
def Group.Apart (g : Group) : Prop := g.held false &&& g.held true = 0

/-- The group's register files have their sizes: s1 to s62 behind s0, p0 to p7, one entry for each of 64
v-registers in the map of an occupied slot; and its maps name registers it holds (R86, R93). -/
def Group.Shaped (g : Group) : Prop :=
  g.sregs.length = 63 ∧ g.preds.length = 8 ∧ g.m0.length = 64 ∧
    (g.slot1.isSome = true → g.m1.length = 64) ∧ g.Named

/-- A path acts: fetching found it, its group and its slot. -/
def State.Acts (s : State) (c : Cur) (g : Group) (p : Path) : Prop :=
  s.cur = some c ∧ s.group? c.p.grp = some g ∧ g.path c.p.slot = some p

/-- The acting path's group belongs to a block of a grid. -/
def State.ActsIn (s : State) (c : Cur) (g : Group) (p : Path) (b : Block) (gr : Grid) : Prop :=
  s.Acts c g p ∧ s.block? g.blk = some b ∧ s.grid? b.grid = some gr

/-- The effective set of an instruction with a guard (R46). -/
def Path.eff (p : Path) (g : Group) (n : BitVec 3) : Word := p.mask &&& g.guard n

/-- The acting instruction has retired and left its group as `g`: the path stands after it, and a replay
entry it held is free (R97, R176). -/
def State.retired (s : State) (c : Cur) (g : Group) (p : Path) : State :=
  s.setGroup ((g.freeReplay p).setPath c.p.slot (some (p.advance c)))

/-- The acting path has gone to the header at `t`; its group is left as `g` (R104). -/
def State.went (s : State) (c : Cur) (g : Group) (p : Path) (t : Va) : State :=
  s.setGroup (g.setPath c.p.slot (some (p.goto t)))

/-- The acting instruction waits, its path's oldest, under a stall reason (R153). -/
def State.waits (s : State) (c : Cur) (g : Group) (p : Path) (k : WaitKind) (reason : Nat) : State :=
  s.setGroup (g.setPath c.p.slot (some { p with
    age := p.ageNow, quiet := p.quietNow, wait := some ⟨k, reason,
      match p.wait with
      | some w => w.since
      | none => s.timebase.toNat, c.next, c.last⟩ }))

/-! ### Where instructions and events act -/

/-- A path waits, and its wait may end: its group runs, its block lets it retire, and no breakpoint holds it
(R97, R351, R353). -/
def State.Waiting (s : State) (r : PathRef) (g : Group) (p : Path) (b : Block) (w : Wait) : Prop :=
  s.group? r.grp = some g ∧ g.path r.slot = some p ∧ s.block? g.blk = some b ∧ p.wait = some w ∧
    g.phase = .running ∧ b.lets r p = true ∧
    (p.bpSkip = true ∨ s.breakAt b.vd (if p.pc = p.hdr then p.hdr + 4 else p.pc) = false)

/-- A path may run its next instruction: it is in a running group of a block that lets it, it does not
wait, it runs no handler or one with its permit that the kernel names, nothing makes it leave the instruction
unfetched, and no breakpoint holds it (R91, R97, R101, R154, R351, R353). -/
def State.MayRun (s : State) (r : PathRef) (g : Group) (p : Path) (b : Block) : Prop :=
  s.group? r.grp = some g ∧ g.path r.slot = some p ∧ s.block? g.blk = some b ∧ g.phase = .running ∧
    b.lets r p = true ∧ p.wait = none ∧ (∀ h, p.handler = some h → h.permit = true ∧ h.dflt = none) ∧
    g.stopsFetching r.slot p = false ∧
    (p.bpSkip = true ∨ s.breakAt b.vd (if p.pc = p.hdr then p.hdr + 4 else p.pc) = false)

/-- The group's trap state and phase after a fatal fault (R98, R157). -/
def Group.frozenBy (g : Group) (slot : Bool) (pc hdr : Va) (cause : BitVec 8) (lanes code : Word)
    (addr : DWord) : Group :=
  { g with
    phase := .frozen, replay := [],
    trap := { cause := cause, pc := pc.setWidth 64, hdr := hdr.setWidth 64, mask := lanes,
              code := code, addr := if 0x10 ≤ cause ∧ cause ≤ 0x22 then addr else 0, slot := slot } }

/-- What the spec says of an instruction that only writes registers: its guard, the v-registers it
names, whether it is group-level, and what it writes, from the group, the path's slot, the path's
mask and the effective set. -/
structure Rule where
  guard  : BitVec 3
  names  : List Nat
  level  : Bool
  writes : Group → Bool → Word → Word → Writes

/-- When such an instruction completes: every v-register it names is allocated (R87), its writes find
rename registers (R94, R148), and a group-level one has a lane (R46). -/
def Rule.Ready (r : Rule) (g : Group) (slot : Bool) (p : Path) : Prop :=
  (∀ n ∈ r.names, n < g.regn) ∧
    g.canWrite (r.writes g slot p.mask (p.eff g r.guard)).vs.length = true ∧
    (r.level = true → p.eff g r.guard ≠ 0)

/-- The group after such an instruction. -/
def Rule.after (r : Rule) (g : Group) (slot : Bool) (p : Path) : Group :=
  g.applyWrites slot p.mask (p.eff g r.guard) (r.writes g slot p.mask (p.eff g r.guard))

/-- The instruction completes and writes what its rule says. -/
def Follows (i : Instr) (r : Rule) : Prop :=
  ∀ (s : State) (c : Cur) (g : Group) (p : Path), s.Acts c g p → r.Ready g c.p.slot p →
    exec i s = .next (s.retired c (r.after g c.p.slot p) p)

/-! ### Integer results -/

/-- A signed result of `n` bits: with "saturate to destination" the nearer end of the signed range and
SAT when it lies outside, else its low `n` bits (R20, R24, R119, R126). -/
def narrow (n : Nat) (md : Option ModWord) (x : Int) : BitVec n × Word :=
  match (md.map ModWord.rm : Option RMode) with
  | some .sat =>
    if x < -(2 : Int) ^ (n - 1) then (BitVec.ofInt n (-(2 : Int) ^ (n - 1)), flSat)
    else if (2 : Int) ^ (n - 1) - 1 < x then (BitVec.ofInt n ((2 : Int) ^ (n - 1) - 1), flSat)
    else (BitVec.ofInt n x, 0)
  | _ => (BitVec.ofInt n x, 0)

/-- The truncated quotient of 64-bit words; by 0 it is 0 with DZ (R120). -/
def quotient (md : Option ModWord) (a b : DWord) : DWord × Word :=
  if b = 0 then (0, flDz) else narrow 64 md (Int.tdiv a.toInt b.toInt)

/-- What a group-level instruction writes into s_d from s_a and b (R117). -/
def scalarTwo (o : ROps) (f : DWord → DWord → DWord × Word) : Rule :=
  ⟨o.g, [], true, fun g _ _ _ =>
    let r := f (modA o.md (g.sreg o.a)) (modB o.md (scalarB g o.b))
    ⟨[], some (o.d, r.1), none, r.2, markOf o.la .s o.a ++ markOf o.lb .s (bField o.b)⟩⟩

/-- The two-source scalar arithmetic of R119 to R121. -/
def scalarRule : Instr → Option Rule
  | .sadd o => some (scalarTwo o fun a b => narrow 64 o.md (a.toInt + b.toInt))
  | .ssub o => some (scalarTwo o fun a b => narrow 64 o.md (a.toInt - b.toInt))
  | .smul o => some (scalarTwo o fun a b => narrow 64 o.md (a.toInt * b.toInt))
  | .smulh o => some (scalarTwo o fun a b => (BitVec.ofInt 64 (a.toInt * b.toInt / 2 ^ 64), 0))
  | .smulhU o => some (scalarTwo o fun a b => (BitVec.ofNat 64 (a.toNat * b.toNat / 2 ^ 64), 0))
  | .sdiv o => some (scalarTwo o (quotient o.md))
  | .sdivU o => some (scalarTwo o fun a b => if b = 0 then (0, flDz) else (a / b, 0))
  | .srem o => some (scalarTwo o fun a b =>
      if b = 0 then (0, flDz) else (BitVec.ofInt 64 (Int.tmod a.toInt b.toInt), 0))
  | .sremU o => some (scalarTwo o fun a b => if b = 0 then (0, flDz) else (a % b, 0))
  | .sand o => some (scalarTwo o fun a b => (a &&& b, 0))
  | .sor o => some (scalarTwo o fun a b => (a ||| b, 0))
  | .sxor o => some (scalarTwo o fun a b => (a ^^^ b, 0))
  | .sshl o => some (scalarTwo o fun a b => (BitVec.ofNat 64 (a.toNat * 2 ^ b.toNat), 0))
  | .sshr o => some (scalarTwo o fun a b => (BitVec.ofNat 64 (a.toNat / 2 ^ b.toNat), 0))
  | .ssra o => some (scalarTwo o fun a b => (BitVec.ofInt 64 (a.toInt / 2 ^ b.toNat), 0))
  | .smin o => some (scalarTwo o fun a b => (BitVec.ofInt 64 (min a.toInt b.toInt), 0))
  | .smax o => some (scalarTwo o fun a b => (BitVec.ofInt 64 (max a.toInt b.toInt), 0))
  | .sminU o => some (scalarTwo o fun a b => (BitVec.ofNat 64 (min a.toNat b.toNat), 0))
  | .smaxU o => some (scalarTwo o fun a b => (BitVec.ofNat 64 (max a.toNat b.toNat), 0))
  | _ => none

/-- Whether a condition holds between two integers (R107, R122). -/
def condMet (cc : Cond) (a b : Int) : Bool :=
  match cc with
  | .eq => decide (a = b)
  | .ne => decide (a ≠ b)
  | .lt => decide (a < b)
  | .ge => decide (a ≥ b)
  | .gt => decide (a > b)
  | .le => decide (a ≤ b)

/-- Two words compared as signed or unsigned integers (R122, R129). -/
def testWords {n : Nat} (cc : Cond) (u : Bool) (a b : BitVec n) : Bool :=
  if u then condMet cc a.toNat b.toNat else condMet cc a.toInt b.toInt

/-- A source of a comparison after the modifier word: an unsigned order takes the source's absolute value as
the source unchanged (R41, R122, R129; log 44). -/
def cmpWord (cc : Cond) (u : Bool) (md : Option ModWord) : Option ModWord :=
  if u = true ∧ cc ≠ .eq ∧ cc ≠ .ne then md.map fun m => { m with aa := false, ab := false } else md

/-- The scalar instructions of R122 to R124, and those that count or vote into an s-register (R144,
R146). -/
def scalarMoveRule : Instr → Option Rule
  | .scmp cc u o => some ⟨o.g, [], true, fun g _ _ _ =>
      ⟨[], none, some (o.d, if testWords cc u (modA (cmpWord cc u o.md) (g.sreg o.a))
          (modB (cmpWord cc u o.md) (scalarB g o.b))
        then 0xFFFFFFFF else 0), 0, markOf o.la .s o.a ++ markOf o.lb .s (bField o.b)⟩⟩
  | .ssel cc o => some ⟨o.g, [], true, fun g _ _ _ =>
      ⟨[], some (o.d, if condMet cc (g.sreg o.c).toInt 0 then g.sreg o.a else scalarB g o.b), none, 0,
        markOf o.la .s o.a ++ markOf o.lb .s (bField o.b) ++ markOf o.lc .s o.c⟩⟩
  | .smov o => some ⟨o.g, [], true, fun g _ _ _ =>
      ⟨[], some (o.d, g.sreg o.a), none, 0, markOf o.la .s o.a⟩⟩
  | .slit o => some ⟨o.g, [], true, fun g _ _ _ =>
      ⟨[], some (o.d, scalarB g o.b), none, 0, []⟩⟩
  | .shi o => some ⟨o.g, [], true, fun g _ _ _ =>
      ⟨[], some (o.d, uniformB g o.b ++ (g.sreg o.a).extractLsb' 0 32), none, 0, markOf o.la .s o.a⟩⟩
  | .sclz o => some ⟨o.g, [], true, fun g _ _ _ =>
      ⟨[], some (o.d, BitVec.ofNat 64 (clz (g.sreg o.a))), none, 0, markOf o.la .s o.a⟩⟩
  | .spopc o => some ⟨o.g, [], true, fun g _ _ _ =>
      ⟨[], some (o.d, BitVec.ofNat 64 (popBits (g.sreg o.a))), none, 0, markOf o.la .s o.a⟩⟩
  | .xvote vt o => some ⟨o.g, [], true, fun g _ _ e =>
      let x := g.pred o.a &&& e
      ⟨[], some (o.d, match vt with
        | .ballot => x.setWidth 64
        | .any => if x ≠ 0 then 1 else 0
        | .all => if x = e then 1 else 0
        | .uni => if x = 0 ∨ x = e then 1 else 0), none, 0, []⟩⟩
  | .pcnt o => some ⟨o.g, [], true, fun g _ _ e =>
      ⟨[], some (o.d, BitVec.ofNat 64 (popWord (g.pred o.a &&& e))), none, 0, []⟩⟩
  | _ => none

/-! ### Vector integer results -/

/-- A v-register written lane by lane from sources a and b of the .vv or the .vs form (R125, R126). -/
def vectorTwo (vv : Bool) (o : ROps) (f : Word → Word → Word × Word) : Rule :=
  ⟨o.g, vNames vv o, false, fun g slot _ e =>
    let r (l : Nat) : Word × Word :=
      f (modA o.md (g.vlane slot o.a.toNat l)) (modB o.md (laneB vv g slot o.b l))
    ⟨[(o.d.toNat, lanesOf fun l => (r l).1)], none, none, laneFlags e fun l => (r l).2,
      markOf o.la .v o.a ++ markOf o.lb (bKind vv) (bField o.b)⟩⟩

/-- The two-source vector integer arithmetic of R126 and R128. -/
def vectorRule : Instr → Option Rule
  | .vaddVv o => some (vectorTwo true o fun a b => narrow 32 o.md (a.toInt + b.toInt))
  | .vaddVs o => some (vectorTwo false o fun a b => narrow 32 o.md (a.toInt + b.toInt))
  | .vsubVv o => some (vectorTwo true o fun a b => narrow 32 o.md (a.toInt - b.toInt))
  | .vsubVs o => some (vectorTwo false o fun a b => narrow 32 o.md (a.toInt - b.toInt))
  | .vmulVv o => some (vectorTwo true o fun a b => narrow 32 o.md (a.toInt * b.toInt))
  | .vmulVs o => some (vectorTwo false o fun a b => narrow 32 o.md (a.toInt * b.toInt))
  | .vmulhVv o => some (vectorTwo true o fun a b => (BitVec.ofInt 32 (a.toInt * b.toInt / 2 ^ 32), 0))
  | .vmulhVs o => some (vectorTwo false o fun a b => (BitVec.ofInt 32 (a.toInt * b.toInt / 2 ^ 32), 0))
  | .vmulhUVv o => some (vectorTwo true o fun a b => (BitVec.ofNat 32 (a.toNat * b.toNat / 2 ^ 32), 0))
  | .vmulhUVs o => some (vectorTwo false o fun a b => (BitVec.ofNat 32 (a.toNat * b.toNat / 2 ^ 32), 0))
  | .vandVv o => some (vectorTwo true o fun a b => (a &&& b, 0))
  | .vandVs o => some (vectorTwo false o fun a b => (a &&& b, 0))
  | .vorVv o => some (vectorTwo true o fun a b => (a ||| b, 0))
  | .vorVs o => some (vectorTwo false o fun a b => (a ||| b, 0))
  | .vxorVv o => some (vectorTwo true o fun a b => (a ^^^ b, 0))
  | .vxorVs o => some (vectorTwo false o fun a b => (a ^^^ b, 0))
  | .vshlVv o => some (vectorTwo true o fun a b => (BitVec.ofNat 32 (a.toNat * 2 ^ b.toNat), 0))
  | .vshlVs o => some (vectorTwo false o fun a b => (BitVec.ofNat 32 (a.toNat * 2 ^ b.toNat), 0))
  | .vshrVv o => some (vectorTwo true o fun a b => (BitVec.ofNat 32 (a.toNat / 2 ^ b.toNat), 0))
  | .vshrVs o => some (vectorTwo false o fun a b => (BitVec.ofNat 32 (a.toNat / 2 ^ b.toNat), 0))
  | .vsraVv o => some (vectorTwo true o fun a b => (BitVec.ofInt 32 (a.toInt / 2 ^ b.toNat), 0))
  | .vsraVs o => some (vectorTwo false o fun a b => (BitVec.ofInt 32 (a.toInt / 2 ^ b.toNat), 0))
  | .vminVv o => some (vectorTwo true o fun a b => (BitVec.ofInt 32 (min a.toInt b.toInt), 0))
  | .vminVs o => some (vectorTwo false o fun a b => (BitVec.ofInt 32 (min a.toInt b.toInt), 0))
  | .vminUVv o => some (vectorTwo true o fun a b => (BitVec.ofNat 32 (min a.toNat b.toNat), 0))
  | .vminUVs o => some (vectorTwo false o fun a b => (BitVec.ofNat 32 (min a.toNat b.toNat), 0))
  | .vmaxVv o => some (vectorTwo true o fun a b => (BitVec.ofInt 32 (max a.toInt b.toInt), 0))
  | .vmaxVs o => some (vectorTwo false o fun a b => (BitVec.ofInt 32 (max a.toInt b.toInt), 0))
  | .vmaxUVv o => some (vectorTwo true o fun a b => (BitVec.ofNat 32 (max a.toNat b.toNat), 0))
  | .vmaxUVs o => some (vectorTwo false o fun a b => (BitVec.ofNat 32 (max a.toNat b.toNat), 0))
  | .vabsdVv o => some (vectorTwo true o fun a b => (BitVec.ofNat 32 (a.toInt - b.toInt).natAbs, 0))
  | .vabsdVs o => some (vectorTwo false o fun a b => (BitVec.ofNat 32 (a.toInt - b.toInt).natAbs, 0))
  | .vabsdUVv o => some (vectorTwo true o fun a b =>
      (BitVec.ofNat 32 (max a.toNat b.toNat - min a.toNat b.toNat), 0))
  | .vabsdUVs o => some (vectorTwo false o fun a b =>
      (BitVec.ofNat 32 (max a.toNat b.toNat - min a.toNat b.toNat), 0))
  | _ => none

/-- A v-register written lane by lane from source a (R128, R131). -/
def vectorOne (o : ROps) (f : Word → Word) : Rule :=
  ⟨o.g, [o.d.toNat, o.a.toNat], false, fun g slot _ _ =>
    ⟨[(o.d.toNat, lanesOf fun l => f (g.vlane slot o.a.toNat l))], none, none, 0, markOf o.la .v o.a⟩⟩

/-- Multiply-add (R127), from the three sources after the modifier word. -/
def madRule (vv : Bool) (o : ROps) : Rule :=
  ⟨o.g, vNames vv o ++ [o.c.toNat], false, fun g slot _ e =>
    let r (l : Nat) : Word × Word := narrow 32 o.md
      ((modA o.md (g.vlane slot o.a.toNat l)).toInt * (modB o.md (laneB vv g slot o.b l)).toInt +
        (modC o.md (g.vlane slot o.c.toNat l)).toInt)
    ⟨[(o.d.toNat, lanesOf fun l => (r l).1)], none, none, laneFlags e fun l => (r l).2,
      markOf o.la .v o.a ++ markOf o.lb (bKind vv) (bField o.b) ++ markOf o.lc .v o.c⟩⟩

/-- Comparison into a predicate (R129). -/
def vcmpRule (vv : Bool) (cc : Cond) (u : Bool) (o : ROps) : Rule :=
  ⟨o.g, [o.a.toNat] ++ (if vv then [(bField o.b).toNat] else []), false, fun g slot _ _ =>
    ⟨[], none, some (o.d, maskOf fun l => testWords cc u (modA (cmpWord cc u o.md) (g.vlane slot o.a.toNat l))
        (modB (cmpWord cc u o.md) (laneB vv g slot o.b l))), 0,
      markOf o.la .v o.a ++ markOf o.lb (bKind vv) (bField o.b)⟩⟩

/-- Selection by a predicate (R130). -/
def vselRule (vv : Bool) (o : ROps) : Rule :=
  ⟨o.g, vNames vv o, false, fun g slot _ _ =>
    ⟨[(o.d.toNat, lanesOf fun l =>
        if bitAt (g.pred o.c) l then g.vlane slot o.a.toNat l else laneB vv g slot o.b l)], none, none, 0,
      markOf o.la .v o.a ++ markOf o.lb (bKind vv) (bField o.b)⟩⟩

/-- The other vector integer instructions, but for VCVTI (R127 to R131), and those between predicates and
lanes (R145). -/
def vectorMoreRule : Instr → Option Rule
  | .vmadVv o => some (madRule true o)
  | .vmadVs o => some (madRule false o)
  | .vcmpVv cc u o => some (vcmpRule true cc u o)
  | .vcmpVs cc u o => some (vcmpRule false cc u o)
  | .vselVv o => some (vselRule true o)
  | .vselVs o => some (vselRule false o)
  | .vnot o => some (vectorOne o fun a => ~~~a)
  | .vclz o => some (vectorOne o fun a => BitVec.ofNat 32 (clz a))
  | .vpopc o => some (vectorOne o fun a => BitVec.ofNat 32 (popBits a))
  | .vmov o => some (vectorOne o fun a => a)
  | .vbcast o => some ⟨o.g, [o.d.toNat], false, fun g _ _ _ =>
      ⟨[(o.d.toNat, lanesOf fun _ => uniformB g o.b)], none, none, 0, markOf o.lb .s (bField o.b)⟩⟩
  | .vlid o => some ⟨o.g, [o.d.toNat], false, fun _ _ _ _ =>
      ⟨[(o.d.toNat, lanesOf fun l => BitVec.ofNat 32 l)], none, none, 0, []⟩⟩
  | .pfrom o => some ⟨o.g, [o.a.toNat], false, fun g slot _ _ =>
      ⟨[], none, some (o.d, maskOf fun l => g.vlane slot o.a.toNat l != 0), 0, markOf o.la .v o.a⟩⟩
  | .pto o => some ⟨o.g, [o.d.toNat], false, fun g _ _ _ =>
      ⟨[(o.d.toNat, lanesOf fun l => if bitAt (g.pred o.a) l then 1 else 0)], none, none, 0, []⟩⟩
  | .pand o => some ⟨o.g, [], false, fun g _ _ _ =>
      ⟨[], none, some (o.d, g.pred o.a &&& g.pred (bField o.b)), 0, []⟩⟩
  | .por o => some ⟨o.g, [], false, fun g _ _ _ =>
      ⟨[], none, some (o.d, g.pred o.a ||| g.pred (bField o.b)), 0, []⟩⟩
  | .pxor o => some ⟨o.g, [], false, fun g _ _ _ =>
      ⟨[], none, some (o.d, g.pred o.a ^^^ g.pred (bField o.b)), 0, []⟩⟩
  | .pnot o => some ⟨o.g, [], false, fun g _ _ _ => ⟨[], none, some (o.d, ~~~g.pred o.a), 0, []⟩⟩
  | _ => none

/-! ### Floating-point results -/

/-- A v-register written lane by lane by a float operation of sources a and b (R125, R133). -/
def floatTwo (vv : Bool) (o : ROps) (f : Word → Word → Word × Word) : Rule :=
  ⟨o.g, vNames vv o, false, fun g slot _ e =>
    let r (l : Nat) : Word × Word := f (g.vlane slot o.a.toNat l) (laneB vv g slot o.b l)
    ⟨[(o.d.toNat, lanesOf fun l => (r l).1)], none, none, laneFlags e fun l => (r l).2,
      markOf o.la .v o.a ++ markOf o.lb (bKind vv) (bField o.b)⟩⟩

/-- The same with source c (R133, R139). -/
def floatThree (vv : Bool) (o : ROps) (f : Word → Word → Word → Word × Word) : Rule :=
  ⟨o.g, vNames vv o ++ [o.c.toNat], false, fun g slot _ e =>
    let r (l : Nat) : Word × Word :=
      f (g.vlane slot o.a.toNat l) (laneB vv g slot o.b l) (g.vlane slot o.c.toNat l)
    ⟨[(o.d.toNat, lanesOf fun l => (r l).1)], none, none, laneFlags e fun l => (r l).2,
      markOf o.la .v o.a ++ markOf o.lb (bKind vv) (bField o.b) ++ markOf o.lc .v o.c⟩⟩

/-- The same with source a alone (R136, R137). -/
def floatOne (o : ROps) (f : Word → Word × Word) : Rule :=
  ⟨o.g, [o.d.toNat, o.a.toNat], false, fun g slot _ e =>
    let r (l : Nat) : Word × Word := f (g.vlane slot o.a.toNat l)
    ⟨[(o.d.toNat, lanesOf fun l => (r l).1)], none, none, laneFlags e fun l => (r l).2,
      markOf o.la .v o.a⟩⟩

/-- A comparison of floats into a predicate, with its flags (R135). -/
def fcmpRule (vv : Bool) (cc : FCond) (o : ROps) : Rule :=
  ⟨o.g, [o.a.toNat] ++ (if vv then [(bField o.b).toNat] else []), false, fun g slot _ e =>
    let r (l : Nat) : Bool × Word := compareF cc (srcA fmt32 o.md (g.vlane slot o.a.toNat l).toNat)
      (srcB fmt32 o.md (laneB vv g slot o.b l).toNat)
    ⟨[], none, some (o.d, maskOf fun l => (r l).1), laneFlags e fun l => (r l).2,
      markOf o.la .v o.a ++ markOf o.lb (bKind vv) (bField o.b)⟩⟩

/-- The FP32 instructions of R133 to R137: one operation of the operands' values in each lane, rounded
once. -/
def floatRule : Instr → Option Rule
  | .faddVv o => some (floatTwo true o (onWords (op2F fmt32 .add o.md)))
  | .faddVs o => some (floatTwo false o (onWords (op2F fmt32 .add o.md)))
  | .fsubVv o => some (floatTwo true o (onWords (op2F fmt32 .sub o.md)))
  | .fsubVs o => some (floatTwo false o (onWords (op2F fmt32 .sub o.md)))
  | .fmulVv o => some (floatTwo true o (onWords (op2F fmt32 .mul o.md)))
  | .fmulVs o => some (floatTwo false o (onWords (op2F fmt32 .mul o.md)))
  | .fdivVv o => some (floatTwo true o (onWords (op2F fmt32 .div o.md)))
  | .fdivVs o => some (floatTwo false o (onWords (op2F fmt32 .div o.md)))
  | .fminVv o => some (floatTwo true o (onWords (op2F fmt32 .min o.md)))
  | .fminVs o => some (floatTwo false o (onWords (op2F fmt32 .min o.md)))
  | .fmaxVv o => some (floatTwo true o (onWords (op2F fmt32 .max o.md)))
  | .fmaxVs o => some (floatTwo false o (onWords (op2F fmt32 .max o.md)))
  | .ffmaVv o => some (floatThree true o fun a b c =>
      let r := op3F fmt32 o.md a.toNat b.toNat c.toNat
      (BitVec.ofNat 32 r.1, r.2))
  | .ffmaVs o => some (floatThree false o fun a b c =>
      let r := op3F fmt32 o.md a.toNat b.toNat c.toNat
      (BitVec.ofNat 32 r.1, r.2))
  | .fcmpVv cc o => some (fcmpRule true cc o)
  | .fcmpVs cc o => some (fcmpRule false cc o)
  | .frcp o => some (floatOne o (fun32 .rcp o.md))
  | .frsq o => some (floatOne o (fun32 .rsq o.md))
  | .fsqrt o => some (floatOne o (fun32 .sqrt o.md))
  | .fexp2 o => some (floatOne o (fun32 .exp2 o.md))
  | .flog2 o => some (floatOne o (fun32 .log2 o.md))
  | .frnd o => some (floatOne o (frnd32 o.md))
  | _ => none

/-- The two BF16 operations of a packed instruction, low element first (R139). -/
def bothHalves (f : Nat → Nat → Nat × Word) (a b : Word) : Word × Word :=
  let lo := f (a.toNat % 2 ^ 16) (b.toNat % 2 ^ 16)
  let hi := f (a.toNat / 2 ^ 16) (b.toNat / 2 ^ 16)
  (BitVec.ofNat 32 (hi.1 * 2 ^ 16 + lo.1), lo.2 ||| hi.2)

/-- The packed BF16 instructions of R139, and the PNI8 ones of R248 and R249. -/
def packedRule : Instr → Option Rule
  | .hadd2Vv o => some (floatTwo true o (bothHalves (op2F fmtBf .add o.md)))
  | .hadd2Vs o => some (floatTwo false o (bothHalves (op2F fmtBf .add o.md)))
  | .hmul2Vv o => some (floatTwo true o (bothHalves (op2F fmtBf .mul o.md)))
  | .hmul2Vs o => some (floatTwo false o (bothHalves (op2F fmtBf .mul o.md)))
  | .hmin2Vv o => some (floatTwo true o (bothHalves (op2F fmtBf .min o.md)))
  | .hmin2Vs o => some (floatTwo false o (bothHalves (op2F fmtBf .min o.md)))
  | .hmax2Vv o => some (floatTwo true o (bothHalves (op2F fmtBf .max o.md)))
  | .hmax2Vs o => some (floatTwo false o (bothHalves (op2F fmtBf .max o.md)))
  | .hfma2Vv o => some (floatThree true o fun a b c =>
      let lo := op3F fmtBf o.md (a.toNat % 2 ^ 16) (b.toNat % 2 ^ 16) (c.toNat % 2 ^ 16)
      let hi := op3F fmtBf o.md (a.toNat / 2 ^ 16) (b.toNat / 2 ^ 16) (c.toNat / 2 ^ 16)
      (BitVec.ofNat 32 (hi.1 * 2 ^ 16 + lo.1), lo.2 ||| hi.2))
  | .hfma2Vs o => some (floatThree false o fun a b c =>
      let lo := op3F fmtBf o.md (a.toNat % 2 ^ 16) (b.toNat % 2 ^ 16) (c.toNat % 2 ^ 16)
      let hi := op3F fmtBf o.md (a.toNat / 2 ^ 16) (b.toNat / 2 ^ 16) (c.toNat / 2 ^ 16)
      (BitVec.ofNat 32 (hi.1 * 2 ^ 16 + lo.1), lo.2 ||| hi.2))
  | _ => none

/-- The PNI8 instructions: a block quantised over the effective lanes, with the flags of its elements;
and a block image dequantised, its words read in the path's own lanes (R31, R141, R248, R249). -/
def pniRule : Instr → Option Rule
  | .vquant o => some ⟨o.g, [o.d.toNat, o.a.toNat], false, fun g slot _ e =>
      let q := quantBlock (rndOf o.md)
        (lanesOf fun i => if bitAt e i then g.vlane slot o.a.toNat i else 0)
      ⟨[(o.d.toNat, lanesOf (quantImage q))], none, none, q.fl, markOf o.la .v o.a⟩⟩
  | .vdeq km1 ctr bf o => some ⟨o.g, [o.d.toNat, o.a.toNat], false, fun g slot m e =>
      let img (l : Nat) : Word := if bitAt m l then g.vlane slot o.a.toNat l else 0
      let r (l : Nat) : Nat × Bool := pniValue (if bf then fmtBf else fmt32) ((img 8).setWidth 8)
        (km1.toNat + 1) ctr (pniElem (lanesOf img) l)
      ⟨[(o.d.toNat, lanesOf fun l => BitVec.ofNat 32 (r l).1)], none, none,
        laneFlags e fun l => if bf && (r l).2 then flInx else 0, markOf o.la .v o.a⟩⟩
  | _ => none

/-! ### Conversions -/

/-- A conversion: `pd` and `pa` say whether d and a are pairs, `f` gives the value of up to 64 bits and
the flags from source a and its pair (R132, R138). -/
def convertRule (o : ROps) (pd pa : Bool) (f : Word → DWord → DWord × Word) : Rule :=
  ⟨o.g, [o.d.toNat, o.a.toNat] ++ (if pd then [o.d.toNat + 1] else []) ++
      (if pa then [o.a.toNat + 1] else []), false, fun g slot _ e =>
    let r (l : Nat) : DWord × Word :=
      f (g.vlane slot o.a.toNat l) (g.vlane slot (o.a.toNat + 1) l ++ g.vlane slot o.a.toNat l)
    ⟨(o.d.toNat, lanesOf fun l => (r l).1.extractLsb' 0 32) ::
        (if pd then [(o.d.toNat + 1, lanesOf fun l => (r l).1.extractLsb' 32 32)] else []),
      none, none, laneFlags e fun l => (r l).2, markOf o.la .v o.a⟩⟩

/-- The conversions VCVTI, FCVT and HCVT2 (R132, R138, R140). -/
def conversionRule : Instr → Option Rule
  | .vcvti cv o => some (convertRule o (cv == .i64i32 || cv == .u64u32) (cv == .i32i64 || cv == .u32u64)
      (vcvtiLane cv o.md))
  | .fcvt cv o => some (convertRule o (cv == .i64f32 || cv == .u64f32) (cv == .f32i64 || cv == .f32u64)
      (fcvtLane cv o.md))
  | .hcvt2 cv o => some ⟨o.g, [o.d.toNat, o.a.toNat] ++ (if cv == .f32bf2 then [o.d.toNat + 1] else []) ++
      (if cv == .bf2f32 then [o.a.toNat + 1] else []), false, fun g slot _ e =>
        let r (l : Nat) : Word × Word × Word :=
          hcvtLane cv o.md (g.vlane slot o.a.toNat l) (g.vlane slot (o.a.toNat + 1) l)
        ⟨(o.d.toNat, lanesOf fun l => (r l).1) ::
            (if cv == .f32bf2 then [(o.d.toNat + 1, lanesOf fun l => (r l).2.1)] else []),
          none, none, laneFlags e fun l => (r l).2.2, markOf o.la .v o.a⟩⟩
  | _ => none

/-! ### Lanes -/

/-- A permutation: lane `l` of d takes lane `src b l` of a, or 0 when that lane is not in the path's mask
(R141, R142). -/
def permuteRule (vv : Bool) (o : ROps) (src : Word → Nat → Nat) : Rule :=
  ⟨o.g, vNames vv o, false, fun g slot m _ =>
    ⟨[(o.d.toNat, lanesOf fun l =>
        let j := src (laneB vv g slot o.b l) l
        if bitAt m j then g.vlane slot o.a.toNat j else 0)], none, none, 0,
      markOf o.la .v o.a ++ markOf o.lb (bKind vv) (bField o.b)⟩⟩

/-- The permutations of R142. -/
def permutationRule : Instr → Option Rule
  | .xshf o => some (permuteRule true o fun b _ => b.toNat % 32)
  | .xbrd o => some (permuteRule false o fun b _ => b.toNat % 32)
  | .xxor o => some (permuteRule false o fun b l => Nat.xor l (b.toNat % 32))
  | .xup o => some (permuteRule false o fun b l => if b.toNat ≤ l then l - b.toNat else l)
  | .xdn o => some (permuteRule false o fun b l => if l + b.toNat ≤ 31 then l + b.toNat else l)
  | _ => none

/-- The reductions and scans of R143: the tree over the lanes of the effective set, and the prefixes in
ascending lane order. -/
def reductionRule : Instr → Option Rule
  | .xred op o => some ⟨o.g, [o.d.toNat, o.a.toNat], false, fun g slot _ e =>
      let t := treeReduce op 5 ((List.range 32).map fun l =>
        if bitAt e l then some (g.vlane slot o.a.toNat l) else none)
      ⟨[(o.d.toNat, lanesOf fun _ => t.1.getD 0)], none, none, t.2, markOf o.la .v o.a⟩⟩
  | .xscan op ex o => some ⟨o.g, [o.d.toNat, o.a.toNat], false, fun g slot _ e =>
      let t := scanLanes op ex (g.vlane slot o.a.toNat) (lanesIn e) none
      ⟨[(o.d.toNat, lanesOf fun l => match t.1.find? fun x => x.1 == l with
          | some x => x.2
          | none => 0)], none, none, t.2, markOf o.la .v o.a⟩⟩
  | _ => none

/-- What the spec says of each instruction that only writes registers. -/
def ruleOf (i : Instr) : Option Rule :=
  [scalarRule, scalarMoveRule, vectorRule, vectorMoreRule, floatRule, packedRule, pniRule, conversionRule,
    permutationRule, reductionRule].findSome? fun f => f i

/-- Whether the marks of an instruction name a v-register, or an s-register (R47). -/
def Writes.marksV (w : Writes) (r : Nat) : Bool := w.marks.contains (.v r)

@[inherit_doc Writes.marksV]
def Writes.marksS (w : Writes) (r : BitVec 6) : Bool := w.marks.contains (.s r)

/-- What a write list leaves in lane `l` of v-register `r` that read `x` before: the last write of it. -/
def wroteLane (vs : List (Nat × Lanes)) (r l : Nat) (x : Word) : Word :=
  vs.foldl (fun x v => if v.1 = r then laneAt v.2 l else x) x

/-! ### Accesses -/

/-- A byte of memory that the write-back of a line from its home may change: where a dirty byte of the line lies in its
frame, or, of a page under a view, the byte of each of the eight plane words that holds its element's bit (R268,
R274, R275). -/
def HomeLine.Backs (h : HomeLine) (a : Nat) : Prop :=
  ∃ i e, i < 128 ∧ h.dirty.getLsbD i = true ∧ e = h.va.toNat % 2 ^ 16 + i ∧
    (h.leaf.view = 0 → a = frameKey h.die (h.leaf.pfn.toNat * 2 ^ 16 + h.va.toNat % 2 ^ 16) + i) ∧
    (h.leaf.view ≠ 0 → ∃ p, p < 8 ∧ a = frameKey h.die
      (h.leaf.pfn.toNat * 2 ^ 16 + 2048 * (e / 2048) + 256 * p + 4 * (e / 32 % 64) + e % 32 / 8))

/-- Every byte of memory reads as before, but for what dirty lines that had to leave their L2 and LLC to make room
were written back over. -/
def State.KeepsMem (s t : State) : Prop :=
  ∀ a, Memory.read t.mem a = Memory.read s.mem a ∨ ∃ h ∈ s.home, h.Backs a ∧
    ∀ x, t.homeLine? h.die h.vd h.va = some x → x.dirty = 0

/-- Every line of an access is confirmed as the machine stands, without a wait (R169). -/
def State.Confirms (s : State) (st : Site) (p : Path) (r : Region) (a : Access) (reqs : List LaneReq)
    (rs : List LineRes) (s' : State) : Prop :=
  s.confirmAll st p r a (linesOf (reqs.flatMap fun q => q.addrs)) = (rs, p, s') ∧ verdict reqs rs = .ok

/-- The value a lane's access reads. -/
def laneRead (ls : List (Nat × List Byte)) (reqs : List LaneReq) (l : Nat) : Nat :=
  match reqs.find? fun q => q.lane == l with
  | some q => reqValue ls q
  | none => 0

/-- A load's acquire: the stores it may have seen are observed, and an acquiring one invalidates (R189,
R288). -/
def State.loaded (s : State) (st : Site) (g : Group) (o : MOps) (rs : List LineRes) : Group × State :=
  if o.ord = .acq then s.acquireFor st (s.observeLines st g rs) o.scope allRegions
  else (s.observeLines st g rs, s)

/-- A store may retire: its release and those of the pending SYNCRs it performs are over, and its entries
find room (R172, R189, R191, R393). -/
def State.MayStore (s : State) (g : Group) (sc : Option Scope) (es : List SbEntry) : Prop :=
  (sc.toList ++ (g.relsHit es).map fun r => r.scope).all (s.released g) = true ∧
    g.roomFor es.length = true

/-- The group with a store's entries in its buffer and counted (R172, R173, R191). -/
def Group.stored (g : Group) (es : List SbEntry) : Group :=
  { g with rels := g.rels.filter fun r => !(g.relsHit es).contains r }.enter es

/-- The lanes' data of a store of `k` registers from d on, lane values of `n` bytes, low byte first; a
higher lane's bytes come after a lower lane's (R172, R180). -/
def storeData (g : Group) (slot : Bool) (d k : Nat) (reqs : List LaneReq) : List StoreByte :=
  reqs.flatMap fun q => q.addrs.zip (bytesOfNat q.addrs.length
    ((List.range k).foldl (fun acc i => acc + (g.vlane slot (d + i) q.lane).toNat * 2 ^ (32 * i)) 0))

/-- The accesses of an LDM or STM: every word of the range of every lane of the effective set (R181). -/
def rangeReqs (r : Region) (grpIdx : Nat) (e : Word) (base : Int) (n : Nat) : List LaneReq :=
  (lanesIn e).map fun l => ⟨l, (List.range n).flatMap fun i =>
    r.bytes grpIdx l (base + (rangeOffset (r.h.space == 9) i l : Int)).toNat 4⟩

/-- The accesses of a uniform form: one access for every lane of the effective set (R169). -/
def uniformReqs (r : Region) (e : Word) (off : Int) (n : Nat) : List LaneReq :=
  (lanesIn e).map fun l => ⟨l, r.bytes 0 0 off.toNat n⟩

/-- After an atomic: the pending SYNCRs it performed are gone, and an acquiring one has acquired (R185,
R191). -/
def State.atomDone (s : State) (st : Site) (g : Group) (o : MOps) (hit : List PendRel) : Group × State :=
  if o.ord = .acq ∨ o.ord = .acqrel then
    s.acquireFor st { g with rels := g.rels.filter fun r => !hit.contains r } o.scope allRegions
  else ({ g with rels := g.rels.filter fun r => !hit.contains r }, s)

/-- A DCF passes the checks of R278: its source and its target lie in global readable regions, inside them and
aligned to their views. -/
def State.DcfAdmits (s : State) (b : Block) (gr : Grid) (g : Group) (o : MOps) (x : DcfRanges) : Prop :=
  ∃ r t, dcfRegion s b gr o.h = some r ∧ dcfRegion s b gr ((g.sreg o.d).extractLsb' 56 8) = some t ∧
    r.inside (g.sreg o.a).toNat (2048 * o.disp.toNat * viewWidth (o.x.getLsbD 0)) = true ∧
    t.inside ((g.sreg o.d).extractLsb' 0 56).toNat (2048 * o.disp.toNat * viewWidth (o.x.getLsbD 1)) = true ∧
    (g.sreg o.a).toNat % (2048 * viewWidth (o.x.getLsbD 0)) = 0 ∧
    ((g.sreg o.d).extractLsb' 0 56).toNat % (2048 * viewWidth (o.x.getLsbD 1)) = 0 ∧
    x = ⟨r.addr (g.sreg o.a).toNat, 2048 * o.disp.toNat * viewWidth (o.x.getLsbD 0),
         t.addr ((g.sreg o.d).extractLsb' 0 56).toNat, 2048 * o.disp.toNat * viewWidth (o.x.getLsbD 1)⟩

/-! ### Queues -/

/-- A queue's thread reads `n` bytes at a VA, every line at hand (R327). -/
def State.Reads (s : State) (q : BitVec 10) (va n : Nat) (bs : List Byte) (s' : State) : Prop :=
  ∃ rs, s.reachKeep (s.threadSite q) (.thread q) (globalRegion va n) .read (vaRange va n) = (.ok rs, s') ∧
    bs = reachedBytes rs (vaRange va n)

/-- A queue's thread performs an atomic on the signal at a VA, leaving `f` of the value at its home (R327,
R331). -/
def State.Signals (s : State) (q : BitVec 10) (va : Nat) (f : DWord → DWord) (s' : State) : Prop :=
  ∃ rs u, s.reachKeep (s.threadSite q) (.thread q) (globalRegion va 8) .atomic (vaRange va 8) = (.ok rs, u) ∧
    s' = (u.atomAt (s.threadSite q).die rs ((vaRange va 8).zip (bytesOfNat 8
      (f (BitVec.ofNat 64 (natOfBytes (u.oldBytes rs (vaRange va 8))))).toNat))).forgetAnswers (.thread q)

/-- A packet's completion signal, if it names one, takes 1 less (R326, R327). -/
def State.SignalDone (s : State) (q : BitVec 10) (sig : DWord) (s' : State) : Prop :=
  (sig = 0 ∧ s' = s) ∨ (sig ≠ 0 ∧ s.Signals q sig.toNat (fun v => v - 1) s')

/-- A queue's thread reads a packet's signals from signal `i` on (R328). -/
def State.SignalsRead (q : BitVec 10) (bs : List Byte) : Nat → List DWord → State → State → Prop
  | _, [], s, s' => s' = s
  | i, v :: vs, s, s' => ∃ b u, s.Reads q (fieldOf bs (0x10 + 8 * i) 8) 8 b u ∧
      v = BitVec.ofNat 64 (natOfBytes b) ∧ State.SignalsRead q bs (i + 1) vs u s'

/-- A queue's next packet may be taken, is number `n` and reads as `bs`; its virtual device has root `r`:
PACKET_CONSUME leaves `s'` once the thread has noted when the packet became next (R325, R327,
R328). -/
def State.PacketAt (s : State) (q : BitVec 10) (n : Word) (r : Root) (bs : List Byte) (s' : State) : Prop :=
  (s.vdev (s.qVd q)).root = some r ∧ s.mayAct q = true ∧ (s.thread q).held = none ∧ n = s.qdone q + 1 ∧
    State.Reads (s.setThread { s.thread q with nextAt := some ((s.thread q).nextAt.getD s.timebase.toNat) })
      q (s.packetVa q n) 64 bs s'

/-- A queue holds its next packet, whose bytes are `bs`, and may act on it again (R325, R327, R328). -/
def State.PacketHeld (s : State) (q : BitVec 10) (n : Word) (r : Root) (bs : List Byte) : Prop :=
  (s.vdev (s.qVd q)).root = some r ∧ s.mayAct q = true ∧ (s.thread q).held = some bs ∧ n = s.qdone q + 1

/-- The group that a page-fault record belongs to, if it belongs to one, stands in a block of a grid (R176). -/
def State.OwnerStands (s : State) (o : FaultOwner) : Prop :=
  ∀ g id, (∃ pc sl, o = .replay id pc sl) ∨ (∃ sl, o = .fetch ⟨id, sl⟩) →
    s.group? id = some g → ∃ b gr, s.block? g.blk = some b ∧ s.grid? b.grid = some gr

end Sys2Proof.Machine
end

