-- ==== Sys2Proof/Certificates/Slice0/Obligations.lean ====
section
/-!
DEFINITION. The statements about the model: what the numbered rules of the spec say its instructions and
events do. Each holds for every state and every operand that meets its hypotheses.
-/
open Sys2Proof Sys2Proof.Machine

/-! ### Decoding and the step -/

/-- Words written out field by field from the encodings of the spec, one or two of each format, decode to the
instructions they stand for (R38, R39, R41 to R45, R49 to R56). -/
def Obligations.DecodeWords : Prop :=
  -- SADD s1, s2, s3, a's last use marked, guard p2
  decodeWords [0x10#8 ++ 1#6 ++ 2#6 ++ 3#6 ++ 1#1 ++ 0#1 ++ 2#3 ++ 0#1] =
    .ok (.sadd ⟨1, 2, .reg 3, 0, true, false, false, 2, none⟩, []) ∧
  -- SLIT s5, 0xFFFFFFFE: field b is 63 and the literal follows
  decodeWords [0x26#8 ++ 5#6 ++ 0#6 ++ 63#6 ++ 0#1 ++ 0#1 ++ 0#3 ++ 0#1, 0xFFFFFFFE] =
    .ok (.slit ⟨5, 0, .lit 0xFFFFFFFE, 0, false, false, false, 0, none⟩, []) ∧
  -- FFMA.vs v4, v5, 1.0, v6, saturating result scale -1, b negated: C word, literal, modifier word
  decodeWords [0x67#8 ++ 4#6 ++ 5#6 ++ 63#6 ++ 0#1 ++ 0#1 ++ 0#3 ++ 1#1,
      6#6 ++ 1#1 ++ 0#25, 0x3F800000,
      1#2 ++ 0#1 ++ 0#1 ++ 1#1 ++ 0#1 ++ 0#1 ++ 0#1 ++ 31#5 ++ 0#3 ++ 0#16] =
    .ok (.ffmaVs ⟨4, 5, .lit 0x3F800000, 6, false, false, true, 0,
      some ⟨.sat, false, false, true, false, false, false, 31, .rne⟩⟩, []) ∧
  -- SCMP.lt.u p3, s4, s5: condition 2 and unsigned in sel
  decodeWords [0x23#8 ++ 3#6 ++ 4#6 ++ 5#6 ++ 0#1 ++ 0#1 ++ 0#3 ++ 0#1, 0#6 ++ 0#1 ++ 10#25] =
    .ok (.scmp .lt true ⟨3, 4, .reg 5, 0, false, false, false, 0, none⟩, []) ∧
  -- LD v8, 64 bits, at h9 + v10 - 4, device scope, acquire
  decodeWords [0xA0#8 ++ 8#6 ++ 10#6 ++ 9#8 ++ 0#3 ++ 0#1,
      0xFFFC#16 ++ 3#3 ++ 4#3 ++ 1#2 ++ 0#2 ++ 0#1 ++ 1#1 ++ 0#4] =
    .ok (.ld ⟨8, 10, 9, 0, 0xFFFC, .b64, .dev, .acq, .policy, false, true, 0⟩, []) ∧
  -- BRV p3 inverted, -2 words
  decodeWords [0x05#8 ++ 3#3 ++ 1#1 ++ 0xFFFFE#20] = .ok (.brv ⟨3, true, 0xFFFFE⟩, []) ∧
  -- MMA of 4 rows with the accumulator zeroed
  decodeWords [0xD0#8 ++ 7#6 ++ 8#6 ++ 9#8 ++ 1#3 ++ 0#1,
      2#6 ++ 3#7 ++ 4#3 ++ 0#1 ++ 1#1 ++ 1#1 ++ 0#1 ++ 0#12] =
    .ok (.mma ⟨7, 8, 9, 1, 2, 3, 4, false, true, true, false⟩, [])

/-- An instruction reads back from its words, whatever words follow: every instruction of every family, with
every operand its encoding admits (R38 to R57). -/
def Obligations.DecodeEncode : Prop :=
  ∀ (i : Instr) (rest : List Word), i.wf = true → encode i ≠ [] →
    decodeWords (encode i ++ rest) = .ok (i, rest)

/-- The decoder answers only well-formed instructions, and only for the words that encode them: no bit is dropped
and no two words stand for one instruction (R38 to R58). -/
def Obligations.EncodeDecode : Prop :=
  ∀ (ws : List Word) (i : Instr) (rest : List Word), decodeWords ws = .ok (i, rest) →
    i.wf = true ∧ ws = encode i ++ rest

/-- Each unassigned opcode takes cause 0x02, and a header where an instruction is due cause 0x01, whatever the
other bits and words are. -/
def Obligations.UnassignedOpcodes : Prop :=
  ∀ (w : Word) (t : List Word),
    let op := (w.extractLsb' 24 8).toNat
    ((0x0D ≤ op ∧ op ≤ 0x0F) ∨ (0x2A ≤ op ∧ op ≤ 0x2F) ∨ op = 0x5F ∨ op = 0x77 ∨
      (0x83 ≤ op ∧ op ≤ 0x8F) ∨ op = 0x9F ∨ op = 0xAF ∨ (0xB7 ≤ op ∧ op ≤ 0xBF) ∨
      (0xC5 ≤ op ∧ op ≤ 0xC7) ∨ (0xCC ≤ op ∧ op ≤ 0xCF) ∨ op = 0xD7 ∨ (0xDA ≤ op ∧ op ≤ 0xDF) ∨
      (0xE4 ≤ op ∧ op ≤ 0xE7) →
        ∃ e, decodeWords (w :: t) = .error e ∧ e.cause = 0x02) ∧
    (0xF0 ≤ op → ∃ e, decodeWords (w :: t) = .error e ∧ e.cause = 0x01)

/-- The header of R34: a word is a header exactly when its mark is 0xF, its count is not 0, its wait field is 0
to 3 with threshold 0 where it is 0, and its reserved bits are zero; its fields are those bits. A word of code is
the four bytes at its 4-byte-aligned address, the lowest first, of the line that holds it, once an instruction
fetch has that line. -/
def Obligations.ClauseHeaders : Prop :=
  (∀ (w : Word) (h : Header), decodeHeader w = .ok h ↔
    w.extractLsb' 28 4 = 15 ∧ h = ⟨w.extractLsb' 24 4, w.extractLsb' 22 2, w.extractLsb' 19 3,
      w.extractLsb' 15 4⟩ ∧ h.count ≠ 0 ∧ h.wait.toNat ≤ 3 ∧ (h.wait = 0 → h.thr = 0) ∧
      w.extractLsb' 0 15 = 0) ∧
  (∀ (s s' : State) (st : Site) (p p' : Path) (a : Va) (bs : List Byte) (lf : Option Leaf) (b0 b1 b2 b3 : Byte),
    a.toNat % 4 = 0 → s.confirm st p 0 .fetch (.mem (s.homeOf st.vd a) st.vd (lineOf a)) = (.ok bs lf, p', s') →
    (bs.drop (a.toNat % 128)).take 4 = [b0, b1, b2, b3] →
    s.codeWord st p a = (.ok [b3 ++ b2 ++ b1 ++ b0], p', s'))

/-- A STEP RUNS THE DECODED INSTRUCTION. When the agenda asks for a path that may run, whose clause header and
instruction are at hand, and the words at its pc decode to an instruction that the clause's class and the
placement rules admit there, the step is that instruction's `exec` in the state that fetching leaves, with the
address after it and whether it closes its clause in `cur`: past a clause's first instruction, and at that one,
be it reached from the header or resumed at, once the clause wait is over (R34 to R37, R58). A device event at
the head of the agenda is executed as it stands; with nothing left on the agenda another round begins (log 1). -/
def Obligations.StepRunsDecoded : Prop :=
  (∀ (s s' s1 s2 s3 s4 : State) (r : PathRef) (t : List Item) (g : Group) (p p1 p2 p3 p4 : Path) (b : Block)
    (st : Site) (hw w : Word) (h : Header) (ws rest : List Word) (i : Instr),
    s.agenda = .run r :: t → s' = { s with agenda := t } → s'.MayRun r g p b → st = ⟨b.core, b.vd, r⟩ →
    s'.codeWord st p p.hdr = (.ok [hw], p1, s1) → decodeHeader hw = .ok h →
    decodeWords ws = .ok (i, rest) → classAdmits h.cls ((opcodeOf i).getD 0) = true →
    (∀ k, p.pc ≠ p.hdr → p.pc ≠ p.hdr + 4 →
      s1.clauseIndex st p1 p.pc (p.hdr + 4) 0 h.count.toNat = (some (some k), p2, s2) →
      s2.codeWord st p2 p.pc = (.ok [w], p3, s3) →
      s3.codeWords st p3 p.pc (wordsOf w) = (.ok ws, p4, s4) →
      (mustClose ((opcodeOf i).getD 0) = true → k + 1 = h.count.toNat) → (opcodeOf i = some 0x06 → k = 0) →
      step s = exec i { s4.setGroup (g.setPath r.slot (some p4)) with
        cur := some ⟨r, p.pc + BitVec.ofNat 56 (4 * ws.length), k + 1 == h.count.toNat⟩ }) ∧
    (∀ q x, p.pc = p.hdr ∨ p.pc = p.hdr + 4 → g.clauseReady h = true → q = { p1 with pc := p.hdr + 4 } →
      x = s1.observeWait b g h.wait →
      x.2.codeWord st q q.pc = (.ok [w], p2, s2) →
      s2.codeWords st p2 q.pc (wordsOf w) = (.ok ws, p3, s3) →
      (mustClose ((opcodeOf i).getD 0) = true → h.count = 1) →
      step s = exec i { s3.setGroup (x.1.setPath r.slot (some p3)) with
        cur := some ⟨r, q.pc + BitVec.ofNat 56 (4 * ws.length), h.count == 1⟩ })) ∧
  (∀ (s : State) (i : Instr) (t : List Item),
    (s.agenda = .ev i :: t → encode i = [] → step s = exec i { s with agenda := t }) ∧
    (s.agenda = [] → step s = .next { s with agenda := s.round }))

/-- Memory and the register bank keep their canonical forms over every step (log 2). -/
def Obligations.CanonicalStep : Prop :=
  ∀ (s t : State), s.Canonical → step s = .next t → t.Canonical

/-- What the spec says of the state after reset: registers at the reset values of their field maps, no root in
force, no partition, no group, both halves of the machine idle, every port down, and DLINE at 250,000 ticks
(R263, R305, R309, R372, R386). The state after reset is canonical. Manufacturing mode off, and the zeros of FWNAK,
FWEXP, KZVD, KZSHVAL and KZDUMP, for which the spec gives no reset value, are the model's choice (log 3); so is the
form that makes the state canonical (log 2). -/
def Obligations.ResetState : Prop :=
  ((∀ k, State.reset.reg k = regReset k) ∧ (∀ v, (State.reset.vdev v).root = none) ∧
    State.reset.parts = [] ∧ State.reset.groups = [] ∧ State.reset.blocks = [] ∧
    State.reset.grids = [] ∧ State.reset.ports = [] ∧ State.reset.mfg = false ∧
    State.reset.dline 0 = 250000 ∧ State.reset.power = .active) ∧
  (State.reset.Canonical)

/-! ### Registers and register-only instructions -/

/-- What an instruction's retirement writes: in the lanes of its effective set the v-registers it names, its
s-register, its predicate; a write to s0 or p0 is discarded; marked registers read zero unless written; flags
gather in FSTAT; every other register, every other lane, the other slot's map and the rest of the group are as
they were (R26, R38, R46, R47, R94, R118). That a mark takes effect before the write, so that a marked destination
reads zero in the lanes that are not written, is the model's choice (log 45). -/
def Obligations.RegisterWrites : Prop :=
  ∀ (g t : Group) (slot : Bool) (m e : Word) (w : Writes), g.Shaped → (g.path slot).isSome = true →
    (∀ v ∈ w.vs, v.1 < 64) → (∀ r v, w.sreg = some (r, v) → r.toNat < 63) →
    (∀ r v, w.pred = some (r, v) → r.toNat < 8) → t = g.applyWrites slot m e w →
    t.Shaped ∧
    (∀ q, t.sreg q = match w.sreg with
      | some (r, v) => if q = r ∧ r ≠ 0 then v else if w.marksS q then 0 else g.sreg q
      | none => if w.marksS q then 0 else g.sreg q) ∧
    (∀ q, t.pred q = match w.pred with
      | some (r, v) => if q = r ∧ r ≠ 0 then (g.pred r &&& ~~~e) ||| (v &&& e) else g.pred q
      | none => g.pred q) ∧
    t.fstat = g.fstat ||| w.flags ∧
    (∀ r l, r < 64 → t.vlane slot r l =
      let x := if w.marksV r && bitAt m l then 0 else g.vlane slot r l
      if bitAt (g.held slot) l && bitAt e l then wroteLane w.vs r l x else x) ∧
    (∀ r l, t.vlane (!slot) r l = g.vlane (!slot) r l) ∧
    { t with sregs := g.sregs, preds := g.preds, fstat := g.fstat, m0 := g.m0, m1 := g.m1,
             phys := g.phys } = g

/-- A group's register files keep their shape and its maps name only registers it holds, from its launch over
everything that changes its paths or its maps: a split, a fold, a drop, a compaction, a swap with the stack, a
merge, a fill of the slots (R91 to R95, R148). -/
def Obligations.GroupsStayShaped : Prop :=
  (∀ id blk idx regn place va sregs, sregs.length = 63 →
    (freshGroup id blk idx regn place va sregs).Shaped) ∧
  ∀ (g g' : Group) (l : Word) (x y slot slot' : Bool) (p tk fl q : Path) (n : Nat), g.Shaped →
    (g.fold l x y).Shaped ∧ g.copyMap.Shaped ∧ g.compact.Shaped ∧ g.freePhys.Shaped ∧
    (g.slot1 = none → g.dropMap.Shaped) ∧ (g.slot1.isSome = true → (g.swapIn slot p n).Shaped) ∧
    (g.slot1.isSome = true → (g.thirdPath slot p tk fl q).Shaped) ∧
    ((g.path slot).isSome = true → (g.setPath slot (some p)).Shaped) ∧
    ((g.path slot).isSome = true → g.mergeOnce slot p = some (g', slot', q) → g'.Shaped) ∧
    (∀ (s s' : State) (b : Block), s.settle b g = some (s', g') → g'.Shaped)

/-- A fold of lanes that one map holds into the other: in the map folded into, the lanes `l` read what the other
map reads, and the lanes it held read what they read; in the other map nothing changes for the lanes it holds.
With no register left beyond the merge reserve the fold compacts first, and the same holds (R95, R148; that it
compacts then is the model's choice, log 9). Compaction leaves both maps naming the same registers, and every lane as
it read; while an unretired instruction of the group will free a register it does not happen (R148). -/
def Obligations.Folds : Prop :=
  (∀ (g : Group) (l : Word) (x : Bool) (r i : Nat), g.Named → g.Apart → g.m0.length = 64 → g.m1.length = 64 →
    l &&& ~~~g.held x = 0 → r < 64 → i < 32 →
    (bitAt l i = true → (g.fold l x (!x)).entryLane (mapEntry ((g.fold l x (!x)).map (!x)) r) i =
      g.entryLane (mapEntry (g.map x) r) i) ∧
    (bitAt (g.held (!x)) i = true → (g.fold l x (!x)).entryLane (mapEntry ((g.fold l x (!x)).map (!x)) r) i =
      g.entryLane (mapEntry (g.map (!x)) r) i) ∧
    (bitAt (g.held x) i = true → (g.fold l x (!x)).entryLane (mapEntry ((g.fold l x (!x)).map x) r) i =
      g.entryLane (mapEntry (g.map x) r) i)) ∧
  (∀ (s : State) (g : Group) (w : Wait) (p : Path), s.group? g.id = some g → g.Shaped →
    g.slot0 = some p → p.wait = some w → w.reason = 2 → g.slot1.isSome = true →
    (s.willFree ⟨g.id, true⟩ g.slot1 = true → exec (.compaction g.id) s = .next s) ∧
    (s.willFree ⟨g.id, true⟩ g.slot1 = false → ∃ t, exec (.compaction g.id) s = .next (s.setGroup t) ∧
      (∀ r, r < 64 → mapEntry t.m0 r = mapEntry t.m1 r) ∧
      (∀ slot r l, r < 64 → (slot = true ∨ bitAt (g.held true) l = false) →
        t.vlane slot r l = g.vlane slot r l) ∧
      { t with m0 := g.m0, m1 := g.m1, phys := g.phys, merges := g.merges } = g))

/-- The two-source scalar arithmetic completes with the values and flags of R119 to R121. Scalar comparison,
selection, moves and counts, votes and counts of predicates (R122 to R124, R144, R146). That an unsigned order takes
a source with the absolute-value bit of R41 unchanged is inferred (log 44). -/
def Obligations.ScalarInstructions : Prop :=
  (∀ i r, scalarRule i = some r → Follows i r) ∧
  (∀ i r, scalarMoveRule i = some r → Follows i r)

/-- The two-source vector integer arithmetic (R126, R128). Multiply-add, comparison, selection, moves, and the
operations on predicates (R127 to R131, R145). The permutations: a lane outside the path's mask gives 0 (R141,
R142). Reductions and scans (R143). That an unsigned order takes a source with the absolute-value bit of R41
unchanged is inferred (log 44). -/
def Obligations.VectorInstructions : Prop :=
  (∀ i r, vectorRule i = some r → Follows i r) ∧
  (∀ i r, vectorMoreRule i = some r → Follows i r) ∧
  (∀ i r, permutationRule i = some r → Follows i r) ∧
  (∀ i r, reductionRule i = some r → Follows i r)

/-- The FP32 instructions (R133 to R137). The packed BF16 instructions (R139). VQUANT and VDEQ (R248, R249).
VCVTI, FCVT and HCVT2, their register pairs included (R132, R138, R140). That a mark on a pair is its even
register's is the model's choice (log 45); so are the values of FEXP2 and FLOG2 within the spec's bound (log 10), and
flags of which the rules do not speak are inferred (log 11). -/
def Obligations.FloatInstructions : Prop :=
  (∀ i r, floatRule i = some r → Follows i r) ∧
  (∀ i r, packedRule i = some r → Follows i r) ∧
  (∀ i r, pniRule i = some r → Follows i r) ∧
  (∀ i r, conversionRule i = some r → Follows i r)

/-- Where one of them does not complete: a v-register at or above the allocation takes cause 0x04 with the whole
active mask, whatever the guard holds; a group-level one with an empty effective set retires and changes nothing;
one whose writes find no rename register waits under stall reason 2 (R46, R58, R87, R94, R148). -/
def Obligations.RegisterInstructionsElse : Prop :=
  ∀ (i : Instr) (r : Rule) (s : State) (c : Cur) (g : Group) (p : Path), ruleOf i = some r →
    s.Acts c g p →
    ((∃ n ∈ r.names, g.regn ≤ n) → exec i s = fatal s c g p 0x04 p.mask 0) ∧
    ((∀ n ∈ r.names, n < g.regn) → r.level = true → p.eff g r.guard = 0 →
      exec i s = .next (s.retired c g p)) ∧
    ((∀ n ∈ r.names, n < g.regn) → (r.level = true → p.eff g r.guard ≠ 0) →
      g.canWrite (r.writes g c.p.slot p.mask (p.eff g r.guard)).vs.length = false →
      exec i s = .next (s.waits c g p .retry 2))

/-- The frame of every instruction that only writes registers, whatever it comes to: every byte of memory, every
cached line, every control register, every other group, every block, grid, core and queue is as it was. -/
def Obligations.RegisterFrame : Prop :=
  ∀ (i : Instr) (r : Rule) (s t : State) (c : Cur), ruleOf i = some r → s.cur = some c →
    exec i s = .next t →
    (∀ a, Memory.read t.mem a = Memory.read s.mem a) ∧ t.regs = s.regs ∧ t.home = s.home ∧
      t.l1 = s.l1 ∧ t.rdc = s.rdc ∧ t.flight = s.flight ∧ t.timebase = s.timebase ∧
      (∀ n, n ≠ c.p.grp → t.group? n = s.group? n) ∧ t.blocks = s.blocks ∧ t.grids = s.grids ∧
      t.cores = s.cores ∧ t.threads = s.threads ∧ t.out = s.out ∧ t.agenda = s.agenda

/-- A group-level instruction whose effective set is empty retires and changes nothing: neither its destination
nor a marked source (R46). -/
def Obligations.EmptyEffectiveSet : Prop :=
  ∀ (s : State) (c : Cur) (g : Group) (p : Path) (o : ROps) (m : MOps) (a : AOps) (ty : RType) (it : RItem)
    (op : CopyOp) (ch : BitVec 4) (chs : BitVec 16) (sg : SigOp) (sc : Scope) (acq : Bool) (cd : SigCond) (vt : Vote),
    s.Acts c g p → p.replay = none →
    (∀ i r, scalarRule i = some r ∨ scalarMoveRule i = some r → p.eff g r.guard = 0 →
      exec i s = .next (s.retired c g p)) ∧
    (p.eff g o.g = 0 → ∀ i ∈ [Instr.xvote vt o, .pcnt o, .yield o, .trap o, .brk o, .trmark o, .claim ty o, .acq ty o,
        .acqTry ty o, .rel ty o, .rstat ty it o, .copy op ch o, .qfence chs o, .cpoll chs o, .sleep o, .sleept o,
        .mbatch o, .mwait o, .enq o, .sigop sg sc acq o, .sigwait cd sc o],
      exec i s = .next (s.retired c g p)) ∧
    (p.eff g o.g = 0 → o.d.toNat < g.regn → exec (.wpop o) s = .next (s.retired c g p)) ∧
    (p.eff g m.g = 0 → ∀ i ∈ [Instr.lds m, .sts m, .prf m, .hqry m, .saop m, .sacas m, .csnap m, .fence m, .synca m,
        .syncr m, .sack m, .bara m, .barw m, .dcf m], exec i s = .next (s.retired c g p)) ∧
    (p.eff g a.g = 0 → a.vi.toNat < g.regn → exec (.mma a) s = .next (s.retired c g p) ∧
      exec (.copym a) s = .next (s.retired c g p)) ∧
    (p.eff g a.g = 0 → ∀ i ∈ [Instr.mld a, .mst a, .mzero a], exec i s = .next (s.retired c g p))

/-! ### Control -/

/-- The direct branches: BRA and CALL always go, BALL when its condition holds in every lane of the path, BANY
when in one; CALL leaves the next header's address in s62; a branch not taken retires; a target that is no word
address below 2^56 takes cause 0x01 at the branch (R104, R106, R108, R112). The indirect branches: BRX and RET go
to the address in s_a, BRS to its literal offset when the condition of s_a holds; marks take effect, BRS's
whether it goes or not; a bad target takes cause 0x01; BRS retires when its guard leaves no lane and when its
condition does not hold. NOP retires (R46, R104, R107, R108, R111, R114). -/
def Obligations.Branches : Prop :=
  (∀ (s : State) (c : Cur) (g : Group) (p : Path) (o : BOps) (t : Int) (on : Word), s.Acts c g p →
    t = p.pc.toNat + 4 * o.off.toInt →
    on = (if o.n then ~~~g.guard o.g else g.guard o.g) &&& p.mask →
    (0 ≤ t ∧ t < 2 ^ 56 ∧ t % 4 = 0 →
      exec (.bra o) s = .next (s.went c g p (BitVec.ofInt 56 t)) ∧
      exec (.call o) s = .next (s.went c (g.setSreg 62 (c.next.setWidth 64)) p (BitVec.ofInt 56 t)) ∧
      (on = p.mask → exec (.ball o) s = .next (s.went c g p (BitVec.ofInt 56 t))) ∧
      (on ≠ 0 → exec (.bany o) s = .next (s.went c g p (BitVec.ofInt 56 t)))) ∧
    (on ≠ p.mask → exec (.ball o) s = .next (s.retired c g p)) ∧
    (on = 0 → exec (.bany o) s = .next (s.retired c g p)) ∧
    (¬(0 ≤ t ∧ t < 2 ^ 56 ∧ t % 4 = 0) →
      exec (.bra o) s = fatal s c g p 0x01 p.mask 0 ∧ exec (.call o) s = fatal s c g p 0x01 p.mask 0 ∧
      (on = p.mask → exec (.ball o) s = fatal s c g p 0x01 p.mask 0) ∧
      (on ≠ 0 → exec (.bany o) s = fatal s c g p 0x01 p.mask 0))) ∧
  (∀ (s : State) (c : Cur) (g gm : Group) (p : Path) (o : ROps) (cc : Cond) (t : Int), s.Acts c g p →
    gm = (if o.la then g.setSreg o.a 0 else g) →
    ((g.sreg o.a).toNat < 2 ^ 56 ∧ (g.sreg o.a).toNat % 4 = 0 →
      exec (.brx o) s = .next (s.went c gm p ((g.sreg o.a).setWidth 56)) ∧
      exec (.ret o) s = .next (s.went c gm p ((g.sreg o.a).setWidth 56))) ∧
    (¬((g.sreg o.a).toNat < 2 ^ 56 ∧ (g.sreg o.a).toNat % 4 = 0) →
      exec (.brx o) s = fatal s c g p 0x01 p.mask 0 ∧ exec (.ret o) s = fatal s c g p 0x01 p.mask 0) ∧
    (p.eff g o.g = 0 → exec (.brs cc o) s = .next (s.retired c gm p)) ∧
    (p.eff g o.g ≠ 0 → condMet cc (g.sreg o.a).toInt 0 = false →
      exec (.brs cc o) s = .next (s.retired c gm p)) ∧
    (p.eff g o.g ≠ 0 → condMet cc (g.sreg o.a).toInt 0 = true →
      t = p.pc.toNat + 4 * (uniformB g o.b).toInt →
      exec (.brs cc o) s = if 0 ≤ t ∧ t < 2 ^ 56 ∧ t % 4 = 0 then .next (s.went c gm p (BitVec.ofInt 56 t))
        else fatal s c g p 0x01 p.mask 0) ∧
    exec (.nop o) s = .next (s.retired c g p))

/-- BRV: with every lane taken it branches, with none it retires; else, the other slot empty, the fall half goes
on in slot 0 and the taken half stands at the target in slot 1, and each half reads in its own lanes what the
path read; with the other slot held and the stack full it takes cause 0x80, and while the other slot's path is
the one to be spilled and its instruction still waits for memory, it waits under stall reason 14 (R89, R91, R94,
R109). A sibling that waits for something else, or makes the splitter wait for 7,936 cycles, is pushed without what it
has not retired, which is the model's choice (log 28). -/
def Obligations.DivergentBranch : Prop :=
  ∀ (s : State) (c : Cur) (g : Group) (p : Path) (o : BOps) (t : Int) (on : Word), s.Acts c g p →
    t = p.pc.toNat + 4 * o.off.toInt → 0 ≤ t ∧ t < 2 ^ 56 ∧ t % 4 = 0 →
    on = (if o.n then ~~~g.guard o.g else g.guard o.g) &&& p.mask →
    (on = p.mask → exec (.brv o) s = .next (s.went c g p (BitVec.ofInt 56 t))) ∧
    (on ≠ p.mask → on = 0 → exec (.brv o) s = .next (s.retired c g p)) ∧
    (on ≠ p.mask → on ≠ 0 → c.p.slot = false → g.slot1 = none →
      ∃ g' pf pt, exec (.brv o) s = .next (s.setGroup g') ∧ g'.slot0 = some pf ∧ g'.slot1 = some pt ∧
        pf.mask = p.mask &&& ~~~on ∧ pt.mask = on ∧ pf.pc = c.next ∧
        pt.pc = BitVec.ofInt 56 t ∧ pt.hdr = BitVec.ofInt 56 t ∧
        (∀ r l, bitAt pf.mask l = true → g'.vlane false r l = g.vlane false r l) ∧
        (∀ r l, bitAt on l = true → g'.vlane true r l = g.vlane false r l) ∧
        { g' with slot0 := g.slot0, slot1 := g.slot1, m1 := g.m1 } = g) ∧
    (on ≠ p.mask → on ≠ 0 → (g.path (!c.p.slot)).isSome = true →
      ∀ b gr, s.block? g.blk = some b → s.grid? b.grid = some gr → gr.desc.dstack ≤ g.stack.length →
      exec (.brv o) s = fatal s c g p 0x80 p.mask 0) ∧
    (on ≠ p.mask → on ≠ 0 → ∀ b gr q w, s.block? g.blk = some b → s.grid? b.grid = some gr →
      g.stack.length < gr.desc.dstack → s.stackBusy b g.idx = false → g.path (!c.p.slot) = some q →
      q.joining = false → q.wait = some w → p.ageNow < q.age →
      (w.reason = 3 → p.age < 7936 → exec (.brv o) s = .next (s.waits c g p .split 14)) ∧
      (w.reason ≠ 3 ∨ 7936 ≤ p.age → b.slot = none →
        ∃ u g', exec (.brv o) s = .next u ∧ u.group? g.id = some g' ∧
          g'.stack = q.dropped.pushed :: g.stack))

/-- JOIN: a group's only path passes; a path arriving while the other slot's path runs on waits at the JOIN under
stall reason 8; two paths at one JOIN become one, with both paths' lanes, each reading what it read, and it
passes; a path whose JOIN lies below the other's passes first (R92, R110). EXIT: the effective lanes leave the
path; with none it retires; with all of a group's last lanes the group ends and its registers go back to its
block and its cluster (R113, R211). -/
def Obligations.JoinsAndExits : Prop :=
  (∀ (s : State) (c : Cur) (g : Group) (p q : Path) (b : Block) (gr : Grid) (o : ROps),
    s.ActsIn c g p b gr → g.Shaped → p.handler = none → g.stack = [] →
    (g.path (!c.p.slot) = none → exec (.join o) s = .next (s.retired c g p)) ∧
    (g.path (!c.p.slot) = some q → q.handler = none → q.joining = false →
      exec (.join o) s = .next (s.waits c g { p with joining := true, age := 0 } .retry 8)) ∧
    (g.path (!c.p.slot) = some q → q.handler = none → q.joining = true → p.pc < q.pc →
      exec (.join o) s = .next (s.setGroup (g.setPath c.p.slot (some { p.advance c with age := 0 })))) ∧
    (g.path (!c.p.slot) = some q → q.handler = none → q.joining = true → p.pc = q.pc →
      ∃ t g' m, exec (.join o) s = .next t ∧ t.group? g.id = some g' ∧ g'.slot0 = some m ∧
        g'.slot1 = none ∧ m.mask = p.mask ||| q.mask ∧ m.pc = c.next ∧ m.joining = false ∧
        (∀ r l, r < 64 → bitAt p.mask l = true → bitAt q.mask l = false →
          g'.vlane false r l = g.vlane c.p.slot r l) ∧
        (∀ r l, r < 64 → bitAt q.mask l = true → bitAt p.mask l = false →
          g'.vlane false r l = g.vlane (!c.p.slot) r l))) ∧
  (∀ (s : State) (c : Cur) (g : Group) (p : Path) (b : Block) (gr : Grid) (o : ROps),
    s.ActsIn c g p b gr →
    (p.eff g o.g = 0 → exec (.exit o) s = .next (s.retired c g p)) ∧
    (p.mask &&& ~~~(p.eff g o.g) ≠ 0 → p.eff g o.g ≠ 0 →
      exec (.exit o) s = .next (s.retired c g { p with mask := p.mask &&& ~~~(p.eff g o.g) })) ∧
    (p.eff g o.g = p.mask → p.mask ≠ 0 → p.handler = none → g.path (!c.p.slot) = none → g.stack = [] →
      ∃ t g' b', exec (.exit o) s = .next t ∧ t.group? g.id = some g' ∧ g'.phase = .ended ∧
        g'.slot0 = none ∧ g'.slot1 = none ∧ g'.phys = [] ∧ t.block? b.id = some b' ∧
        b'.alloc = { b.alloc with reg := b.alloc.reg - g.regn / 8 } ∧ t.mem = s.mem ∧
        (t.cluster (clusterOf b.core)).retest = ((s.cluster (clusterOf b.core)).deferred.map fun r => r.id)))

/-- SLEEP waits n timebase ticks under stall reason 10 (at most 2^32 - 1), or retires at once for n of 0 or less
or an empty effective set; SLEEP_WAKE retires it at its time and not before. YIELD with nothing stacked lets the
other paths go ahead for 64 cycles; with a stacked path it takes its place (R115, R116). AGEING_SWAP: a stacked
path that has aged 4,096 and does not wait takes the slot of the path that issued most recently, slot
0's when slot 1 is empty, and that path goes onto the stack; one that has not retired what it dispatched stops
fetching first; a stacked path of lesser age swaps with none, and no path has to stop fetching for it (R101, R102).
Of two slots' paths that issued in one cycle it takes slot 0's, and a path that waits for something other than
memory, or for longer than 7,936 cycles of the stacked path's age, drops what it has not retired: the model's choices
(log 28). -/
def Obligations.SleepAndYield : Prop :=
  (∀ (s : State) (c : Cur) (g gm : Group) (p : Path) (b : Block) (gr : Grid) (o : ROps) (n : Int),
    s.ActsIn c g p b gr → n = (scalarB g o.b).toInt → gm = (if o.lb then g.setSreg (bField o.b) 0 else g) →
    (p.eff g o.g = 0 → exec (.sleep o) s = .next (s.retired c g p)) ∧
    (p.eff g o.g ≠ 0 → n ≤ 0 → exec (.sleep o) s = .next (s.retired c gm p)) ∧
    (p.eff g o.g ≠ 0 → 0 < n → exec (.sleep o) s =
      .next (s.waits c g p (.sleep (s.timebase.toNat + min n.toNat (2 ^ 32 - 1)) o) 10)) ∧
    (∀ r q w wake, s.Waiting r g q b w → w.kind = .sleep wake o →
      (wake ≤ s.timebase.toNat → exec (.sleepWake r) s = .next (s.retired ⟨r, w.next, w.last⟩
        (g.applyMarks r.slot q.mask (markOf o.lb .s (bField o.b))) q)) ∧
      (s.timebase.toNat < wake → exec (.sleepWake r) s = .next s)) ∧
    (p.eff g o.g ≠ 0 → g.stack = [] →
      exec (.yield o) s = .next (s.retired c g { p with yielded := 64 })) ∧
    (p.eff g o.g ≠ 0 → ∀ q, g.stack = [q] → q.stackWaits = false → b.slot = none → c.p.slot = false →
      exec (.yield o) s = .next (s.setGroup { g with
        slot0 := some q, stack := [{ p.advance c with age := p.age, leaving := false, rob := [] }],
        spills := g.spills + 2 }))) ∧
  (∀ (s : State) (g : Group) (a d q : Path) (b : Block), s.group? g.id = some g → s.block? g.blk = some b →
    g.phase = .running → g.slot0 = some a → g.stack = [q] → q.stackWaits = false → b.slot = none →
    (q.age < 4096 → exec (.ageingSwap g.id) s = .next (s.setGroup { g with
      slot0 := some { a with leaving := false }, slot1 := g.slot1.map fun p => { p with leaving := false } })) ∧
    (4096 ≤ q.age →
      (g.slot1 = none ∨ (g.slot1 = some d ∧ a.leaving = false ∧ d.leaving = false ∧ a.quiet ≤ d.quiet) →
        ((a.joining = true ∨ (a.wait = none ∧ a.liveRob = [])) → exec (.ageingSwap g.id) s =
          .next (s.setGroup { g with
            slot0 := some q, stack := [{ a with leaving := false, rob := [] }], spills := g.spills + 2 })) ∧
        (∀ w, a.joining = false → a.wait = some w → w.reason = 3 → q.age < 7936 → exec (.ageingSwap g.id) s =
          .next (s.setGroup { g with slot0 := some { a with leaving := true } })) ∧
        (∀ w, a.joining = false → a.wait = some w → (w.reason ≠ 3 ∨ 7936 ≤ q.age) →
          ∃ t g', exec (.ageingSwap g.id) s = .next t ∧ t.group? g.id = some g' ∧ g'.slot0 = some q ∧
            g'.stack = [a.dropped.pushed])) ∧
      (g.slot1 = some d → a.leaving = false → d.leaving = false → d.quiet < a.quiet → d.joining = false →
        ∀ w, d.wait = some w → w.reason = 3 → q.age < 7936 → exec (.ageingSwap g.id) s =
          .next (s.setGroup { g with slot1 := some { d with leaving := true } }))))

/-! ### Faults, traps, special registers, waits -/

/-- What a fatal fault leaves: the group frozen with its trap state, its requests at every Reeve withdrawn, a
stop record's contents kept, the halt line of its fault domain raised unless it is raised or the domain is
halted; every other group and virtual device, memory, registers, blocks, grids, cores, caches, stores on their way,
queues' threads, messages and time are as they were (R98, R157, R208, R320). -/
def Obligations.FatalFaults : Prop :=
  ∀ (s : State) (g : Group) (b : Block) (gr : Grid) (slot : Bool) (pc hdr : Va) (cause : BitVec 8)
    (lanes code : Word) (addr : DWord), s.group? g.id = some g → s.block? g.blk = some b →
    s.grid? b.grid = some gr →
    ∃ t, s.freeze g slot pc hdr cause lanes code addr = .next t ∧
      t.group? g.id = some (g.frozenBy slot pc hdr cause lanes code addr) ∧
      (∀ n, n ≠ g.id → t.group? n = s.group? n) ∧
      (∀ c r, r ∈ (t.cluster c).queue ∨ r ∈ (t.cluster c).deferred → r.path.grp ≠ g.id) ∧
      (t.vdev b.vd).frozen = (s.vdev b.vd).frozen ++
        [⟨some g.id, none, cause, pc, addr, lanes, s.timebase.toNat⟩] ∧
      ((s.vdev b.vd).halted.contains gr.fdom = false →
        (s.vdev b.vd).raised.any (fun h => h.fdom == gr.fdom) = false →
        (t.vdev b.vd).raised = (s.vdev b.vd).raised ++
          [⟨gr.fdom, s.timebase.toNat, false, false, false⟩]) ∧
      (∀ v, v ≠ b.vd → t.vdev v = s.vdev v) ∧
      t.mem = s.mem ∧ t.regs = s.regs ∧ t.blocks = s.blocks ∧ t.grids = s.grids ∧ t.cores = s.cores ∧
      t.home = s.home ∧ t.flight = s.flight ∧ t.l1 = s.l1 ∧ t.rdc = s.rdc ∧ t.threads = s.threads ∧
      t.out = s.out ∧ t.agenda = s.agenda ∧ t.timebase = s.timebase

/-- TAKING AN EXCEPTION, by TRAP: with a handler and a free permit the trap state names cause 0x71, the
instruction after it and its header, the effective lanes and the operand's low word; those lanes stand at the
handler's entry, the path's other lanes wait, and the core has one permit less; nothing else of the group
changes, a marked source neither. Inside a handler, and with a permit but without a handler, it is fatal; without
a permit the path backs off 64 core cycles, then twice as long each time up to 8,192 (R98, R154, R155, R157,
R161). A path may take a permit exactly while one of the core's four is free that is not held for another path;
taking one counts it and ends the holds for that path, and no other's; a permit that comes back while no path has
reached the longest back-off is held for none (R154, R155). That a trap without a handler freezes its group at the
trapping instruction, and only with a permit, and that a trap's marks take no effect, is inferred (log 8); so is that
a path that backs off has nothing left in the reorder buffer (log 28). -/
def Obligations.TrapEntry : Prop :=
  (∀ (s : State) (c : Cur) (g : Group) (p : Path) (b : Block) (gr : Grid) (o : ROps) (e : Word),
    s.ActsIn c g p b gr → e = p.eff g o.g → e ≠ 0 → p.replay = none →
    (p.handler = none → gr.desc.handler ≠ 0 → (s.core b.core).permitFor c.p = true →
      exec (.trap o) s = .next ((s.setGroup (({ g with trap := {
          cause := 0x71, pc := c.next.setWidth 64, hdr := (if c.last then c.next else p.hdr).setWidth 64,
          mask := e, code := (scalarB g o.b).setWidth 32, addr := 0, slot := c.p.slot } }).setPath c.p.slot
        (some ({ p with mask := e, handler := some ⟨p.mask &&& ~~~e, true, none⟩, backoff := 0,
                        starved := none }.goto (gr.desc.handler.setWidth 56))))).setCore
          ((s.core b.core).takePermit c.p))) ∧
    (p.handler.isSome = true ∨ (gr.desc.handler = 0 ∧ (s.core b.core).permitFor c.p = true) →
      exec (.trap o) s = s.freeze g c.p.slot p.pc p.hdr 0x71 e ((scalarB g o.b).setWidth 32) 0) ∧
    (p.handler = none → (s.core b.core).permitFor c.p = false → p.starved = none →
      ∃ n, n = (if p.backoff = 0 then 64 else min (2 * p.backoff) 8192) ∧
        exec (.trap o) s = .next (s.waits c g { p with
          backoff := n, starved := if n = 8192 then some (s.core b.core).cycle else none,
          rob := [], due := [] } (.backoff n) 13))) ∧
  (∀ (k : Core) (r : PathRef),
    (k.holds = [] → (k.permitFor r = true ↔ k.permits < 4)) ∧ (k.takePermit r).permits = k.permits + 1 ∧
    (∀ q n, (q, n) ∈ (k.takePermit r).holds ↔ (q, n) ∈ k.holds ∧ q ≠ r) ∧
    (∀ q n, q ≠ r → k.holds = [(q, n)] →
      (k.permitFor r = true ↔ k.permits < 3) ∧ (k.permitFor q = true ↔ k.permits < 4)) ∧
    ∀ (s : State) (c : BitVec 9), s.starvedPaths (s.core c) = [] →
      s.returnPermit c = s.setCore { s.core c with permits := (s.core c).permits - 1 })

/-- RETURNING FROM AN EXCEPTION: TRET outside a handler takes cause 0x03; inside one, TPC and TPH naming an
instruction and its header, the handler's lanes and those that waited stand at TPC under TPH, no handler runs,
and the permit is back; a resume point that names none takes cause 0x01. `s1` and `p1` are what reading the code
at TPH leaves (R156, R163). That a page the check cannot read makes it fail is the model's own choice (log 48). -/
def Obligations.TrapReturn : Prop :=
  ∀ (s s1 : State) (c : Cur) (g : Group) (p p1 : Path) (b : Block) (gr : Grid) (o : ROps) (h : Handler),
    s.ActsIn c g p b gr →
    (p.handler = none → exec (.tret o) s = fatal s c g p 0x03 p.mask 0) ∧
    (p.handler = some h → h.permit = true →
      s.checkResume b c.p p g.trap.pc g.trap.hdr = (.good, p1, s1) →
      exec (.tret o) s = .next ((s1.setGroup (g.setPath c.p.slot (some { p1.goto (g.trap.pc.setWidth 56) with
        hdr := g.trap.hdr.setWidth 56, mask := p1.mask ||| h.rest, handler := none }))).returnPermit b.core) ∧
      p1.mask = p.mask ∧ p1.handler = p.handler) ∧
    (p.handler = some h → s.checkResume b c.p p g.trap.pc g.trap.hdr = (.bad, p1, s1) →
      exec (.tret o) s = fatal s1 c g p1 0x01 p.mask 0)

/-- BRK stops its block for the debugger where KZCTL.BRKEN is set, and retires; else it takes cause 0x70 as TRAP
takes 0x71. PPT without a stop pending retires; with one, a reconverged group inside the window of R315 stops
after it with its note; a note number the descriptor does not have takes cause 0x01 (R157, R162, R164, R315). That
cause 0x70 without a handler freezes its group at the BRK, and only with a permit, is inferred (log 8); how a note
that breaks its own layout reads is the model's choice (log 16). -/
def Obligations.BreakAndPreempt : Prop :=
  ∀ (s s1 : State) (c : Cur) (g : Group) (p : Path) (b : Block) (gr : Grid) (o : ROps) (bs : List Byte),
    s.ActsIn c g p b gr →
    (p.eff g o.g ≠ 0 → (s.kz b.vd 0x008).getLsbD 59 = true → b.dbg = false → b.dbgReq = false →
      exec (.brk o) s = .next ((s.setBlock { b with dbgReq := true, dbgWhy := some (c.p, 0x70) }).retired
        c g p)) ∧
    (p.eff g o.g ≠ 0 → (s.kz b.vd 0x008).getLsbD 59 = false →
      (p.handler.isSome = true ∨ (gr.desc.handler = 0 ∧ (s.core b.core).permitFor c.p = true) →
        exec (.brk o) s = s.freeze g c.p.slot p.pc p.hdr 0x70 (p.eff g o.g) 0 0) ∧
      (p.handler = none → gr.desc.handler ≠ 0 → (s.core b.core).permitFor c.p = true → p.replay = none →
        exec (.brk o) s = .next ((s.setGroup (({ g with trap := {
            cause := 0x70, pc := c.next.setWidth 64, hdr := (if c.last then c.next else p.hdr).setWidth 64,
            mask := p.eff g o.g, code := 0, addr := 0, slot := c.p.slot } }).setPath c.p.slot
          (some ({ p with mask := p.eff g o.g, handler := some ⟨p.mask &&& ~~~p.eff g o.g, true, none⟩,
                          backoff := 0, starved := none }.goto (gr.desc.handler.setWidth 56))))).setCore
            ((s.core b.core).takePermit c.p)))) ∧
    (gr.desc.nlive ≤ (uniformB g o.b).toNat → exec (.ppt o) s = fatal s c g p 0x01 p.mask 0) ∧
    ((uniformB g o.b).toNat < gr.desc.nlive →
      s.rangeBusy b.vd (gr.desc.livetab.toNat + 48 * (uniformB g o.b).toNat) 48 = false →
      s.deviceRead b.vd (gr.desc.livetab.toNat + 48 * (uniformB g o.b).toNat) 48 = some (bs, s1) →
      (noteFits (noteOf (uniformB g o.b).toNat bs) g.regn b.alloc.scr = false → exec (.ppt o) s = fatal s1 c g p 0x01 p.mask 0) ∧
      (noteFits (noteOf (uniformB g o.b).toNat bs) g.regn b.alloc.scr = true →
        (b.stop = none → exec (.ppt o) s = .next (s1.retired c g p)) ∧
        (∀ since, b.stop = some since → s1.stackBusy b g.idx = false →
          (g.reconverged = true → s1.timebase.toNat < since + 20000 → exec (.ppt o) s =
            .next (s1.stopGroup b (g.setPath c.p.slot (some (p.advance c)))
              (some (noteOf (uniformB g o.b).toNat bs)))) ∧
          (since + 20000 ≤ s1.timebase.toNat → exec (.ppt o) s = .next (s1.retired c g p)))))

/-- RDSR and WRSR: a number outside the map takes cause 0x01, one of 0x100 to 0x1FF outside manufacturing mode
cause 0x03, whatever the guard holds; a read gives the register's value, zero-extended, in s_d; a write clears
FSTAT's flags where s_a has ones, sets TPC and TPH inside a handler only, and changes no other register; in
manufacturing mode 0x100 reads the die's serial and speed bin, the others of 0x100 to 0x1FF read 0, and writes to
them do nothing (R25, R58, R158, R159, R363). TRMARK retires, and its record is written where marks are traced (R165,
R356, R357); that it does not wait for a PGINV over the trace ring either is the model's choice between R165 and R271
(log 35). BIST outside manufacturing mode takes cause 0x03; inside it, with nothing else on its units, it counts under
stall reason 6 until it retires, with the device's result, which is the silicon's, in s_d, and leaves what it tested
reading zero (R364; logs 4, 30). -/
def Obligations.SpecialRegisters : Prop :=
  (∀ (s : State) (c : Cur) (g gm : Group) (p : Path) (b : Block) (gr : Grid) (o : ROps) (n : Nat),
    s.ActsIn c g p b gr → n = (uniformB g o.b).toNat →
    gm = (if o.la then g.setSreg o.a 0 else g) →
    ((0x00B ≤ n ∧ n ≤ 0x00F) ∨ (0x018 ≤ n ∧ n ≤ 0x01F) ∨ (0x036 ≤ n ∧ n ≤ 0x0FF) ∨ 0x200 ≤ n →
      exec (.rdsr o) s = fatal s c g p 0x01 p.mask 0 ∧ exec (.wrsr o) s = fatal s c g p 0x01 p.mask 0) ∧
    (0x100 ≤ n ∧ n ≤ 0x1FF → s.mfg = false →
      exec (.rdsr o) s = fatal s c g p 0x03 p.mask 0 ∧ exec (.wrsr o) s = fatal s c g p 0x03 p.mask 0) ∧
    (p.eff g o.g ≠ 0 → 0x100 ≤ n ∧ n ≤ 0x1FF → s.mfg = true →
      (∃ v, exec (.rdsr o) s = .next (s.retired c ((g.setSreg o.d v).setFlags 0) p) ∧
        (∀ m, n = 0x100 → s.defects.find? (fun d => d.1 == dieOf b.core) = some (dieOf b.core, m) →
          v = BitVec.ofNat 64 (natOfBytes (Memory.readN m 8 2) + (Memory.read m 0x11).toNat * 2 ^ 16)) ∧
        (n ≠ 0x100 → v = 0)) ∧
      exec (.wrsr o) s = .next (s.retired c gm p)) ∧
    (p.eff g o.g ≠ 0 → n ≤ 0x00A ∨ (0x010 ≤ n ∧ n ≤ 0x017) ∨ (0x020 ≤ n ∧ n ≤ 0x035) →
      (∃ v, exec (.rdsr o) s = .next (s.retired c ((g.setSreg o.d v).setFlags 0) p) ∧
        (n = 0x000 → v = g.fstat.setWidth 64) ∧ (n = 0x001 → v = BitVec.ofNat 64 g.idx) ∧
        (n = 0x003 → v = BitVec.ofNat 64 b.bid) ∧ (n = 0x005 → v = BitVec.ofNat 64 b.cid) ∧
        (n = 0x010 → v = s.timebase) ∧ (n = 0x011 → v = p.mask.setWidth 64) ∧
        (n = 0x012 → v = if c.p.slot then 1 else 0) ∧ (n = 0x013 → v = BitVec.ofNat 64 g.regn) ∧
        (n = 0x014 → v = BitVec.ofNat 64 g.stack.length) ∧
        (n = 0x030 → v = g.trap.cause.setWidth 64) ∧ (n = 0x031 → v = g.trap.pc) ∧
        (n = 0x032 → v = g.trap.hdr) ∧ (n = 0x033 → v = g.trap.mask.setWidth 64) ∧
        (n = 0x034 → v = g.trap.code.setWidth 64) ∧ (n = 0x035 → v = g.trap.addr)) ∧
      (n = 0x000 → exec (.wrsr o) s =
        .next (s.retired c { gm with fstat := g.fstat &&& ~~~((g.sreg o.a).setWidth 32) } p)) ∧
      (n = 0x031 → exec (.wrsr o) s = .next (s.retired c
        (if p.handler.isSome then { gm with trap := { g.trap with pc := g.sreg o.a } } else gm) p)) ∧
      (n = 0x032 → exec (.wrsr o) s = .next (s.retired c
        (if p.handler.isSome then { gm with trap := { g.trap with hdr := g.sreg o.a } } else gm) p)) ∧
      (n ≠ 0x000 → n ≠ 0x031 → n ≠ 0x032 → exec (.wrsr o) s = .next (s.retired c gm p)))) ∧
  (∀ (s : State) (c : Cur) (g gm : Group) (p : Path) (b : Block) (gr : Grid) (o : ROps) (cls : BistClass),
    s.ActsIn c g p b gr → gm = (if o.lb then g.setSreg (bField o.b) 0 else g) →
    (p.eff g o.g ≠ 0 → s.tracing b.vd = false → exec (.trmark o) s = .next (s.retired c gm p)) ∧
    (p.eff g o.g ≠ 0 → s.tracing b.vd = true →
      exec (.trmark o) s = .next ((s.trace (dieOf b.core) b.vd [⟨1, b.phaseSum,
        whereOf b g.idx, s.timebase, p.pc.setWidth 64, (scalarB g o.b).setWidth 32, p.mask, []⟩]).retired
        c gm p)) ∧
    (s.mfg = false → exec (.bist cls o) s = fatal s c g p 0x03 p.mask 0) ∧
    (s.mfg = true → bistBusy s b cls = true → exec (.bist cls o) s = fatal s c g p 0x03 p.mask 0) ∧
    (s.mfg = true → bistBusy s b cls = false → p.eff g o.g = 0 → exec (.bist cls o) s = .next (s.retired c g p)) ∧
    (s.mfg = true → bistBusy s b cls = false → p.eff g o.g ≠ 0 →
      (p.wait = none → exec (.bist cls o) s = .next (s.waits c g p .retry 6)) ∧
      (p.wait.isSome = true → ∃ t, exec (.bist cls o) s = .next (t.retired c
          ((g.setSreg o.d (marchResult (Config.railWord s.free (s.rails (dieOf b.core))))).setFlags 0) p) ∧
        (cls = .tile ∨ cls = .scr → t = { s with free := s.free + 1 }) ∧
        (cls = .l1 → ∀ x ∈ t.l1, x.core ≠ b.core) ∧
        (cls = .vrf → (∀ h ∈ t.groups, h.blk = b.id → h.id ≠ g.id →
            ∀ q ∈ h.phys, ∀ l, laneAt q.lanes l = 0) ∧
          t.mem = s.mem ∧ t.l1 = s.l1 ∧ t.blocks = s.blocks))))

/-- A path that arrives at a word that is no header takes cause 0x01 at that word's address; one whose words do
not decode takes their cause at the instruction, a clause's first one or a later one. The group freezes. The code
stands here in the line its home has used last (R36, R57, R58, R98). Illegal code and failed fetches: the illegal
word's cause freezes the group at its address; a page that is absent asks the host, and the path waits for the
answer under stall reason 0; any other refusal is fatal (R36, R58, R105, R175). A word of code is the four bytes at
its address, the lowest first, of a line its home holds with execute permission and no view (R34, R270): reading it
makes the line the last used and changes nothing else, which are the model's own choices (log 23, the read in its
step; log 43, which line is the last used). -/
def Obligations.FetchFaults : Prop :=
  (∀ (s : State) (st : Site) (p : Path) (a : Va) (l : HomeLine) (b0 b1 b2 b3 : Byte),
    s.homeOf st.vd a = st.die → s.homeLine? st.die st.vd (lineOf a) = some l → l.inL2 = true →
    a.toNat % 4 = 0 → l.leaf.x = true → l.leaf.view = 0 → s.pageBusy st.vd (lineOf a) = false →
    (l.bytes.drop (a.toNat % 128)).take 4 = [b0, b1, b2, b3] →
    s.codeWord st p a = (.ok [b3 ++ b2 ++ b1 ++ b0], p, s.putHome l) ∧
      ∀ die vd la, (s.putHome l).homeLine? die vd la = s.homeLine? die vd la) ∧
  (∀ (s s' : State) (r : PathRef) (t : List Item) (g : Group) (p : Path) (b : Block) (st : Site) (hw w : Word)
    (ws : List Word) (h : Header) (e : DecodeError) (k : Nat),
    s.agenda = .run r :: t → s' = { s with agenda := t } → s'.MayRun r g p b → st = ⟨b.core, b.vd, r⟩ →
    s'.codeWord st p p.hdr = (.ok [hw], p, s') →
    (decodeHeader hw = .error e → step s = s'.freeze g r.slot p.hdr p.hdr 0x01 p.mask 0 0) ∧
    (decodeHeader hw = .ok h → p.pc ≠ p.hdr →
      (p.pc = p.hdr + 4 ∧ g.clauseReady h = true ∧ s'.observeWait b g h.wait = (g, s')) ∨
        (p.pc ≠ p.hdr + 4 ∧
          s'.clauseIndex st p p.pc (p.hdr + 4) 0 h.count.toNat = (some (some k), p, s')) →
      s'.codeWord st p p.pc = (.ok [w], p, s') →
      s'.codeWords st p p.pc (wordsOf w) = (.ok ws, p, s') →
      decodeWords ws = .error e → step s = s'.freeze g r.slot p.pc p.hdr e.cause p.mask 0 0)) ∧
  (∀ (s : State) (r : PathRef) (g : Group) (p : Path) (b : Block) (gr : Grid) (a : Va) (cause : BitVec 8),
    s.group? r.grp = some g → g.path r.slot = some p → s.block? g.blk = some b →
    s.grid? b.grid = some gr →
    (fetch s r = .run s (.illegalInstructionWord r a cause) →
      ∃ t, exec (.illegalInstructionWord r a cause) s = .next t ∧
        t.group? r.grp = some (g.frozenBy r.slot a p.hdr cause p.mask 0 0)) ∧
    (fetch s r = .run s (.fetchFault r) → s.codeFault ⟨b.core, b.vd, r⟩ p (codeSpan p) = some (0x20, a) →
      ∃ t q, exec (.fetchFault r) s = .next t ∧ t.group? r.grp = some (g.setPath r.slot (some q)) ∧
        (∃ tag, q = { p with wait := some ⟨.fetch tag, 0, s.timebase.toNat, p.pc, false⟩, pend := [] } ∧
          (⟨tag, a, .fetch r⟩ : FaultRec) ∈ (t.vdev b.vd).faults)) ∧
    (fetch s r = .run s (.fetchFault r) → s.codeFault ⟨b.core, b.vd, r⟩ p (codeSpan p) = some (0x21, a) →
      ∃ t, exec (.fetchFault r) s = .next t ∧
        t.group? r.grp = some (g.frozenBy r.slot p.pc p.hdr 0x21 p.mask 0 (a.setWidth 64))))

/-- CLAUSE_WAIT_SATISFIED lets the clause's first instruction issue once the selected counter is at or below thr,
and not before; TRAP_BACKOFF_RETRY ends a back-off whose cycles are over; PERMIT_HOLD_EXPIRY ends the holds whose
8,192 cycles are over, and no others. `s1` and `p1` are what reading the header leaves (R35, R155). A clause's
counter is at or below its threshold exactly so: open batches, outstanding copies, or unacknowledged stores, none
of them above 15 (R35). -/
def Obligations.WaitsEnd : Prop :=
  (∀ (s s1 : State) (r : PathRef) (g : Group) (p p1 : Path) (b : Block) (w : Wait) (hw : Word) (h : Header),
    s.Waiting r g p b w →
    (w.kind = .clause → s.codeWord ⟨b.core, b.vd, r⟩ p p.hdr = (.ok [hw], p1, s1) → decodeHeader hw = .ok h →
      (g.clauseReady h = true → h.wait = 3 → exec (.clauseWaitSatisfied r) s =
        .next (s1.setGroup (g.setPath r.slot (some { p1 with pc := p.hdr + 4, wait := none })))) ∧
      (g.clauseReady h = true → ∃ t q, exec (.clauseWaitSatisfied r) s = .next t ∧
        (∃ g', t.group? g.id = some g' ∧ g'.path r.slot = some q) ∧ q.pc = p.hdr + 4 ∧ q.wait = none) ∧
      (g.clauseReady h = false → exec (.clauseWaitSatisfied r) s = .next s)) ∧
    (w.kind = .backoff 0 → exec (.trapBackoffRetry r) s =
      .next (s.setGroup (g.setPath r.slot (some { p with wait := none })))) ∧
    (∀ n, w.kind = .backoff (n + 1) → exec (.trapBackoffRetry r) s = .next s) ∧
    (∀ core, ∃ t, exec (.permitHoldExpiry core) s = .next t ∧ t.groups = s.groups ∧
      (t.core core).permits = (s.core core).permits ∧
      ∀ q n, (q, n) ∈ (t.core core).holds ↔ (q, n) ∈ (s.core core).holds ∧ (s.core core).cycle < n)) ∧
  (∀ (g : Group) (h : Header),
    (h.wait = 0 → g.clauseReady h = true) ∧
    (h.wait = 1 → (g.clauseReady h = true ↔ g.batches.length ≤ h.thr.toNat)) ∧
    (h.wait = 2 → (g.clauseReady h = true ↔ g.copies.length ≤ h.thr.toNat)) ∧
    (h.wait = 3 → (g.clauseReady h = true ↔ g.cnt.sys.toNat ≤ h.thr.toNat)))

/-! ### Memory -/

/-- LD, LDU, LDS and LDM complete when their region admits them, every offset lies inside it and every line is
confirmed: the destination takes the bytes at the addresses formed by R168, R169 and R181, low byte first,
extended as x says; an acquire follows; memory is as it was, but for what filled lines displace from the home's
caches (R178, R179, R181, R189, R268). Which line is displaced, and that a mark on the destination takes effect
before the write, are the model's choices (logs 43, 45). -/
def Obligations.Loads : Prop :=
  ∀ (s s' : State) (c : Cur) (g : Group) (p : Path) (b : Block) (gr : Grid) (o : MOps) (e : Word)
    (r : Region) (reqs : List LaneReq) (rs : List LineRes) (ls : List (Nat × List Byte)) (st : Site),
    s.ActsIn c g p b gr → p.replay = none → e = p.eff g o.g → e ≠ 0 → st = ⟨b.core, b.vd, c.p⟩ →
    s.Confirms st p r .read reqs rs s' → ls = g.linesRead rs →
    s.KeepsMem s' ∧
    ((∀ n ∈ memNames o (sizeRegs o.size) true, n < g.regn) → s.stage1 b gr o.h .ldv = some r →
      outside r e (laneOffset g c.p.slot o) (sizeBytes o.size) = 0 →
      reqs = laneReqs r (gridIndex b g) e (laneOffset g c.p.slot o) (sizeBytes o.size) →
      g.canWrite (sizeRegs o.size) = true →
      exec (.ld o) s = .next ((s'.loaded st g o rs).2.retired c ((s'.loaded st g o rs).1.applyWrites
        c.p.slot p.mask e ⟨(List.range (sizeRegs o.size)).map fun i => (o.d.toNat + i, lanesOf fun l =>
          loadWord o.size (o.x == 1) (laneRead ls reqs l) i), none, none, 0, markOf o.la .v o.a⟩) p)) ∧
    ((∀ n ∈ memNames o (sizeRegs o.size) false, n < g.regn) → s.stage1 b gr o.h .lds = some r →
      r.inside (uniformOffset g o) (sizeBytes o.size) = true →
      reqs = uniformReqs r e (uniformOffset g o) (sizeBytes o.size) →
      g.canWrite (sizeRegs o.size) = true →
      exec (.ldu o) s = .next ((s'.loaded st g o rs).2.retired c ((s'.loaded st g o rs).1.applyWrites
        c.p.slot p.mask e ⟨(List.range (sizeRegs o.size)).map fun i => (o.d.toNat + i, lanesOf fun _ =>
          loadWord o.size (o.x == 1) (reqValue ls ⟨0, r.bytes 0 0 (uniformOffset g o).toNat
            (sizeBytes o.size)⟩) i), none, none, 0, markOf o.la .s o.a⟩) p)) ∧
    (s.stage1 b gr o.h .lds = some r → r.inside (uniformOffset g o) (sizeBytes o.size) = true →
      reqs = uniformReqs r e (uniformOffset g o) (sizeBytes o.size) →
      exec (.lds o) s = .next ((s'.loaded st g o rs).2.retired c ((s'.loaded st g o rs).1.applyWrites
        c.p.slot p.mask e ⟨[], some (o.d, extend 64 (sizeBytes o.size) (o.x == 1) (reqValue ls
          ⟨0, r.bytes 0 0 (uniformOffset g o).toNat (sizeBytes o.size)⟩)), none, 0,
          markOf o.la .s o.a⟩) p)) ∧
    ((∀ n ∈ memNames o (o.x.toNat + 1) false, n < g.regn) → s.stage1 b gr o.h .ldv = some r →
      (∀ l i, bitAt e l = true → i ≤ o.x.toNat →
        r.inside (uniformOffset g o + (rangeOffset (r.h.space == 9) i l : Int)) 4 = true) →
      reqs = rangeReqs r (gridIndex b g) e (uniformOffset g o) (o.x.toNat + 1) →
      g.canWrite (o.x.toNat + 1) = true →
      ∃ v : Nat → Nat → Word,
        exec (.ldm o) s = .next ((s'.loaded st g o rs).2.retired c ((s'.loaded st g o rs).1.applyWrites
          c.p.slot p.mask e ⟨(List.range (o.x.toNat + 1)).map fun i => (o.d.toNat + i, lanesOf (v i)),
            none, none, 0, markOf o.la .s o.a⟩) p) ∧
        ∀ l i, bitAt e l = true → i ≤ o.x.toNat → v i l = BitVec.ofNat 32 (reqValue ls ⟨l,
          r.bytes (gridIndex b g) l (uniformOffset g o + (rangeOffset (r.h.space == 9) i l : Int)).toNat 4⟩))

/-- ST, STS and STM complete when their region admits them, every offset lies inside it, every line is confirmed
and they may retire: their bytes enter the store buffer, one entry for each line, counted at every level; no line
changes before they drain, nor a byte of memory but for what filled lines displace; the registers are as they
were but for marks (R172, R173, R180, R181, R191). Which line is displaced is the model's choice (log 43). -/
def Obligations.Stores : Prop :=
  ∀ (s s' : State) (c : Cur) (g : Group) (p : Path) (b : Block) (gr : Grid) (o : MOps) (e : Word)
    (r : Region) (reqs : List LaneReq) (rs : List LineRes) (es : List SbEntry × State)
    (bs : List StoreByte) (st : Site),
    s.ActsIn c g p b gr → p.replay = none → e = p.eff g o.g → e ≠ 0 → st = ⟨b.core, b.vd, c.p⟩ →
    s.Confirms st p r .write reqs rs s' → es = s'.entriesFor r.h.idx bs rs →
    s'.MayStore g (if o.ord = .rel then some o.scope else none) es.1 →
    (s.KeepsMem es.2 ∧ es.2.home = s'.home ∧ es.2.l1 = s'.l1 ∧
      es.2.rdc = s'.rdc ∧ es.2.blocks = s.blocks) ∧
    ((∀ n ∈ memNames o (sizeRegs o.size) true, n < g.regn) → s.stage1 b gr o.h .stv = some r →
      outside r e (laneOffset g c.p.slot o) (sizeBytes o.size) = 0 →
      reqs = laneReqs r (gridIndex b g) e (laneOffset g c.p.slot o) (sizeBytes o.size) →
      bs = storeData g c.p.slot o.d.toNat (sizeRegs o.size) reqs →
      exec (.st o) s = .next (es.2.retired c ((g.stored es.1).applyMarks c.p.slot p.mask
        (storeMarks o (sizeRegs o.size) .v .v)) p)) ∧
    (s.stage1 b gr o.h .sts = some r → r.inside (uniformOffset g o) (sizeBytes o.size) = true →
      reqs = uniformReqs r e (uniformOffset g o) (sizeBytes o.size) →
      bs = (r.bytes 0 0 (uniformOffset g o).toNat (sizeBytes o.size)).zip
        (bytesOfNat (sizeBytes o.size) (g.sreg o.d).toNat) →
      exec (.sts o) s = .next (es.2.retired c ((g.stored es.1).applyMarks c.p.slot p.mask
        (storeMarks o 1 .s .s)) p)) ∧
    ((∀ n ∈ memNames o (o.x.toNat + 1) false, n < g.regn) → s.stage1 b gr o.h .stv = some r →
      (∀ l i, bitAt e l = true → i ≤ o.x.toNat →
        r.inside (uniformOffset g o + (rangeOffset (r.h.space == 9) i l : Int)) 4 = true) →
      reqs = rangeReqs r (gridIndex b g) e (uniformOffset g o) (o.x.toNat + 1) →
      bs = storeData g c.p.slot o.d.toNat (o.x.toNat + 1) reqs →
      exec (.stm o) s = .next (es.2.retired c ((g.stored es.1).applyMarks c.p.slot p.mask
        (storeMarks o (o.x.toNat + 1) .s .v)) p))

/-- The entries of a store: one for each line, in the order of the lines, with a number of its own; it marks
exactly the bytes the store writes there, and each holds the last value the store gives it, so that the highest
lane wins; it names the lowest address written there (R172, R180, R264). A group reads its own stores: a byte its
youngest store to the line marked reads as that store wrote it, and every other byte as it read before the store
(R171, R283). -/
def Obligations.StoreBuffer : Prop :=
  (∀ (s : State) (hidx : Nat) (bs : List StoreByte) (rs : List LineRes),
    (s.entriesFor hidx bs rs).1.length = rs.length ∧
    (s.entriesFor hidx bs rs).2 = { s with nextId := s.nextId + rs.length } ∧
    ∀ n x e, rs[n]? = some x → (s.entriesFor hidx bs rs).1[n]? = some e →
      e.id = s.nextId + n ∧ e.key = x.key ∧ e.hidx = hidx ∧
      (∀ y ∈ bs, y.1 / 128 * 128 = x.la → y.1 < 2 ^ 56 → e.va.toNat ≤ y.1) ∧
      ((∃ y ∈ bs, y.1 / 128 * 128 = x.la) →
        ∃ y ∈ bs, y.1 / 128 * 128 = x.la ∧ e.va = BitVec.ofNat 56 y.1) ∧
      ∀ i, i < 128 →
        (e.marks.getLsbD i = bs.any fun y => y.1 / 128 * 128 == x.la && y.1 % 128 == i) ∧
        e.bytes.getD i 0 = bs.foldl (fun v y => if y.1 / 128 * 128 = x.la ∧ y.1 % 128 = i then y.2 else v) 0) ∧
  (∀ (g : Group) (rs : List LineRes) (la : Nat) (x : LineRes) (bs : List Byte)
    (leaf : Option Leaf) (e : SbEntry) (i : Nat),
    rs.find? (fun y => y.la == la) = some x → x.out = .ok bs leaf → bs.length = 128 →
    e.bytes.length = 128 → g.sbRest = [] → i < 128 →
    (({ g with sb := g.sb ++ [e] }).lineBytes rs la).getD i 0 =
      if e.key = x.key ∧ e.marks.getLsbD i = true then e.bytes.getD i 0
      else (g.lineBytes rs la).getD i 0)

/-- Where a line's bytes come from: the core's L1 when it holds all of them; else the line's home on the access's
own die, which fills the L1; a leaf that does not permit the access is cause 0x21; a line homed on another die
whose RDC has no copy is asked for once, with DLINE as its deadline, and the access waits until the answer is
there, which is the line, cause 0x22 after a refusal of the home or cause 0x60 after the deadline; a page under
invalidation waits (R10, R169, R171, R259, R263, R264, R267, R270, R271). The messages' way and the lines' places
are the model's choices (logs 42, 43). -/
def Obligations.CachedLines : Prop :=
  ∀ (s : State) (st : Site) (p : Path) (hidx : Nat) (la : Va) (k : LineKey) (home : BitVec 2),
    k = .mem home st.vd la → lineOf la = la →
    (s.pageBusy st.vd la = true → ∀ a, s.confirm st p hidx a k = (.wait, p, s)) ∧
    (s.pageBusy st.vd la = false →
      (∀ x, s.l1Line? st.core k = some x → leafPermits x.leaf .read = true → x.valid = fullMarks →
        s.confirm st p hidx .read k = (.ok x.bytes x.leaf, p, s)) ∧
      (∀ h, s.l1Line? st.core k = none → home = st.die → s.homeLine? st.die st.vd la = some h →
        h.inL2 = true →
        (h.leaf.permits .read = true → s.confirm st p hidx .read k = (.ok h.bytes (some h.leaf), p,
          (s.putHome h).setL1 ⟨st.core, k, h.bytes, fullMarks, hidx, some h.leaf, []⟩)) ∧
        (h.leaf.permits .read = false → s.confirm st p hidx .read k = (.cause 0x21, p, s.putHome h)) ∧
        (h.leaf.permits .write = false → s.confirm st p hidx .write k = (.cause 0x21, p, s.putHome h)) ∧
        (h.leaf.permits .atomic = false → s.confirm st p hidx .atomic k = (.cause 0x21, p, s.putHome h))) ∧
      (s.l1Line? st.core k = none → home ≠ st.die → s.rdcLine? st.die k = none →
        (p.pend.find? (fun x => x.key == k) = none → (∀ x ∈ s.resps, x.req.who ≠ .path st.path) →
          s.confirm st p hidx .read k = (.wait, { p with pend := p.pend ++ [⟨s.nextId, k⟩] },
            { s with nextId := s.nextId + 1, reqs := s.reqs ++ [⟨s.nextId, st.die, .path st.path, st.vd, home, k,
                .read, hidx, s.timebase.toNat + s.dline st.die, Transit.start st.die home 1, []⟩] })) ∧
        (∀ x, p.pend.find? (fun x => x.key == k) = some x →
          (s.answerOf x.n = none → s.onWay x.n = true → s.confirm st p hidx .read k = (.wait, p, s)) ∧
          (∀ bs l, s.answerOf x.n = some (.data bs l) → leafPermits l .read = true →
            s.confirm st p hidx .read k = (.ok bs l, p, s.setL1 ⟨st.core, k, bs, fullMarks, hidx, l, []⟩)) ∧
          (s.answerOf x.n = some .nak → s.confirm st p hidx .read k = (.cause 0x22, p, s)) ∧
          (s.answerOf x.n = some .expired → s.confirm st p hidx .read k = (.cause 0x60, p, s)))))

/-- What a memory instruction does not survive: a window slot that maps nothing, a space or a permission that
does not admit it takes cause 0x11 in every effective lane; an offset outside the region cause 0x10 in the lanes
it fails for; both before any line is asked for (R157, R166 to R169). An atomic whose region does not admit it
takes cause 0x11, one with a lane outside it 0x10, one with a misaligned lane 0x12, in that order; one whose
release is not over or whose lines are not quiet waits under stall reason 12 (R153, R157, R169, R185). Which
address is reported, where several lanes fail or the region is not in the address space, is inferred (log 19). -/
def Obligations.AccessFaults : Prop :=
  (∀ (s : State) (c : Cur) (g : Group) (p : Path) (b : Block) (gr : Grid) (o : MOps) (e : Word)
    (r : Region) (i : Instr) (u : Use) (ns : List Nat) (bad : Word),
    s.ActsIn c g p b gr → p.replay = none → e = p.eff g o.g → e ≠ 0 →
    (i, u, ns) ∈ [(Instr.ld o, Use.ldv, memNames o (sizeRegs o.size) true),
      (.st o, .stv, memNames o (sizeRegs o.size) true), (.ldu o, .lds, memNames o (sizeRegs o.size) false),
      (.lds o, .lds, []), (.sts o, .sts, []), (.ldm o, .ldv, memNames o (o.x.toNat + 1) false),
      (.stm o, .stv, memNames o (o.x.toNat + 1) false)] →
    (∀ n ∈ ns, n < g.regn) →
    (s.stage1 b gr o.h u = none → exec i s = fatal s c g p 0x11 e 0) ∧
    (s.stage1 b gr o.h u = some r → i = .ld o ∨ i = .st o →
      bad = outside r e (laneOffset g c.p.slot o) (sizeBytes o.size) → bad ≠ 0 →
      exec i s = fatal s c g p 0x10 bad (offAddr r (gridIndex b g) bad (laneOffset g c.p.slot o))) ∧
    (s.stage1 b gr o.h u = some r → i = .ldu o ∨ i = .lds o ∨ i = .sts o →
      r.inside (uniformOffset g o) (sizeBytes o.size) = false →
      exec i s = fatal s c g p 0x10 e (offAddr r 0 e fun _ => uniformOffset g o)) ∧
    (s.stage1 b gr o.h u = some r → i = .ldm o ∨ i = .stm o →
      bad = (maskOf fun l => bitAt e l && (List.range (o.x.toNat + 1)).any fun k =>
        !r.inside (uniformOffset g o + (rangeOffset (r.h.space == 9) k l : Int)) 4) → bad ≠ 0 →
      exec i s = fatal s c g p 0x10 bad (offAddr r (gridIndex b g) bad fun l =>
        uniformOffset g o + (rangeOffset (r.h.space == 9) 0 l : Int))) ∧
    (b.slotAt o.h = none → s.stage1 b gr o.h u = none) ∧
    (∀ h, b.slotAt o.h = some h → spaceAdmits u h.space.toNat = false ∨ h.perm.getLsbD (usePerm u) = false →
      s.stage1 b gr o.h u = none)) ∧
  (∀ (s s' : State) (c : Cur) (g : Group) (p : Path) (b : Block) (gr : Grid) (o : MOps) (e : Word)
    (r : Region) (bad mis : Word) (reqs : List LaneReq) (rs : List LineRes),
    s.ActsIn c g p b gr → p.replay = none → e = p.eff g o.g → e ≠ 0 →
    (∀ m ∈ memNames o (sizeRegs o.size) true, m < g.regn) →
    bad = outside r e (laneOffset g c.p.slot o) (sizeBytes o.size) →
    mis = misaligned r e (laneOffset g c.p.slot o) (sizeBytes o.size) →
    (s.stage1 b gr o.h (.atom (o.x == 0)) = none → exec (.aop o) s = fatal s c g p 0x11 e 0) ∧
    (s.stage1 b gr o.h (.atom (o.x == 0)) = some r →
      (bad ≠ 0 → exec (.aop o) s =
        fatal s c g p 0x10 bad (offAddr r 0 bad (laneOffset g c.p.slot o))) ∧
      (bad = 0 → mis ≠ 0 → exec (.aop o) s =
        fatal s c g p 0x12 mis (offAddr r 0 mis (laneOffset g c.p.slot o))) ∧
      (bad = 0 → mis = 0 → reqs = laneReqs r 0 e (laneOffset g c.p.slot o) (sizeBytes o.size) →
        s.Confirms ⟨b.core, b.vd, c.p⟩ p r .atomic reqs rs s' →
        atomReady s' g o (atomLines rs) (reqs.flatMap fun q => q.addrs) = false →
        exec (.aop o) s = .next (s'.waits c g p .retry 12))))

/-- A load whose line is absent parks: it takes the lowest free entry of the replay queue, asks the host for the
page, and waits under stall reason 3; answered, it executes again with its logged sources and its logged effective
set, and retires; until then running its path changes nothing (R99, R175, R176; what the log holds is inferred, log
13). PRF never faults and waits for nothing: it retires, and no byte of memory changes but for what a filled line
displaces; with a slot that maps nothing it does nothing else. HQRY gives the queried field of the slot's entry, 0 for
an unmapped slot (R183, R184). That what a PRF fills counts for no group, and which line leaves to make room, are the
model's choices (logs 18, 43). -/
def Obligations.Parking : Prop :=
  (∀ (s s' : State) (c : Cur) (g : Group) (p q : Path) (b : Block) (gr : Grid) (o : MOps) (e : Word)
    (r : Region) (reqs : List LaneReq) (rs : List LineRes) (n : Nat),
    s.ActsIn c g p b gr → e = p.eff g o.g → e ≠ 0 → s.stage1 b gr o.h .lds = some r →
    r.inside (uniformOffset g o) (sizeBytes o.size) = true →
    reqs = uniformReqs r e (uniformOffset g o) (sizeBytes o.size) →
    (p.replay = none → g.freeEntry = some n → r.h.space ≠ 8 →
      s.confirmAll ⟨b.core, b.vd, c.p⟩ p r .read (linesOf (reqs.flatMap fun q => q.addrs)) = (rs, q, s') →
      verdict reqs rs = .absent →
      ∃ t g' q', exec (.lds o) s = .next t ∧ t.group? g.id = some g' ∧ g'.path c.p.slot = some q' ∧
        q'.replay = some n ∧ q'.pc = p.pc ∧ (∃ w, q'.wait = some w ∧ w.kind = .parked n ∧ w.reason = 3) ∧
        (∃ x ∈ g'.replay, x.idx = n ∧ x.pc = p.pc ∧ x.lanes = e ∧ x.sregs = g.sregs ∧
          x.vregs = (List.range g.regn).map (g.vreg c.p.slot) ∧ x.tags ≠ [] ∧ ∀ y ∈ x.tags, y.answer = none) ∧ g'.sregs = g.sregs ∧ t.home = s'.home) ∧
    (p.replay = some n → (∃ x, g.replay.find? (fun y => y.idx == n) = some x ∧
        ∃ y ∈ x.tags, y.answer = none) → exec (.lds o) s = .next s)) ∧
  (∀ (s s' : State) (c : Cur) (g : Group) (p : Path) (b : Block) (gr : Grid) (o : MOps) (r : Region)
    (reqs : List LaneReq) (rs : List LineRes) (n : Nat) (x : ReplayEntry) (st : Site) (off : Int),
    s.ActsIn c g p b gr → p.replay = some n → g.replay.find? (fun y => y.idx == n) = some x →
    (∀ y ∈ x.tags, y.answer = some true) → x.lanes ≠ 0 → st = ⟨b.core, b.vd, c.p⟩ →
    off = uniformOffset { g with sregs := x.sregs } o → s.stage1 b gr o.h .lds = some r →
    r.inside off (sizeBytes o.size) = true → reqs = uniformReqs r x.lanes off (sizeBytes o.size) →
    s.Confirms st p r .read reqs rs s' →
    exec (.lds o) s = .next ((s'.loaded st g o rs).2.retired c ((s'.loaded st g o rs).1.applyWrites
      c.p.slot p.mask x.lanes ⟨[], some (o.d, extend 64 (sizeBytes o.size) (o.x == 1) (reqValue (g.linesRead rs)
        ⟨0, r.bytes 0 0 off.toNat (sizeBytes o.size)⟩)), none, 0, markOf o.la .s o.a⟩) p)) ∧
  (∀ (s : State) (c : Cur) (g gm : Group) (p : Path) (b : Block) (gr : Grid) (o : MOps),
    s.ActsIn c g p b gr → p.replay = none → p.eff g o.g ≠ 0 →
    gm = (if o.la then g.setSreg o.a 0 else g) →
    (∃ t : State, exec (.prf o) s = .next (t.retired c gm p) ∧ t.groups = s.groups ∧ t.blocks = s.blocks ∧
      s.KeepsMem t) ∧
    (b.slotAt o.h = none → exec (.prf o) s = .next (s.retired c gm p)) ∧
    (b.slotAt o.h = none → exec (.hqry o) s = .next (s.retired c ((g.setSreg o.d 0).setFlags 0) p)) ∧
    (∀ h, b.slotAt o.h = some h → ∃ v,
      exec (.hqry o) s = .next (s.retired c ((g.setSreg o.d v).setFlags 0) p) ∧
      (o.x = 0 → v = h.base &&& 0x00FFFFFFFFFFFFFF) ∧ (o.x = 1 → v = BitVec.ofNat 64 h.length) ∧
      (o.x = 2 → v = BitVec.ofNat 64 (h.space.toNat + 2 ^ 8 * (h.perm.toNat % 8) +
        2 ^ 16 * (h.policy.toNat % 4) + (if h.bind then 2 ^ 24 else 0) + 2 ^ 32)) ∧
      (o.x = 3 → v = h.sync)))

/-! ### Atomics, order, barriers -/

/-- AOP, ACAS, SAOP, SACAS and AHIST complete when their region admits them, every offset lies inside it and is
aligned, every line is confirmed, their release is over, their lines are quiet and their destinations find
registers: the lanes' operations are performed one after another in ascending lane order, each lane's old value
goes to its destination; AHIST adds 1 to each lane's counter and returns nothing (R185 to R187). An atomic write
of a line its home holds is what the next atomic read of those bytes gives, and every byte outside them is as it
was, at the home and for every other line, of which one may leave the L2 for the LLC; no RDC copy of the line
stays on the die (R186, R259, R268, R282). The model's choices here: marks on the destination (log 45), SACAS's pair
(log 12), displaced lines (log 43). -/
def Obligations.Atomics : Prop :=
  (∀ (s s' : State) (c : Cur) (g : Group) (p : Path) (b : Block) (gr : Grid) (o : MOps) (e : Word)
    (r : Region) (reqs : List LaneReq) (rs : List LineRes) (st : Site) (n k : Nat) (ls : List AtomLine),
    s.ActsIn c g p b gr → p.replay = none → e = p.eff g o.g → e ≠ 0 → st = ⟨b.core, b.vd, c.p⟩ →
    n = sizeBytes o.size → k = sizeRegs o.size → s.Confirms st p r .atomic reqs rs s' → ls = atomLines rs →
    (outside r e (laneOffset g c.p.slot o) n = 0 → misaligned r e (laneOffset g c.p.slot o) n = 0 →
      reqs = laneReqs r 0 e (laneOffset g c.p.slot o) n →
      atomReady s' g o ls (reqs.flatMap fun q => q.addrs) = true →
      (s.stage1 b gr o.h (.atom (o.x == 0)) = some r → (∀ m ∈ memNames o k true, m < g.regn) →
        g.canWrite k = true → ∀ olds t x, s'.laneAtoms st ls (fun l old =>
            atomNew o.x (8 * n) old (laneValue g c.p.slot o.d.toNat k l)) reqs = (olds, t) →
        x = t.atomDone st g o (g.relsAt ls (reqs.flatMap fun q => q.addrs)) →
        exec (.aop o) s = .next (x.2.retired c (x.1.applyWrites c.p.slot p.mask e
          ⟨(List.range k).map fun i => (o.d.toNat + i, lanesOf fun l =>
            BitVec.ofNat 32 (oldOf olds l / 2 ^ (32 * i))), none, none, 0, markOf o.la .v o.a⟩) p)) ∧
      (s.stage1 b gr o.h (.atom false) = some r → (∀ m ∈ memNames o (2 * k) true, m < g.regn) →
        g.canWrite k = true → ∀ olds t x, s'.laneAtoms st ls (fun l old =>
            if old = laneValue g c.p.slot o.d.toNat k l then laneValue g c.p.slot (o.d.toNat + k) k l
            else old) reqs = (olds, t) →
        x = t.atomDone st g o (g.relsAt ls (reqs.flatMap fun q => q.addrs)) →
        exec (.acas o) s = .next (x.2.retired c (x.1.applyWrites c.p.slot p.mask e
          ⟨(List.range k).map fun i => (o.d.toNat + i, lanesOf fun l =>
            BitVec.ofNat 32 (oldOf olds l / 2 ^ (32 * i))), none, none, 0, markOf o.la .v o.a⟩) p)) ∧
      (s.stage1 b gr o.h .ahist = some r → n = 4 → (∀ m ∈ memNames o 0 true, m < g.regn) →
        ∀ olds t x, s'.laneAtoms st ls (fun _ old => (old + 1) % 2 ^ 32) reqs = (olds, t) →
        x = t.atomDone st g o (g.relsAt ls (reqs.flatMap fun q => q.addrs)) →
        exec (.ahist o) s = .next (x.2.retired c (x.1.applyWrites c.p.slot p.mask e
          ⟨[], none, none, 0, markOf o.la .v o.a⟩) p))) ∧
    (outside r e (fun _ => uniformOffset g o) n = 0 → misaligned r e (fun _ => uniformOffset g o) n = 0 →
      reqs = laneReqs r 0 e (fun _ => uniformOffset g o) n →
      atomReady s' g o ls ((reqs.take 1).flatMap fun q => q.addrs) = true →
      (s.stage1 b gr o.h (.atom (o.x == 0)) = some r → ∀ l old t x,
        s'.laneAtoms st ls (fun _ old => atomNew o.x (8 * n) old ((g.sreg o.d).toNat % 2 ^ (8 * n)))
          (reqs.take 1) = ([(l, old)], t) →
        x = t.atomDone st g o (g.relsAt ls ((reqs.take 1).flatMap fun q => q.addrs)) →
        exec (.saop o) s = .next (x.2.retired c (x.1.applyWrites c.p.slot p.mask e
          ⟨[], some (o.d, BitVec.ofNat 64 old), none, 0, markOf o.la .s o.a⟩) p)) ∧
      (s.stage1 b gr o.h (.atom false) = some r → ∀ l old t x,
        s'.laneAtoms st ls (fun _ old => if old = (g.sreg o.d).toNat % 2 ^ (8 * n)
          then (g.sreg (o.d ||| 1)).toNat % 2 ^ (8 * n) else old) (reqs.take 1) = ([(l, old)], t) →
        x = t.atomDone st g o (g.relsAt ls ((reqs.take 1).flatMap fun q => q.addrs)) →
        exec (.sacas o) s = .next (x.2.retired c (x.1.applyWrites c.p.slot p.mask e
          ⟨[], some (o.d, BitVec.ofNat 64 old), none, 0, markOf o.la .s o.a⟩) p)))) ∧
  (∀ (s t : State) (st : Site) (x : AtomLine) (home : BitVec 2) (la : Va) (h : HomeLine) (a n v : Nat),
    x.key = .mem home st.vd la → s.homeLine? home st.vd la = some h → h.bytes.length = 128 →
    0 < n → a / 128 * 128 = x.la → a % 128 + n ≤ 128 →
    t = s.atomWrite st [x] ((List.range n).map (a + ·)) v →
    t.atomRead [x] ((List.range n).map (a + ·)) = v % 2 ^ (8 * n) ∧
    (∃ h', t.homeLine? home st.vd la = some h' ∧ h'.leaf = h.leaf ∧ ∀ i, i < 128 →
      i < a % 128 ∨ a % 128 + n ≤ i → h'.bytes.getD i 0 = h.bytes.getD i 0) ∧
    (∀ d v' la', (d, v', la') ≠ (home, st.vd, la) →
      (t.homeLine? d v' la').map (fun y => { y with inL2 := true }) =
        (s.homeLine? d v' la').map fun y => { y with inL2 := true }) ∧
    t.rdcLine? st.die x.key = none ∧ t.mem = s.mem ∧ t.groups = s.groups)

/-- What an atomic operation leaves in memory, of `n` bits, by its number: add, signed and unsigned minimum and
maximum, and, or, exclusive or, exchange; of 32 bits, the sum FADD gives, FMIN's and FMAX's choice, and HADD2's
two sums (R23, R134, R186). -/
def Obligations.AtomicOperations : Prop :=
  ∀ (n old val : Nat), 0 < n → old < 2 ^ n → val < 2 ^ n →
    atomNew 0 n old val = (old + val) % 2 ^ n ∧
    atomNew 1 n old val = (if (BitVec.ofNat n old).toInt < (BitVec.ofNat n val).toInt then old else val) ∧
    atomNew 2 n old val = (if (BitVec.ofNat n old).toInt < (BitVec.ofNat n val).toInt then val else old) ∧
    atomNew 3 n old val = min old val ∧ atomNew 4 n old val = max old val ∧
    atomNew 5 n old val = Nat.land old val ∧ atomNew 6 n old val = Nat.lor old val ∧
    atomNew 7 n old val = Nat.xor old val ∧ atomNew 8 n old val = val ∧
    (n = 32 → ∀ (nan : Nat → Prop) (key : Nat → Int), (∀ x, nan x ↔ 0x7F800000 < x % 2 ^ 31) →
      (∀ x : Nat, key x = if x < 2 ^ 31 then (x : Int) else -((x : Int) - 2 ^ 31) - 1) →
      atomNew 9 n old val = (op2F fmt32 .add none old val).1 ∧ atomNew 9 n old val = atomNew 9 n val old ∧
      (nan old ∨ nan val → atomNew 9 n old val = 0x7FC00000) ∧
      (old % 2 ^ 31 = 0x7F800000 → ¬ nan val →
        (val % 2 ^ 31 ≠ 0x7F800000 ∨ val = old → atomNew 9 n old val = old) ∧
        (val % 2 ^ 31 = 0x7F800000 → val ≠ old → atomNew 9 n old val = 0x7FC00000)) ∧
      (¬ nan old → old ≠ 2 ^ 31 → val = 0 → atomNew 9 n old val = old) ∧
      (old < 0x7F800000 → val = old + 2 ^ 31 → atomNew 9 n old val = 0) ∧
      (nan old → nan val → atomNew 10 n old val = 0x7FC00000 ∧ atomNew 11 n old val = 0x7FC00000) ∧
      (nan old → ¬ nan val → atomNew 10 n old val = val ∧ atomNew 11 n old val = val) ∧
      (¬ nan old → nan val → atomNew 10 n old val = old ∧ atomNew 11 n old val = old) ∧
      (¬ nan old → ¬ nan val →
        atomNew 10 n old val = (if key old < key val then old else val) ∧
        atomNew 11 n old val = (if key old < key val then val else old)) ∧
      atomNew 12 n old val % 2 ^ 16 = (op2F fmtBf .add none (old % 2 ^ 16) (val % 2 ^ 16)).1 ∧
      atomNew 12 n old val / 2 ^ 16 = (op2F fmtBf .add none (old / 2 ^ 16) (val / 2 ^ 16)).1)

/-- CSNAP: with source and destination admitted, inside, aligned and confirmed, it takes the counters at their
home, leaving zeros, and stores them through the store buffer at the locator in s_d (R48, R188). -/
def Obligations.CounterSnapshot : Prop :=
  ∀ (s s1 s2 s3 s4 : State) (c : Cur) (g : Group) (p : Path) (b : Block) (gr : Grid) (o : MOps) (e : Word)
    (r rd : Region) (rs rsd : List LineRes) (vs : List Nat) (es0 es : List SbEntry) (st : Site)
    (n off dst : Nat) (x : Group × State),
    s.ActsIn c g p b gr → p.replay = none → e = p.eff g o.g → e ≠ 0 → st = ⟨b.core, b.vd, c.p⟩ →
    n = 16 * (o.x.toNat + 1) → (off : Int) = uniformOffset g o → g.rels = [] →
    s.stage1 b gr o.h .csnapSrc = some r → r.inside off (4 * n) = true → r.addr off % 64 = 0 →
    r.addr off / 1024 = (r.addr off + 4 * n - 1) / 1024 →
    s.stage1 b gr ((g.sreg o.d).extractLsb' 56 8) .csnapDst = some rd →
    dst = ((g.sreg o.d).extractLsb' 0 56).toNat → rd.inside dst (4 * n) = true → dst % 4 = 0 →
    s.Confirms st p r .atomic ((lanesIn e).map fun l => ⟨l, r.bytes 0 0 off (4 * n)⟩) rs s1 →
    s1.Confirms st p rd .write ((lanesIn e).map fun l => ⟨l, rd.bytes 0 0 dst (4 * n)⟩) rsd s2 →
    es0 = (s2.entriesFor rd.h.idx ((List.range (4 * n)).map fun i => (rd.addr (dst + i), 0)) rsd).1 →
    atomReady s2 g o (atomLines rs) ((List.range (4 * n)).map fun i => r.addr (off + i)) = true →
    g.roomFor es0.length = true → s2.takeWords st (atomLines rs) (r.addr off) n = (vs, s3) →
    s3.entriesFor rd.h.idx (((List.range (4 * n)).map fun i => rd.addr (dst + i)).zip
      (vs.flatMap fun v => bytesOfNat 4 v)) rsd = (es, s4) →
    x = s4.atomDone st (g.enter es) o [] →
    exec (.csnap o) s = .next (x.2.retired c (x.1.applyWrites c.p.slot p.mask e
      ⟨[], none, none, 0, markOf o.la .s o.a⟩) p)

/-- When a release is over: at group scope always; at block scope when the group's store buffer is empty; at a
wider scope when its stores are also acknowledged there and the stores it has observed have arrived. What an
acquire drops: at cluster and die scope the core's L1 lines of the virtual device, at device and system scope the
die's RDC lines too, host lines only at system scope; of a line that keeps unacknowledged stores' bytes those of
stores that have not arrived stay and the rest goes; nothing else changes; and the stores of its virtual device
that have not arrived are then observed (R174, R189, R283, R286, R288). FENCE, SYNCA, SYNCR and SACK: a release
waits under stall reason 12 until it is over; FENCE then retires with its acquire; SYNCA acquires for the regions
its object concerns; SYNCR leaves the release for the group's next write to the object; SACK retires once its
stores are acknowledged (R189, R191). -/
def Obligations.ReleaseAndAcquire : Prop :=
  (∀ (s : State) (g : Group) (st : Site) (sc : Scope) (conc : Nat → Bool),
    (s.released g .grp = true) ∧
    (s.released g .blk = true ↔ g.sb = [] ∧ g.sbRest = []) ∧
    (s.released g .clu = true ↔ g.sb = [] ∧ g.sbRest = [] ∧ g.cnt.clu = 0 ∧ s.unarrived g = []) ∧
    (s.released g .die = true ↔ g.sb = [] ∧ g.sbRest = [] ∧ g.cnt.die = 0 ∧ s.unarrived g = []) ∧
    (s.released g .dev = true ↔ g.sb = [] ∧ g.sbRest = [] ∧ g.cnt.dev = 0 ∧ s.unarrived g = []) ∧
    (s.released g .sys = true ↔ g.sb = [] ∧ g.sbRest = [] ∧ g.cnt.sys = 0 ∧ s.unarrived g = []) ∧
    ((s.acquire st .grp conc = s) ∧ s.acquire st .blk conc = s) ∧
    (sc ≠ .grp → sc ≠ .blk → ∀ x, x ∈ (s.acquire st sc conc).l1 ↔
      (x ∈ s.l1 ∧ ¬(x.core = st.core ∧ x.key.inVd st.vd = true ∧ conc x.hidx = true ∧
        (sc = .sys ∨ x.key.isHost = false))) ∨
      ∃ y ∈ s.l1, y.core = st.core ∧ y.key.inVd st.vd = true ∧ conc y.hidx = true ∧
        (sc = .sys ∨ y.key.isHost = false) ∧ y.keep ≠ [] ∧
        x = { y with valid := y.valid &&& s.unarrivedMarks st.core y.key }) ∧
    (sc = .dev ∨ sc = .sys → ∀ x, x ∈ (s.acquire st sc conc).rdc ↔ x ∈ s.rdc ∧
      ¬(x.die = st.die ∧ x.key.inVd st.vd = true ∧ conc x.hidx = true ∧
        (sc = .sys ∨ x.key.isHost = false))) ∧
    ({ s.acquire st sc conc with l1 := s.l1, rdc := s.rdc } = s) ∧
    (∀ f ∈ s.flight, sc ≠ .grp → f.grp ≠ g.id → f.arrived = false → f.vd = st.vd →
      f.id ∈ (s.acquireFor st g sc conc).1.obs)) ∧
  (∀ (s : State) (c : Cur) (g gm : Group) (p : Path) (b : Block) (gr : Grid) (o : MOps) (e : Word)
    (r : Region) (st : Site) (off : Nat) (x : Group × State),
    s.ActsIn c g p b gr → e = p.eff g o.g → e ≠ 0 → st = ⟨b.core, b.vd, c.p⟩ →
    gm = (if o.la then g.setSreg o.a 0 else g) →
    (o.ord = .rel ∨ o.ord = .acqrel → s.released g o.scope = false →
      exec (.fence o) s = .next (s.waits c g p .retry 12)) ∧
    (o.ord = .rel → s.released g o.scope = true → exec (.fence o) s = .next (s.retired c g p)) ∧
    (o.ord = .acq ∨ o.ord = .acqrel ∧ s.released g o.scope = true →
      x = s.acquireFor st g o.scope allRegions → exec (.fence o) s = .next (x.2.retired c x.1 p)) ∧
    (s.stage1 b gr o.h .lds = some r → (off : Int) = uniformOffset g o → r.inside off 8 = true →
      r.addr off % 8 = 0 → x = s.acquireFor st g o.scope (s.concerned st b gr (s.objAt st r off)) →
      exec (.synca o) s = .next (x.2.retired c
        (if o.la then x.1.setSreg o.a 0 else x.1) p)) ∧
    (s.stage1 b gr o.h .sts = some r → (off : Int) = uniformOffset g o → r.inside off 8 = true →
      r.addr off % 8 = 0 →
      (s.released g o.scope = true → exec (.syncr o) s = .next (s.retired c { gm with
        rels := g.rels ++ [⟨(s.objAt st r off).key, (s.objAt st r off).off, o.scope⟩] } p)) ∧
      (s.released g o.scope = false → exec (.syncr o) s = .next (s.waits c g p .retry 12))) ∧
    (exec (.sack o) s = if g.sackDone o.scope then .next (s.retired c g p)
      else .next (s.waits c g p .retry 12)))

/-- BARA counts an arrival once its release is over, and its group has arrived; BARW waits while it has, and once
the phase is complete it acquires and is idle again; both take cause 0x50 out of turn, in a group of more than
one path, and for a gang barrier outside a gang (R192, R193, R262). A barrier's phase completes once every party
left has arrived, and not before: arrivals go to 0, the phase count rises by one, and every group that arrived
may pass. At gang level the die level's local round ends first and its message leaves; the phase completes once
every other die level's message is there. A message in time is heard (R193, R231, R261, R262; that one arrival is
needed is the model's reading, log 17). -/
def Obligations.Barriers : Prop :=
  (∀ (s : State) (c : Cur) (g : Group) (p : Path) (b : Block) (gr : Grid) (o : MOps) (l : BarLevel)
    (n : Nat) (x : Group × State),
    s.ActsIn c g p b gr → p.eff g o.g ≠ 0 → l = levelOf o.scope → n = o.disp.toNat →
    (1 < g.paths.length ∨ (l = .gang ∧ gr.desc.gang = false) →
      exec (.bara o) s = fatal s c g p 0x50 p.mask 0 ∧ exec (.barw o) s = fatal s c g p 0x50 p.mask 0) ∧
    (g.paths.length ≤ 1 → (l = .gang → gr.desc.gang = true) →
      (g.barState l n = .idle →
        exec (.barw o) s = fatal s c g p 0x50 p.mask 0 ∧
        (s.released g (levelScope l) = false → exec (.bara o) s = .next (s.waits c g p .retry 12)) ∧
        (s.released g (levelScope l) = true → exec (.bara o) s =
          .next ((s.arriveBar b gr l n).retired c (g.setBar l n .arrived) p))) ∧
      (g.barState l n ≠ .idle → exec (.bara o) s = fatal s c g p 0x50 p.mask 0) ∧
      (g.barState l n = .arrived → exec (.barw o) s = .next (s.waits c g p .retry 8)) ∧
      (g.barState l n = .complete →
        x = s.acquireFor ⟨b.core, b.vd, c.p⟩ g (levelScope l) allRegions →
        exec (.barw o) s = .next (x.2.retired c (x.1.setBar l n .idle) p)) ∧
      (g.barState l n = .expired → exec (.barw o) s = fatal s c g p 0x60 p.mask 0))) ∧
  (∀ (s : State) (b : Block) (gr : Grid) (d : DieLevel) (n4 cl : BitVec 4) (dl frm : BitVec 2)
    (n6 : BitVec 6) (x : BarSlot), s.block? b.id = some b → s.grid? gr.id = some gr →
    gr.die? dl.toNat = some d →
    ((s.partiesIn (.blk b.id n4)).2 = true → x = barSlotAt b.bars n4.toNat → 0 < x.arrivals →
      ∃ t b', exec (.barrierPhaseComplete (.blk b.id n4)) s = .next t ∧ t.block? b.id = some b' ∧
        barSlotAt b'.bars n4.toNat = ⟨x.slot, 0, x.phase + 1⟩ ∧ t.mem = s.mem ∧
        ∀ g, s.group? g.id = some g → g.blk = b.id → g.barState .blk n4.toNat = .arrived →
          ∃ g', t.group? g.id = some g' ∧ g'.barState .blk n4.toNat = .complete) ∧
    ((s.partiesIn (.blk b.id n4)).2 = false → exec (.barrierPhaseComplete (.blk b.id n4)) s = .next s) ∧
    (∀ k, (s.partiesIn (.clu gr.id dl cl n4)).2 = true → d.clus.find? (fun x => x.idx == cl.toNat) = some k →
      0 < (barSlotAt k.bars n4.toNat).arrivals →
      exec (.barrierPhaseComplete (.clu gr.id dl cl n4)) s =
        .next ((s.setGrid (gr.onDie dl.toNat fun d => d.onClu cl.toNat fun k =>
          { k with bars := onSlot k.bars n4.toNat BarSlot.complete })).setParties
            (.clu gr.id dl cl n4) .complete)) ∧
    ((s.partiesIn (.die gr.id dl n6)).2 = true → 0 < (barSlotAt d.bars n6.toNat).arrivals →
      exec (.barrierPhaseComplete (.die gr.id dl n6)) s =
        .next ((s.setGrid (gr.onDie dl.toNat fun d =>
          { d with bars := onSlot d.bars n6.toNat BarSlot.complete })).setParties (.die gr.id dl n6)
            .complete)) ∧
    ((d.gang n6.toNat).localEnd = true →
      (gr.levels.filter fun e => e.idx != d.idx).all (s.gangHeard gr (d.gang n6.toNat) n6) = true →
      exec (.barrierPhaseComplete (.gang gr.id dl n6)) s =
        .next (s.gangPhase gr d (d.gang n6.toNat) (.gang gr.id dl n6))) ∧
    ((s.partiesIn (.gang gr.id dl n6)).2 = true → 0 < (d.gang n6.toNat).arrivals →
      (d.gang n6.toNat).localEnd = false →
      exec (.barrierPhaseComplete (.gang gr.id dl n6)) s = .next (s.gangLocal gr d (d.gang n6.toNat))) ∧
    (∃ ms gr', (s.gangLocal gr d (d.gang n6.toNat)).grid? gr.id = some gr' ∧
      (∀ d', gr'.die? dl.toNat = some d' → (d'.gang n6.toNat).localEnd = true ∧
        (d'.gang n6.toNat).sent = (d.gang n6.toNat).sent ++ ms) ∧
      (ms.map fun m => m.dst) = ((gr.levels.filter fun e => e.idx != d.idx).map fun e => e.idx) ∧
      ∀ m ∈ ms, m.deadline = s.timebase.toNat + s.dline (d.die.getD 0)) ∧
    (∀ e, gr.die? frm.toNat = some e →
      ((e.gang n6.toNat).sent.find? (fun m => m.dst == dl.toNat && m.tr.done) = none →
        exec (.gangRoundMessage gr.id dl frm n6) s = .next s) ∧
      (∀ m gr', (e.gang n6.toNat).sent.find? (fun m => m.dst == dl.toNat && m.tr.done) = some m →
        gr' = gr.dropRound m.n →
        (s.timebase.toNat ≤ m.deadline → exec (.gangRoundMessage gr.id dl frm n6) s =
          .next (s.setGrid (gr'.onDie dl.toNat fun d' => d'.setGang { d'.gang n6.toNat with
            heard := (d'.gang n6.toNat).heard ++ [frm.toNat] }))) ∧
        (m.deadline < s.timebase.toNat → s.clkFault = false →
          exec (.gangRoundMessage gr.id dl frm n6) s = .next ((s.setGrid gr').expireGang gr' n6)))))

/-! ### Homes, invalidation, resources -/

/-- STORE_BUFFER_DRAIN takes an entry out of its group's buffer, when no older entry to its line is there and the
L1 has a place for the line, and sends it on its way; HOME_REQUEST, once it is there, brings it to its home,
where exactly its marked bytes change, of its line and of no other, after every older store to that line of its
group, its core and, for a line homed elsewhere, its die; STORE_ACK counts it down at every level, unless the
acknowledgment comes after its deadline: that freezes the group with cause 0x60 (R172, R173, R263, R264, R282).
HOME_REQUEST serves a request that has come to its home die: data for a read, the permission for a write or an
atomic, a refusal, counted at the home die, where the leaf does not permit it; a PGINV of the page holds it up.
MEMORY_RESPONSE and REMOTE_NAK bring the answer to the one that asked, once it is back at its die; a read leaves
a copy in the RDC, under the stores of the die that have passed it; an answer after its deadline is none.
DEADLINE_EXPIRY ends a request whose deadline has passed, and none before; none expires while the package clock
has stopped. A path that asks for the line again takes its answer (R259, R263 to R267, R270, R271). What a drain needs
of the L1, how a message stands on its way, and that one behind a store of its die is served after it, are the model's
choices (logs 42, 43). -/
def Obligations.HomeTraffic : Prop :=
  (∀ (s : State) (g : Group) (b : Block) (gr : Grid) (e : SbEntry) (f : Flight) (h : HomeLine),
    s.group? g.id = some g → s.block? g.blk = some b → s.grid? b.grid = some gr →
    (g.sb.find? (fun x => x.id == e.id) = some e → g.phase ≠ .saved →
      (g.sb.find? (fun x => x.key == e.key) = some e →
        (s.l1Room b.core e.key = true →
          ∃ t g' f', exec (.storeBufferDrain g.id e.id) s = .next t ∧ t.group? g.id = some g' ∧
            g'.sb = removeFirst (fun y => y.id == e.id) g.sb ++
              g.sbRest.take (32 - (removeFirst (fun y => y.id == e.id) g.sb).length) ∧ g'.cnt = g.cnt ∧
            g'.sregs = g.sregs ∧ t.flight = s.flight ++ [f'] ∧ f'.entry = e ∧ f'.grp = g.id ∧
            f'.arrived = false ∧ t.mem = s.mem ∧ t.home = s.home) ∧
        (s.l1Room b.core e.key = false → exec (.storeBufferDrain g.id e.id) s = .next s)) ∧
      (∀ x, g.sb.find? (fun x => x.key == e.key) = some x → x.id ≠ e.id →
        exec (.storeBufferDrain g.id e.id) s = .next s)) ∧
    (s.reqs.find? (fun q => q.n == f.id) = none → s.flight.find? (fun x => x.id == f.id) = some f →
      f.arrived = false → f.entry.key = .mem h.die h.vd h.va → s.homeLine? h.die h.vd h.va = some h →
      h.bytes.length = 128 → f.entry.bytes.length = 128 →
      (f.tr.way = [] → s.nextToArrive f = true →
        ∃ t h', exec (.homeRequest f.id) s = .next t ∧ t.homeLine? h.die h.vd h.va = some h' ∧
          (∀ i, i < 128 → h'.bytes.getD i 0 =
            if f.entry.marks.getLsbD i then f.entry.bytes.getD i 0 else h.bytes.getD i 0) ∧
          h'.dirty = h.dirty ||| f.entry.marks ∧ t.mem = s.mem ∧
          (h.inL2 = true → ∀ d v a, (d, v, a) ≠ (h.die, h.vd, h.va) →
            t.homeLine? d v a = s.homeLine? d v a)) ∧
      (s.nextToArrive f = false ∨ f.tr.way ≠ [] → exec (.homeRequest f.id) s = .next s)) ∧
    (s.flight.find? (fun x => x.id == f.id) = some f →
      (f.arrived = true → f.grp = g.id → f.tr.way = [] → f.deadline ≠ some 0 →
        (s.lateStore f = false → ∃ t g', exec (.storeAck f.id) s = .next t ∧
          t.group? g.id = some g' ∧ g'.cnt = ⟨g.cnt.clu - (if g.cnt.clu = 0 then 0 else 1),
            g.cnt.die - (if g.cnt.die = 0 then 0 else 1), g.cnt.dev - (if g.cnt.dev = 0 then 0 else 1),
            g.cnt.sys - (if g.cnt.sys = 0 then 0 else 1)⟩ ∧
          t.flight = s.flight.filter (fun x => x.id != f.id) ∧
          (g.phase ≠ .saved → t.mem = s.mem ∧ t.home = s.home)) ∧
        (s.lateStore f = true → ∃ t g', exec (.storeAck f.id) s = .next t ∧ t.group? g.id = some g' ∧
          g'.phase = .frozen ∧ g'.cnt = g.cnt ∧ (g.phase ≠ .frozen → g'.trap.cause = 0x60))) ∧
      (f.arrived = false ∨ f.tr.way ≠ [] ∨ f.deadline = some 0 → exec (.storeAck f.id) s = .next s))) ∧
  (∀ (s : State) (q : Request) (x : Response) (h : HomeLine) (bs : List Byte) (l : Option Leaf),
    (s.reqs.find? (fun y => y.n == q.n) = some q → q.key = .mem h.die h.vd h.va →
      s.homeLine? h.die h.vd h.va = some h → h.inL2 = true → lineOf h.va = h.va →
      (s.keyBusy q.key = true ∨ q.tr.way ≠ [] ∨ s.inTurn q = false → exec (.homeRequest q.n) s = .next s) ∧
      (s.keyBusy q.key = false → q.tr.way = [] → s.inTurn q = true →
        (h.leaf.permits q.kind = true → exec (.homeRequest q.n) s = .next { s.putHome h with
          reqs := s.reqs.filter fun y => y.n != q.n,
          resps := s.resps ++ [if q.kind = .read ∨ q.kind = .fetch
            then ⟨q.n, q, .data h.bytes (some h.leaf), Transit.start q.home q.src lineFlits, false⟩
            else ⟨q.n, q, .permitted (some h.leaf), Transit.start q.home q.src 1, false⟩] }) ∧
        (h.leaf.permits q.kind = false → ∃ t, exec (.homeRequest q.n) s = .next t ∧
          t.reqs = s.reqs.filter (fun y => y.n != q.n) ∧
          t.resps = s.resps ++ [⟨q.n, q, .nak, Transit.start q.home q.src 1, false⟩] ∧
          t.regs = (s.bumpReg (dieKey h.die 0x10)).regs ∧ t.home = (s.putHome h).home))) ∧
    (s.resps.find? (fun y => y.n == x.n) = some x → x.there = false → x.tr.way = [] →
      (x.req.deadline ≥ s.timebase.toNat ∨ s.clkFault = true →
        (x.res = .data bs l → exec (.memoryResponse x.n) s = .next
          ((s.fillCopies x.req bs l).answer x.req (.data bs l))) ∧
        (∀ lf, x.res = .permitted lf → exec (.memoryResponse x.n) s = .next (s.answer x.req x.res)) ∧
        (x.res = .nak → exec (.remoteNak x.n) s = .next (s.answer x.req .nak))) ∧
      (x.req.deadline < s.timebase.toNat → s.clkFault = false →
        (x.res ≠ .nak → exec (.memoryResponse x.n) s = .next (s.answer x.req .expired)) ∧
        (x.res = .nak → exec (.remoteNak x.n) s = .next (s.answer x.req .expired)))) ∧
    (s.reqs.find? (fun y => y.n == q.n) = some q →
      (q.deadline < s.timebase.toNat → s.clkFault = false → exec (.deadlineExpiry q.n) s = .next
        (({ s with reqs := s.reqs.filter fun y => y.n != q.n }).answer q .expired)) ∧
      (s.timebase.toNat ≤ q.deadline ∨ s.clkFault = true → exec (.deadlineExpiry q.n) s = .next s)) ∧
    ((∀ c, q.who ≠ .prf c) → ∀ (st : Site) (p : Path) (n : Nat) (a : Access) (r : LineResult),
      p.pend.find? (fun y => y.key == q.key) = some ⟨q.n, q.key⟩ →
      (s.answer q r).askRemote st p n a q.key = (answered a r, p, s.answer q r)) ∧
    (∀ (a : Access) (lf : Leaf), answered a .nak = .cause 0x22 ∧ answered a .expired = .cause 0x60 ∧
      answered a .absent = .cause 0x20 ∧ answered a .refused = .cause 0x21 ∧
      (lf.permits a = true → answered a (.data bs (some lf)) = .ok bs (some lf))))

/-- PGINV with GO starts an invalidation of a virtual device's pages, unless one is in progress; its completion
leaves no line of those pages in any L1, RDC, L2 or LLC and no answer on its way, no cached walk of them, and the
register idle. An ATS invalidation does the same for host pages and their translations. PAGE_WALK keeps a walk
and changes nothing where the line is there (R269, R271, R277). DCF: its faults in the order of R278; after its
device-scope release it waits for the write-back; once that is done, and stores of its group that have retired
meanwhile are released too, its target's lines are nowhere cached, its source's lines are clean, and it retires
(R278). That host lines have no copy but in an L1, so that PGINV has no more to drop of them, and which address a fault
reports, are the model's readings (logs 19, 23). -/
def Obligations.Invalidations : Prop :=
  (∀ (s : State) (vd : BitVec 8) (v : DWord) (die : BitVec 2) (va : Va) (vpn : BitVec 48) (n : BitVec 16),
    (s.recovery = false → v.getLsbD 63 = true → (s.vdev vd).pginv = none →
      exec (.pginv vd v) s = .next (s.setVdev { s.vdev vd with pginv := some v }).wake) ∧
    (s.recovery = false → v.getLsbD 63 = false ∨ (s.vdev vd).pginv.isSome = true →
      exec (.pginv vd v) s = .next s.wake) ∧
    (s.recovery = true → exec (.pginv vd v) s = .next s) ∧
    ((s.vdev vd).pginv = some v → ∃ t, exec (.pginvComplete vd) s = .next t ∧
      (t.vdev vd).pginv = none ∧
      (∀ h ∈ t.home, s.inPginv vd (.mem h.die h.vd h.va) = false) ∧
      (∀ x ∈ t.l1, s.inPginv vd x.key = false) ∧ (∀ x ∈ t.rdc, s.inPginv vd x.key = false) ∧
      (∀ x ∈ t.resps, s.inPginv vd x.req.key = false) ∧
      ∀ w ∈ t.walks, w.vd = vd → s.pageBusy vd (w.vpn ++ (0 : BitVec 16)) = false) ∧
    (∃ t, exec (.atsInvalidation vd vpn n) s = .next t ∧
      (∀ e ∈ t.atc, e.vd = vd → ¬(vpn.toNat ≤ e.vpn.toNat ∧ e.vpn.toNat ≤ vpn.toNat + n.toNat)) ∧
      ∀ x ∈ t.l1, ∀ la, x.key = .host vd la →
        ¬(vpn.toNat ≤ la.toNat / 4096 ∧ la.toNat / 4096 ≤ vpn.toNat + n.toNat)) ∧
    ((s.homeLine? die vd (lineOf va)).isSome = true → exec (.pageWalk die vd va) s = .next s) ∧
    (∀ l t, s.homeLine? die vd (lineOf va) = none → s.pageBusy vd va = false →
      s.translate die vd va = .ok (l, t) → exec (.pageWalk die vd va) s = .next t)) ∧
  (∀ (s : State) (c : Cur) (g : Group) (p : Path) (b : Block) (gr : Grid) (o : MOps) (e : Word)
    (x : DcfRanges), s.ActsIn c g p b gr → e = p.eff g o.g → e ≠ 0 →
    (dcfRegion s b gr o.h = none → exec (.dcf o) s = fatal s c g p 0x11 e 0) ∧
    (∀ r, dcfRegion s b gr o.h = some r →
      r.inside (g.sreg o.a).toNat (2048 * o.disp.toNat * viewWidth (o.x.getLsbD 0)) = false →
      exec (.dcf o) s = fatal s c g p 0x10 e (offAddr r 0 e fun _ => ((g.sreg o.a).toNat : Int))) ∧
    (∀ r (t : Option Region) (src tgt : Nat), dcfRegion s b gr o.h = some r →
      src = (g.sreg o.a).toNat → tgt = ((g.sreg o.d).extractLsb' 0 56).toNat →
      t = dcfRegion s b gr ((g.sreg o.d).extractLsb' 56 8) →
      r.inside src (2048 * o.disp.toNat * viewWidth (o.x.getLsbD 0)) = true →
      (t = none → exec (.dcf o) s = fatal s c g p 0x11 e 0) ∧
      ∀ u, t = some u →
        (u.inside tgt (2048 * o.disp.toNat * viewWidth (o.x.getLsbD 1)) = false →
          exec (.dcf o) s = fatal s c g p 0x10 e (offAddr u 0 e fun _ => (tgt : Int))) ∧
        (u.inside tgt (2048 * o.disp.toNat * viewWidth (o.x.getLsbD 1)) = true →
          (src % (2048 * viewWidth (o.x.getLsbD 0)) ≠ 0 →
            exec (.dcf o) s = fatal s c g p 0x12 e (offAddr r 0 e fun _ => (src : Int))) ∧
          (src % (2048 * viewWidth (o.x.getLsbD 0)) = 0 → tgt % (2048 * viewWidth (o.x.getLsbD 1)) ≠ 0 →
            exec (.dcf o) s = fatal s c g p 0x12 e (offAddr u 0 e fun _ => (tgt : Int))))) ∧
    (s.DcfAdmits b gr g o x →
      (s.released g .dev = true → exec (.dcf o) s = .next (s.waits c g p (.dcf o) 12)) ∧
      (s.released g .dev = false → exec (.dcf o) s = .next (s.waits c g p .retry 12)) ∧
      ∀ r q w, s.Waiting r g q b w → w.kind = .dcf o →
        (s.released g .dev = false → exec (.dcfWritebackDone r) s = .next s) ∧
        (s.released g .dev = true → ∃ t g', exec (.dcfWritebackDone r) s = .next t ∧ t.group? g.id = some g' ∧
          g'.path r.slot = some (q.advance ⟨r, w.next, w.last⟩) ∧
          (∀ h ∈ t.home, keyIn b.vd x.tgt x.tgtN (.mem h.die h.vd h.va) = false) ∧
          (∀ y ∈ t.l1, keyIn b.vd x.tgt x.tgtN y.key = false) ∧
          (∀ y ∈ t.rdc, keyIn b.vd x.tgt x.tgtN y.key = false) ∧
          (∀ y ∈ t.resps, keyIn b.vd x.tgt x.tgtN y.req.key = false) ∧
          ∀ d v a h, t.homeLine? d v a = some h → keyIn b.vd x.src x.srcN (.mem d v a) = true → h.dirty = 0)))

/-- CLAIM, ACQ and ACQ.try: an amount of 0 (log 41), a claim lowered to no less than is held and granted, and a
claim that stays, retire at once; a raise or an amount sends one request and waits under stall reason 9;
answered, they retire: units come to the block with the ACQ's retirement, a granted REG with that many more
registers, ACQ.try with 1 or 0 in s_d; the faults 0x30 and 0x31 (R206, R208, R212 to R214). REL gives REG units
back at once, with the group's highest registers, and the deferred requests of the cluster are due for a test;
the other types wait for their accesses under stall reason 10, and REL_TAKES_EFFECT then gives them back; more
than is held takes cause 0x32. RSTAT gives what is held, claimed or available (R207, R210, R215, R216). -/
def Obligations.Claims : Prop :=
  (∀ (s : State) (c : Cur) (g gm : Group) (p : Path) (b : Block) (gr : Grid) (ty : RType) (o : ROps)
    (e : Word) (n i : Nat) (k : Cluster), s.ActsIn c g p b gr → e = p.eff g o.g → e ≠ 0 →
    n = (scalarB g o.b).toNat → gm = (if o.lb then g.setSreg (bField o.b) 0 else g) →
    k = s.cluster (clusterOf b.core) →
    i = (match ty with
      | .reg => b.core.toNat % 8
      | .tile => 8 + b.core.toNat % 8
      | .scr => 16
      | .eng => 17) →
    (p.granted = none →
      (n < b.counted.get ty → exec (.claim ty o) s = fatal s c g p 0x30 e 0) ∧
      (b.counted.get ty ≤ n → n < b.claim.get ty → exec (.claim ty o) s = .next
        (((s.setBlock { b with claim := b.claim.set ty n }).retestAll (clusterOf b.core)).retired c gm p)) ∧
      (b.counted.get ty ≤ n → n = b.claim.get ty → exec (.claim ty o) s = .next (s.retired c gm p)) ∧
      (b.counted.get ty ≤ n → b.claim.get ty < n → b.acqd.contains ty = true →
        exec (.claim ty o) s = fatal s c g p 0x31 e 0) ∧
      (b.counted.get ty ≤ n → b.claim.get ty < n → b.acqd.contains ty = false →
        (s.capVec (clusterOf b.core) (s.domainCap b)).getD i 0 < n ∨ (ty = .reg ∧ 8 * gr.desc.groups < n) →
        exec (.claim ty o) s = fatal s c g p 0x30 e 0) ∧
      (n = 0 → exec (.acq ty o) s = .next ((s.setBlock (b.markAcq ty)).retired c gm p) ∧
        exec (.acqTry ty o) s = .next
          ((s.setBlock (b.markAcq ty)).retired c ((gm.setSreg o.d 1).setFlags 0) p)) ∧
      (0 < n → ty = .reg → 64 < g.regn + 8 * n → exec (.acq ty o) s = fatal s c g p 0x30 e 0 ∧
        exec (.acqTry ty o) s = fatal s c g p 0x30 e 0) ∧
      (p.wait = none → k.busyFor g.id = false → g.hasAnswer = false → k.queue.length < 16 →
        ∀ r, r = (⟨s.nextId, c.p, b.id, ty, n, false, false, e, 0, false⟩ : ReeveReq) →
        (0 < n → (ty = .reg → g.regn + 8 * n ≤ 64) →
          exec (.acq ty o) s = .next ((({ s with nextId := s.nextId + 1 }).setCluster { k with
            queue := k.queue ++ [r] }).waits c g p (.grant s.nextId (.acq ty o)) 9) ∧
          exec (.acqTry ty o) s = .next ((({ s with nextId := s.nextId + 1 }).setCluster { k with
            queue := k.queue ++ [{ r with try' := true }] }).waits c g p (.grant s.nextId (.acqTry ty o)) 9)) ∧
        (b.counted.get ty ≤ n → b.claim.get ty < n → b.acqd.contains ty = false →
          n ≤ (s.capVec (clusterOf b.core) (s.domainCap b)).getD i 0 → (ty = .reg → n ≤ 8 * gr.desc.groups) →
          exec (.claim ty o) s = .next ((({ s with nextId := s.nextId + 1 }).setCluster { k with
            queue := k.queue ++ [{ r with raise := true }] }).waits c g p (.grant s.nextId (.claim ty o)) 9)))) ∧
    (∀ x, p.granted = some x →
      exec (.claim ty o) s = .next (s.retired c gm p) ∧
      (x.ok = true →
        exec (.acq ty o) s = .next ((s.setBlock (b.takeUp ty x.amt)).retired c
          (if ty = .reg then { gm with regn := g.regn + 8 * x.amt } else gm) p) ∧
        exec (.acqTry ty o) s = .next ((s.setBlock (b.takeUp ty x.amt)).retired c
          ((((if ty = .reg then { gm with regn := g.regn + 8 * x.amt } else gm).setSreg o.d 1)).setFlags 0) p)) ∧
      (x.ok = false → exec (.acqTry ty o) s = .next (s.retired c ((gm.setSreg o.d 0).setFlags 0) p))) ∧
    (∀ m, (b.takeUp ty m).alloc = b.alloc.set ty (b.alloc.get ty + m) ∧
      (∀ a, 16384 * b.alloc.get ty ≤ a →
        (ty = .tile → Memory.read (b.takeUp ty m).tile a = 0) ∧ (ty = .scr → Memory.read (b.takeUp ty m).scr a = 0)))) ∧
  (∀ (s : State) (c : Cur) (g gm : Group) (p : Path) (b : Block) (gr : Grid) (ty : RType) (o : ROps)
    (e : Word) (n i : Nat) (cl : BitVec 6), s.ActsIn c g p b gr → e = p.eff g o.g → e ≠ 0 →
    n = (scalarB g o.b).toNat → gm = (if o.lb then g.setSreg (bField o.b) 0 else g) → cl = clusterOf b.core →
    i = (match ty with
      | .reg => b.core.toNat % 8
      | .tile => 8 + b.core.toNat % 8
      | .scr => 16
      | .eng => 17) →
    (n = 0 → exec (.rel ty o) s = .next (s.retired c gm p)) ∧
    (0 < n → (s.cluster cl).busyFor g.id = true ∨ g.hasAnswer = true →
      exec (.rel ty o) s = .next (s.waits c g p .retry 9)) ∧
    (0 < n → (s.cluster cl).busyFor g.id = false → g.hasAnswer = false →
      (ty = .reg → 8 * n + 8 ≤ g.regn → exec (.rel ty o) s = .next
        (((s.setBlock { b with alloc := { b.alloc with reg := b.alloc.reg - n } }).retestAll cl).retired c
            ((g.shrink (g.regn - 8 * n)).applyMarks c.p.slot p.mask (markOf o.lb .s (bField o.b))) p)) ∧
      (ty = .reg → g.regn < 8 * n + 8 → exec (.rel ty o) s = fatal s c g p 0x32 e 0) ∧
      (ty ≠ .reg → n ≤ b.alloc.get ty → exec (.rel ty o) s = .next (s.waits c g p (.rel ty n o) 10)) ∧
      (ty ≠ .reg → b.alloc.get ty < n → exec (.rel ty o) s = fatal s c g p 0x32 e 0)) ∧
    (exec (.rstat ty .held o) s = .next (s.retired c
      ((g.setSreg o.d (BitVec.ofNat 64 (b.alloc.get ty))).setFlags 0) p)) ∧
    (exec (.rstat ty .claim o) s = .next (s.retired c
      ((g.setSreg o.d (BitVec.ofNat 64 (b.claim.get ty))).setFlags 0) p)) ∧
    (exec (.rstat ty .grp o) s = .next (s.retired c
      ((g.setSreg o.d (BitVec.ofNat 64 (g.regn / 8))).setFlags 0) p)) ∧
    (∀ v hs, hs = (s.residents cl).map Block.holding →
      v = min ((s.availOf cl hs).getD i 0) ((s.davailOf cl hs b).getD i 0) →
      exec (.rstat ty .avail o) s = .next (s.retired c
        ((g.setSreg o.d (BitVec.ofNat 64 v)).setFlags 0) p)) ∧
    (∀ r q w left, s.Waiting r g q b w → w.kind = .rel ty n o → left = b.alloc.get ty - n →
      (b.alloc.get ty < n → exec (.relTakesEffect r) s =
        fatal s ⟨r, w.next, w.last⟩ g q 0x32 (q.eff g o.g) 0) ∧
      (n ≤ b.alloc.get ty → s.unitsBusy b ty left = true → exec (.relTakesEffect r) s = .next s) ∧
      (n ≤ b.alloc.get ty → s.unitsBusy b ty left = false → exec (.relTakesEffect r) s = .next
        (((s.setBlock (b.releaseTo ty left)).retestAll cl).retired ⟨r, w.next, w.last⟩
          (g.applyMarks r.slot q.mask (markOf o.lb .s (bField o.b))) q))))

/-- REEVE_TEST takes the oldest deferred request that is due, else the oldest queued one: a grant makes what the
block counts for grow, or its claim, and answers the path; a deferral puts it among the deferred, or leaves it there,
and answers an ACQ.try with 0; an amount beyond the claim takes cause 0x30; one that is due and deferred no more is
passed by. A deferred request passed over 64 times is frozen by REEVE_FREEZE, and nothing is tested before that; while
a deferred request is frozen, another one of its type is deferred without test unless its block's whole need fits, and
one of another type is tested (R204, R207 to R209, R214; that a request is not under its own freeze is the model's
choice, log 24). What the test of a request answers: a request
beyond its block's claim always traps and no other does; a grant never takes more than the cluster and the domain
have left, and leaves every resident block a way to finish: either the block itself can get all it claims, or the
passes of R204 mark every block (R200, R201, R204). -/
def Obligations.ReeveTests : Prop :=
  (∀ (s : State) (cl : BitVec 6) (k : Cluster), k = s.cluster cl → k.id = cl →
    (k.freezeDue = true → exec (.reeveTest cl) s = .next s) ∧
    (∀ x ∈ k.deferred, 64 ≤ x.passed → ∃ u, exec (.reeveFreeze cl x.id) s = .next u ∧
      { x with frozen := true } ∈ (u.cluster cl).deferred ∧ (u.cluster cl).queue = k.queue) ∧
    (∀ (r : ReeveReq) (t : List ReeveReq) (b b' : Block) (g : Group),
      k.freezeDue = false → k.retest = [] → k.queue = r :: t → s.block? r.blk = some b →
      s.group? r.path.grp = some g → (∀ x ∈ t ++ k.deferred, x.id ≠ r.id) →
      b' = (if r.raise then b else b.markAcq r.ty) →
      (s.decide cl r b' = .grant → ∃ u, exec (.reeveTest cl) s = .next u ∧
        u.block? b.id = some (if r.raise then { b with claim := b.claim.set r.ty r.amt }
          else { b' with pend := b.pend.set r.ty (b.pend.get r.ty + r.amt) }) ∧
        u.group? g.id = some (g.reeveAnswer r.id ⟨true, r.ty, r.amt, r.raise, r.lanes⟩) ∧
        (u.cluster cl).queue = t ∧ (u.cluster cl).deferred = k.deferred.map fun x =>
          if x.id < r.id && x.ty == r.ty then { x with passed := x.passed + 1 } else x) ∧
      (s.decide cl r b' = .defer → r.try' = false → exec (.reeveTest cl) s = .next
        ((s.setBlock b').setCluster { k with queue := t, deferred := k.deferred ++ [r] })) ∧
      (s.decide cl r b' = .defer → r.try' = true → ∃ u, exec (.reeveTest cl) s = .next u ∧
        u.group? g.id = some (g.reeveAnswer r.id ⟨false, r.ty, r.amt, r.raise, r.lanes⟩) ∧
        (u.cluster cl).queue = t ∧
        (u.cluster cl).deferred = k.deferred) ∧
      (∀ slot q gr, s.decide cl r b' = .trap → g.asker r.id = some (slot, q) → g.blk = b.id →
        s.grid? b.grid = some gr → ∃ u, exec (.reeveTest cl) s = .next u ∧
          u.group? g.id = some (g.frozenBy slot q.pc q.hdr 0x30 r.lanes 0 0))) ∧
    (∀ (n : Nat) (t : List Nat), k.freezeDue = false → k.retest = n :: t →
      (k.deferred.find? (fun x => x.id == n) = none →
        exec (.reeveTest cl) s = .next (s.setCluster { k with retest := t })) ∧
      ∀ (r : ReeveReq) (b b' : Block) (g : Group), k.deferred.find? (fun x => x.id == n) = some r →
        s.block? r.blk = some b → b.dbg = false → s.group? r.path.grp = some g →
        (∀ x ∈ k.queue, x.id ≠ r.id) → r.try' = false → b' = (if r.raise then b else b.markAcq r.ty) →
        (s.decide cl r b' = .grant → ∃ u, exec (.reeveTest cl) s = .next u ∧
          u.block? b.id = some (if r.raise then { b with claim := b.claim.set r.ty r.amt }
            else { b' with pend := b.pend.set r.ty (b.pend.get r.ty + r.amt) }) ∧
          u.group? g.id = some (g.reeveAnswer r.id ⟨true, r.ty, r.amt, r.raise, r.lanes⟩) ∧
          (u.cluster cl).queue = k.queue ∧ (u.cluster cl).retest = t.filter (fun m => m != n) ∧
          (u.cluster cl).deferred = (k.deferred.filter fun x => x.id != n).map fun x =>
            if x.id < r.id && x.ty == r.ty then { x with passed := x.passed + 1 } else x) ∧
        (s.decide cl r b' = .defer → exec (.reeveTest cl) s =
          .next ((s.setBlock b').setCluster { k with retest := t.filter fun m => m != n }))) ∧
    (∀ (r : ReeveReq) (b b' : Block) (hs : List Holding) (x : ResVec) (need : ResVec),
      b' = (if r.raise then { b with claim := b.claim.set r.ty r.amt } else b) →
      hs = ((s.residents cl).map fun y => if y.id == b.id then b'.holding else y.holding) →
      x = typeVec r.ty (if r.raise then 0 else r.amt) b.core → need = b'.holding.need →
      ((∃ y ∈ k.deferred, y.frozen = true ∧ y.id ≠ r.id ∧ y.ty = r.ty) →
        need.le (s.availOf cl hs) = false ∨ need.le (s.davailOf cl hs b) = false →
        s.decide cl r b = .defer) ∧
      ((∀ y ∈ k.deferred, y.frozen = true → y.id ≠ r.id → y.ty ≠ r.ty) ∨
          (need.le (s.availOf cl hs) = true ∧ need.le (s.davailOf cl hs b) = true) →
        s.decide cl r b = s.safeTest cl hs b' x))) ∧
  (∀ (s : State) (cl : BitVec 6) (hs hs' : List Holding) (b : Block) (x : ResVec) (h h' : Holding),
    hs.find? (fun y => y.b.id == b.id) = some h → h' = { h with alloc := h.alloc.add x } →
    hs' = replaceFirst (fun y => y.b.id == b.id) (fun _ => h') hs →
    (s.safeTest cl hs b x = .trap ↔ (h.alloc.add x).le h.claim = false) ∧
    (s.safeTest cl hs b x = .grant ↔ (h.alloc.add x).le h.claim = true ∧ x.le (s.availOf cl hs) = true ∧
      x.le (s.davailOf cl hs b) = true ∧
      ((h'.need.le (s.availOf cl hs') = true ∧ h'.need.le (s.davailOf cl hs' b) = true) ∨
        (s.finishers cl hs' (hs'.length + 1) []).length = hs'.length)))

/-! ### Copies, the array, device-side work -/

/-- COPY: its checks in the order of R220; then its block-scope release; a length of 0 completes at once with the
timebase in s_d; otherwise the operation enters its channel, unless 16 are there, and s_d has the promise of
R224. QFENCE puts what its channels hold before what they take later; CPOLL says which channels are busy and
which are frozen; neither has a zero mask: such a word takes cause 0x01 (R218, R220, R222, R224, R228, R229). The
address that a fault reports is inferred (log 19), that cause 0x12 reports the destination's is the model's choice (log
48), and so are promises that R224's formula leaves smaller than an earlier one (log 21). SLEEPT waits under stall reason 10 until its time, and
SLEEPT_WAKE ends it; then it observes the group's copies promised by that time, or, when one of them is
incomplete, takes cause 0x40, with the number of such copies, at most 255, and the oldest one's channel in the
code (R223, R226, R227). -/
def Obligations.Copies : Prop :=
  (∀ (s : State) (c : Cur) (g : Group) (p : Path) (b : Block) (gr : Grid) (op : CopyOp) (ch : BitVec 4)
    (o : ROps) (m : BitVec 16) (e : Word) (len : Nat) (ld ls : Locator) (k : Channel) (rd rs : Region),
    s.ActsIn c g p b gr → e = p.eff g o.g → e ≠ 0 → len = (g.sreg o.c).toNat →
    ld = locatorOf (g.sreg o.a) → ls = locatorOf (scalarB g o.b) → k = b.chan ch.toNat →
    (b.alloc.eng ≤ ch.toNat → exec (.copy op ch o) s = fatal s c g p 0x30 e 0) ∧
    (ch.toNat < b.alloc.eng →
      (2 ^ 30 < len → exec (.copy op ch o) s = fatal s c g p 0x01 p.mask 0) ∧
      (len ≤ 2 ^ 30 → s.copyRegion b gr op true ld.slot = none ∨ s.copyRegion b gr op false ls.slot = none →
        exec (.copy op ch o) s = fatal s c g p 0x11 e 0) ∧
      (len ≤ 2 ^ 30 → s.copyRegion b gr op true ld.slot = some rd → s.copyRegion b gr op false ls.slot = some rs →
        (rd.inside ld.off len = false →
          exec (.copy op ch o) s = fatal s c g p 0x10 e (offAddr rd 0 e fun _ => (ld.off : Int))) ∧
        (rd.inside ld.off len = true → rs.inside ls.off len = false →
          exec (.copy op ch o) s = fatal s c g p 0x10 e (offAddr rs 0 e fun _ => (ls.off : Int)))) ∧
      (len ≤ 2 ^ 30 → s.copyRegion b gr op true ld.slot = some rd → s.copyRegion b gr op false ls.slot = some rs →
        rd.inside ld.off len = true → rs.inside ls.off len = true →
        (ld.off % copyElem op ≠ 0 ∨ ls.off % copyElem op ≠ 0 ∨ len % copyElem op ≠ 0 →
          exec (.copy op ch o) s = fatal s c g p 0x12 e (offAddr rd 0 e fun _ => (ld.off : Int))) ∧
        (ld.off % copyElem op = 0 → ls.off % copyElem op = 0 → len % copyElem op = 0 →
          (s.released g .blk = false → exec (.copy op ch o) s = .next (s.waits c g p .retry 12)) ∧
          (s.released g .blk = true → len = 0 → exec (.copy op ch o) s = .next
            ({ s with nextId := s.nextId + 1 }.retired c ({ g with lastOp := some s.nextId }.applyWrites
              c.p.slot p.mask e ⟨[], some (o.d, s.timebase), none, 0, markOf o.la .s o.a ++
                markOf o.lb .s (bField o.b) ++ markOf o.lc .s o.c⟩) p)) ∧
          (s.released g .blk = true → 0 < len → 16 ≤ k.queue.length →
            exec (.copy op ch o) s = .next (s.waits c g p .retry 6)) ∧
          (s.released g .blk = true → 0 < len → k.queue.length < 16 → ∀ (fd fs : Pace) (pr : DWord) (q w : Nat),
            fd = s.paceOf b rd ld.off len → fs = s.paceOf b rs ls.off len →
            q = ((k.queue.getLast?.map fun y => y.promise.toNat).getD 0) → w = (if op = .mov then 1 else 2) →
            pr = BitVec.ofNat 64 (max s.timebase.toNat q + max fd.f fs.f +
              (len * w + min fd.r fs.r - 1) / min fd.r fs.r) →
            exec (.copy op ch o) s = .next (({ s with nextId := s.nextId + 1 }.setBlock (b.setChan { k with
                queue := k.queue ++ [(⟨s.nextId, g.id, p.pc, op, ⟨rd.h, ld.off⟩, ⟨rs.h, ls.off⟩, len, pr,
                  .queued, 0, 0, [], k.after, []⟩ : CarterOp)] })).retired c
              ({ g with lastOp := some s.nextId, copies := g.copies ++ [s.nextId] }.applyWrites
                c.p.slot p.mask e ⟨[], some (o.d, pr), none, 0, markOf o.la .s o.a ++
                  markOf o.lb .s (bField o.b) ++ markOf o.lc .s o.c⟩) p))))) ∧
    (∀ (w x : Word) (t : List Word), w.extractLsb' 24 8 = 0xC9 ∨ w.extractLsb' 24 8 = 0xCA → x.extractLsb' 0 16 = 0 →
      ∃ e, decodeWords (w :: x :: t) = .error e ∧ e.cause = 0x01) ∧
    ((∃ n, n < 16 ∧ m.getLsbD n = true ∧ b.alloc.eng ≤ n) →
      exec (.qfence m o) s = fatal s c g p 0x30 e 0 ∧ exec (.cpoll m o) s = fatal s c g p 0x30 e 0) ∧
    ((∀ n, n < 16 → m.getLsbD n = true → n < b.alloc.eng) →
      (∃ b', exec (.qfence m o) s = .next ((s.setBlock b').retired c g p) ∧ b' = { b with chans := b'.chans } ∧
        ∀ n, n < 16 → (b'.chan n).queue = (b.chan n).queue ∧ (b'.chan n).frozen = (b.chan n).frozen ∧
          (m.getLsbD n = false → (b'.chan n).after = (b.chan n).after) ∧
          ∀ i, m.getLsbD n = true → (i ∈ (b'.chan n).after ↔ i ∈ (b.chan n).after ∨
            ∃ n', n' < 16 ∧ m.getLsbD n' = true ∧ ∃ x ∈ (b.chan n').queue, x.id = i)) ∧
      ∃ (v : DWord) (x : Group × State), exec (.cpoll m o) s = .next (x.2.retired c
          (x.1.applyWrites c.p.slot p.mask e ⟨[], some (o.d, v), none, 0, []⟩) p) ∧
        v.toNat < 2 ^ 32 ∧ (∀ n, n < 16 →
          (v.getLsbD n = true ↔ m.getLsbD n = true ∧ (b.chan n).queue ≠ []) ∧
          (v.getLsbD (16 + n) = true ↔ m.getLsbD n = true ∧ (b.chan n).frozen = true)) ∧
        x = s.observeDone b g fun d => decide (d.ch < 16) && m.getLsbD d.ch &&
          (b.chan d.ch).queue.isEmpty && !(b.chan d.ch).frozen)) ∧
  (∀ (s : State) (c : Cur) (g : Group) (p : Path) (b : Block) (gr : Grid) (o : ROps) (e : Word) (t : Nat)
    (x : Group × State), t = (g.sreg o.a).toNat → x = s.observeDone b g (fun d => decide (d.promise.toNat ≤ t)) →
    (s.ActsIn c g p b gr → e = p.eff g o.g → e ≠ 0 →
      (s.timebase.toNat < t → exec (.sleept o) s = .next (s.waits c g p (.sleept t o) 10)) ∧
      (t ≤ s.timebase.toNat → b.overdue g.id t = [] → exec (.sleept o) s = .next (x.2.retired c
        (x.1.applyMarks c.p.slot p.mask (markOf o.la .s o.a)) p)) ∧
      (∀ u us, t ≤ s.timebase.toNat → b.overdue g.id t = u :: us → exec (.sleept o) s = deliver s c g p 0x40 e
        (BitVec.ofNat 32 (min (us.length + 1) 255 * 256 + u.2)) p.pc p.hdr ((u :: us).map fun y => y.1))) ∧
    (∀ r q w t', s.Waiting r g q b w → s.grid? b.grid = some gr → w.kind = .sleept t' o → t' = t →
      (s.timebase.toNat < t → exec (.sleeptWake r) s = .next s) ∧
      (t ≤ s.timebase.toNat → b.overdue g.id t = [] → exec (.sleeptWake r) s = .next (x.2.retired
        ⟨r, w.next, w.last⟩ (x.1.applyMarks r.slot q.mask (markOf o.la .s o.a)) q)) ∧
      (∀ u us, t ≤ s.timebase.toNat → b.overdue g.id t = u :: us → exec (.sleeptWake r) s = deliver s
        ⟨r, w.next, w.last⟩ g q 0x40 (q.eff g o.g) (BitVec.ofNat 32 (min (us.length + 1) 255 * 256 + u.2))
        q.pc q.hdr ((u :: us).map fun y => y.1))) ∧
    (b.overdue g.id t = [] ↔ ∀ ch ∈ b.chans, ∀ y ∈ ch.queue, y.grp = g.id → t < y.promise.toNat))

/-- CARTER_OPERATION_START moves the oldest operation of a channel on: the next piece of its source is read, up
to the end of a line and once the stores there that it must see are acknowledged; then the next piece of its
destination is written, or added to element by element. It does nothing while the channel is frozen, or while the
operation is paused, or queued behind a fence or a clock fault, and waits for another die's answers; an absent
page pauses it, another refusal is a copy fault, of cause 0x60 for an expired deadline. CARTER_OPERATION_COMPLETE
ends an operation all of whose bytes have moved and are acknowledged, and no other; an acknowledgment that comes after
its deadline is a copy fault of cause 0x60; the group then has it among its completed copies (R221 to R225, R228, R263,
R264). That an operation moves in pieces, up to the end of a line, one each time, is the model's choice (log 21); so is
how its bytes stand on their way (log 42). -/
def Obligations.CarterOperations : Prop :=
  ∀ (s s' : State) (b : Block) (gr : Grid) (g : Group) (ch : BitVec 4) (x : CarterOp) (rest : List CarterOp)
    (r : Region) (rs : List LineRes) (as : List Nat) (cz : BitVec 8) (a : Nat) (st : Site) (die : BitVec 2),
    s.block? b.id = some b → s.grid? b.grid = some gr → (b.chan ch.toNat).queue = x :: rest →
    st = ⟨b.core, b.vd, ⟨x.grp, false⟩⟩ → die = dieOf b.core →
    ((b.chan ch.toNat).frozen = true ∨ (∃ t, x.state = .paused t) ∨
        (x.state = .queued ∧ (x.after ≠ [] ∨ s.clkFault = true)) →
      exec (.carterOperationStart b.id ch) s = .next s) ∧
    ((b.chan ch.toNat).frozen = false → x.state = .moving ∨ (x.state = .queued ∧ x.after = [] ∧
        s.clkFault = false ∧ s.quiet b.vd = false) → s.noDma b x = false → s.lost (.op x.id) = true →
      exec (.carterOperationStart b.id ch) s = .next (s.copyFault b ch.toNat x 0x60)) ∧
    ((b.chan ch.toNat).frozen = false → x.state = .moving ∨ (x.state = .queued ∧ x.after = [] ∧
        s.clkFault = false ∧ s.quiet b.vd = false) → s.noDma b x = false → s.lost (.op x.id) = false →
      r.h.space ≠ 7 →
      (x.rd < x.len → s.endRegion b gr x.src.handle = some r →
        as = endAddrs r x.src x.rd (min (128 - r.addr (x.src.off + x.rd) % 128) (x.len - x.rd)) →
        (s.unackedIn x.grp ((linesOf as).map (s.keyOf st r)) = true →
          exec (.carterOperationStart b.id ch) s = .next s) ∧
        (s.unackedIn x.grp ((linesOf as).map (s.keyOf st r)) = false →
          (s.reach st (.op x.id) r .read as = (.ok rs, s') →
            exec (.carterOperationStart b.id ch) s = .next (s'.putOp b.id ch.toNat { x with
              state := .moving, rd := x.rd + as.length, buf := x.buf ++ reachedBytes rs as })) ∧
          (s.reach st (.op x.id) r .read as = (.wait, s') →
            exec (.carterOperationStart b.id ch) s = .next s') ∧
          (s.reach st (.op x.id) r .read as = (.cause cz a, s') → cz ≠ 0x20 →
            exec (.carterOperationStart b.id ch) s =
              .next (s'.copyFault b ch.toNat x (if cz = 0x60 then 0x60 else 0x41))) ∧
          (s.reach st (.op x.id) r .read as = (.cause 0x20 a, s') → x.src.handle.space = r.h.space →
            ∃ u b' t y ys, exec (.carterOperationStart b.id ch) s = .next u ∧ u.block? b.id = some b' ∧
              (b'.chan ch.toNat).queue = y :: ys ∧ y = { x with state := .paused t }))) ∧
      (x.rd = x.len → x.wr < x.len → x.txns = [] → s.endRegion b gr x.dst.handle = some r →
        as = endAddrs r x.dst x.wr (pieceLen (r.addr (x.dst.off + x.wr)) (x.len - x.wr) (copyElem x.op)) →
        (s.reach st (.op x.id) r (copyAccess x.op) as = (.ok rs, s') →
          (x.op = .mov → exec (.carterOperationStart b.id ch) s = .next ((s'.sendAt st (.op x.id) rs (as.zip
            ((x.buf.drop x.wr).take as.length))).putOp b.id ch.toNat { x with wr := x.wr + as.length })) ∧
          (x.op ≠ .mov → exec (.carterOperationStart b.id ch) s = .next ((s'.atomAt die rs (as.zip
            (addBytes (copyElem x.op) as.length (s'.oldBytes rs as)
              ((x.buf.drop x.wr).take as.length)))).putOp b.id ch.toNat { x with wr := x.wr + as.length }))) ∧
        (s.reach st (.op x.id) r (copyAccess x.op) as = (.cause cz a, s') → cz ≠ 0x20 →
          exec (.carterOperationStart b.id ch) s =
            .next (s'.copyFault b ch.toNat x (if cz = 0x60 then 0x60 else 0x41))))) ∧
    (∀ c, ∃ b', (s.copyFault b ch.toNat x c).block? b.id = some b' ∧ (b'.chan ch.toNat).frozen = true ∧
      ∀ y ∈ (b'.chan ch.toNat).queue, y.id ≠ x.id) ∧
    (x.wr ≠ x.len ∨ x.rd ≠ x.len ∨ x.txns ≠ [] ∨ x.state ≠ .moving ∨ s.sending (.op x.id) = true →
      exec (.carterOperationComplete b.id ch) s = .next s) ∧
    (x.wr = x.len → x.rd = x.len → x.txns = [] → x.state = .moving → s.sending (.op x.id) = false → s.group? g.id = some g → x.grp = g.id →
      ∃ t g' b', exec (.carterOperationComplete b.id ch) s = .next t ∧ t.block? b.id = some b' ∧
        (∀ y ∈ (b'.chan ch.toNat).queue, y.id ≠ x.id ∧ x.id ∉ y.after) ∧ t.group? g.id = some g' ∧
        x.id ∉ g'.copies ∧ (⟨x.id, ch.toNat, x.promise, x.dst, x.len⟩ : DoneCopy) ∈ g'.done ∧
        g'.sregs = g.sregs ∧ t.mem = s.mem ∧ t.home = s.home)

/-- MMA and COPYM gather their rows' addresses and hand one operation to the array, COPYM bound to the group's
latest copy while that is incomplete; MLD, MST and MZERO hand theirs over; each passes its checks first and its
block-scope release. MBATCH closes a batch and gives its number; MWAIT waits under stall reason 11 for the
batches up to its operand (R237, R238, R241 to R246). Which operations pass a COPYM's place is the model's choice
(log 22). -/
def Obligations.MatrixHandOver : Prop :=
  ∀ (s s' : State) (c : Cur) (g : Group) (p : Path) (b : Block) (gr : Grid) (o : AOps) (q : ROps) (e : Word)
    (h : Handle) (r : Region) (reqs : List LaneReq) (rs : List LineRes) (acc bt : Nat)
    (give : State → MatOp → MatState → List Mark → Result) (off : Nat),
    s.ActsIn c g p b gr → p.replay = none → e = p.eff g o.g → e ≠ 0 → q.g = o.g → acc = o.acc.toNat →
    bt = o.bt.toNat → off = (g.sreg o.sa).toNat →
    (give = fun s op st marks => .next (({ s with nextId := s.nextId + 1 }.setCore { s.core b.core with
        array := (s.core b.core).array ++ [(⟨s.nextId, g.id, b.id, p.pc, e, op, st⟩ : ArrayOp)] }).retired c
      ({ g with openOps := g.openOps ++ [s.nextId] }.applyMarks c.p.slot p.mask marks) p)) →
    (b.slotAt o.ha = some h → s.regionOf b gr h = some r →
      (h.space = 1 → h.perm.getLsbD 0 = true → o.vi.toNat < g.regn →
        8192 * acc + 8192 ≤ 16384 * b.alloc.tile → 4096 * bt + 8448 ≤ 16384 * b.alloc.tile →
        8192 * acc + 8192 ≤ 4096 * bt ∨ 4096 * bt + 8448 ≤ 8192 * acc → off % 64 = 0 →
        (∀ l, l < 32 → bitAt e l = true →
          r.inside (off + 192 * (g.vlane c.p.slot o.vi.toNat l).toNat : Nat) 192 = true) →
        (s.released g .blk = false → exec (.mma o) s = .next (s.waits c g p .retry 12)) ∧
        (s.released g .blk = true → ∀ op, op = .mma (o.km1.toNat + 1) o.ctr o.z acc bt
            ((List.range 32).map fun l => if bitAt e l
              then some (r.addr (off + 192 * (g.vlane c.p.slot o.vi.toNat l).toNat)) else none) →
          exec (.mma o) s = give s op .queued (markOf o.lv .v o.vi ++ markOf o.ls .s o.sa) ∧
          (∀ n, g.lastOp = some n → s.opOpen n = true →
            exec (.copym o) s = give s op (.bound n) (markOf o.lv .v o.vi ++ markOf o.ls .s o.sa)) ∧
          ((∀ n, g.lastOp = some n → s.opOpen n = false) →
            exec (.copym o) s = give s op .queued (markOf o.lv .v o.vi ++ markOf o.ls .s o.sa)))) ∧
      (h.space.toNat ≤ 2 ∨ h.space = 4 ∨ h.space = 6 → h.perm.getLsbD 0 = true →
        4096 * bt + 8448 ≤ 16384 * b.alloc.tile → r.inside off 8448 = true → r.addr off % 64 = 0 →
        reqs = ((lanesIn e).map fun l => (⟨l, endAddrs r ⟨r.h, off⟩ 0 8448⟩ : LaneReq)) →
        s.Confirms ⟨b.core, b.vd, c.p⟩ p r .read reqs rs s' → s'.released g .blk = true →
        exec (.mld o) s = give s' (.mld bt ⟨r.h, off⟩) .queued (markOf o.ls .s o.sa)) ∧
      (h.space.toNat ≤ 2 ∨ h.space = 6 → h.perm.getLsbD 1 = true →
        8192 * acc + 8192 ≤ 16384 * b.alloc.tile → r.inside off 8192 = true → r.addr off % 64 = 0 →
        reqs = ((lanesIn e).map fun l => (⟨l, endAddrs r ⟨r.h, off⟩ 0 8192⟩ : LaneReq)) →
        s.Confirms ⟨b.core, b.vd, c.p⟩ p r .write reqs rs s' → s'.released g .blk = true →
        exec (.mst o) s = give s' (.mst acc ⟨r.h, off⟩) .queued (markOf o.ls .s o.sa))) ∧
    (b.slotAt o.ha = none → (o.vi.toNat < g.regn → exec (.mma o) s = fatal s c g p 0x11 e 0) ∧
      exec (.mld o) s = fatal s c g p 0x11 e 0 ∧ exec (.mst o) s = fatal s c g p 0x11 e 0) ∧
    (8192 * acc + 8192 ≤ 16384 * b.alloc.tile → s.released g .blk = true →
      exec (.mzero o) s = give s (.mzero acc) .queued []) ∧
    (16384 * b.alloc.tile < 8192 * acc + 8192 → exec (.mzero o) s = fatal s c g p 0x10 e 0) ∧
    (exec (.mbatch q) s = .next (s.retired c ({ g with
        batch := g.batch + 1, openOps := [],
        batches := popBatches (g.batches ++ [(⟨(g.batch + 1).toNat, g.openOps⟩ : Batch)]) }.applyWrites c.p.slot p.mask e
          ⟨[], some (q.d, g.batch + 1), none, 0, []⟩) p)) ∧
    (∀ l : List Batch, ∃ d, l = d ++ popBatches l ∧ (∀ x ∈ d, x.ops = []) ∧
      ∀ x t, popBatches l = x :: t → x.ops ≠ []) ∧
    (∀ n, n = min (scalarB g q.b).toNat g.batch.toNat →
      (n = 0 → exec (.mwait q) s = .next (s.retired c
        (g.applyMarks c.p.slot p.mask (markOf q.lb .s (bField q.b))) p)) ∧
      (n ≠ 0 → (∃ x ∈ g.batches, x.num ≤ n) → exec (.mwait q) s = .next (s.waits c g p .retry 11)) ∧
      (n ≠ 0 → (∀ x ∈ g.batches, n < x.num) → exec (.mwait q) s = .next ((s.observeBatches b g).2.retired c
        ((s.observeBatches b g).1.applyMarks c.p.slot p.mask (markOf q.lb .s (bField q.b))) p)))

/-- The array: the Gleaner brings the next MMA's rows when at most one other has its rows; the next operation is
the first that does not wait at a COPYM's place or behind one whose tiles it touches; it starts when none runs,
an MMA only with its rows and with awake sub-arrays, after 120 cycles of waking; an operation that completes
leaves in the tile bytes what R241, R243 and R244 say, every other tile byte as it was, and its queue; MLD and
MST move their bytes, an MST that has sent bytes to another die completes once they are acknowledged, and one whose
access fails is abandoned and freezes its group; idle sub-arrays are gated after the time MXGATE gives (R235 to R237,
R239, R241 to R244, R263, R394). Which operations pass a COPYM's place, what room the Gleaner has for one that does,
and that an operation has its effect when it completes, are the model's choices (log 22). -/
def Obligations.ArrayOperations : Prop :=
  ∀ (s s' : State) (core : BitVec 9) (k : Core) (x : ArrayOp) (b : Block) (gr : Grid) (r : Region)
    (d : Endpoint) (rs : List LineRes) (as : List Nat) (kk acc bt : Nat) (ctr z : Bool) (st : Site)
    (rows : List (Option Nat)) (recs : List (Option (List Byte))), k = s.core core → k.id = core →
    st = ⟨core, b.vd, ⟨x.grp, false⟩⟩ →
    (nextGather [] k.array = none ∨ 2 ≤ (k.array.filter ArrayOp.latched).length →
      exec (.gleanerGather core) s = .next s) ∧
    (∀ y, nextGather [] k.array = some y → y ∈ k.array ∧ y.isMma = true ∧ y.state = .queued) ∧
    (nextGather [] k.array = some x → (∃ y ∈ k.array.takeWhile (fun y => y.id != x.id), y.isBound = true) →
      k.array.filter ArrayOp.latched ≠ [] → exec (.gleanerGather core) s = .next s) ∧
    (nextGather [] k.array = some x → k.array.filter ArrayOp.latched = [] ∨
        ((k.array.filter ArrayOp.latched).length < 2 ∧
          ∀ y ∈ k.array.takeWhile (fun y => y.id != x.id), y.isBound = false) →
      x.op = .mma kk ctr z acc bt rows → s.block? x.blk = some b →
      (s.unackedIn x.grp (rowKeys x.blk rows) = false → exec (.gleanerGather core) s = .next (s.setCore (k.setOp
        { x with state := .gathered (rows.map fun o => o.map fun a => Memory.readN b.scr a 192) }))) ∧
      (s.unackedIn x.grp (rowKeys x.blk rows) = true → exec (.gleanerGather core) s = .next s)) ∧
    (∀ y, nextOp [] k.array = some y ↔ ∃ pre post, k.array = pre ++ y :: post ∧ y.waits pre = false ∧
      ∀ p1 w p2, pre = p1 ++ w :: p2 → w.waits p1 = true) ∧
    ((∃ y ∈ k.array, y.runs = true) → exec (.arrayOperationStart core) s = .next s) ∧
    ((∀ y ∈ k.array, y.runs = false) → nextOp [] k.array = some x →
      s.unackedIn x.grp (tileKeys x.blk x.op.tiles) = false →
      (x.state = .queued → x.isMma = false →
        exec (.arrayOperationStart core) s = .next (s.setCore (k.setOp { x with state := .running [] }))) ∧
      (x.state = .queued → x.isMma = true → exec (.arrayOperationStart core) s = .next s) ∧
      (x.state = .gathered recs →
        (k.awake = true ∨ 120 ≤ k.idle → exec (.arrayOperationStart core) s = .next (s.setCore
          { k.setOp { x with state := .running recs } with awake := true, idle := 0 })) ∧
        (k.awake = false → k.idle < 120 → exec (.arrayOperationStart core) s = .next s))) ∧
    (k.arrayOp = some x → s.block? x.blk = some b → s.grid? b.grid = some gr →
      (x.op = .mma kk ctr z acc bt rows → x.state = .running recs → recs.length = 32 →
        Memory.wf b.tile = true → ∃ u b',
        exec (.arrayOperationComplete core) s = .next u ∧ u.block? b.id = some b' ∧
        (∀ y ∈ (u.core core).array, y.id ≠ x.id) ∧
        (∀ i j, i < 32 → j < 64 → natOfBytes (Memory.readN b'.tile (8192 * acc + 256 * i + 4 * j) 4) =
          (matrixElem kk ctr (if z then 0 else BitVec.ofNat 32 (natOfBytes
              (Memory.readN b.tile (8192 * acc + 256 * i + 4 * j) 4)))
            (rowBlocks (recs.getD i none) kk ctr) (colBlocks (Memory.readN b.tile (4096 * bt) 8448) j)).toNat) ∧
        (∀ a, a < 8192 * acc ∨ 8192 * acc + 8192 ≤ a → Memory.read b'.tile a = Memory.read b.tile a) ∧
        u.mem = s.mem ∧ u.home = s.home) ∧
      (x.op = .mzero acc → x.state = .running recs → Memory.wf b.tile = true → ∃ u b',
        exec (.arrayOperationComplete core) s = .next u ∧ u.block? b.id = some b' ∧
        (∀ y ∈ (u.core core).array, y.id ≠ x.id) ∧
        ∀ a, Memory.read b'.tile a =
          if 8192 * acc ≤ a ∧ a < 8192 * acc + 8192 then 0 else Memory.read b.tile a) ∧
      (x.op = .mld bt d → x.state = .running recs → s.regionOf b gr d.handle = some r →
        as = endAddrs r d 0 8448 →
        (s.unackedIn x.grp ((linesOf as).map (s.keyOf st r)) = true →
          exec (.arrayOperationComplete core) s = .next s) ∧
        (s.unackedIn x.grp ((linesOf as).map (s.keyOf st r)) = false →
          (s.reachKeep st (.op x.id) r .read as = (.ok rs, s') →
            exec (.arrayOperationComplete core) s = .next ((s'.setBlock { b with
              tile := Memory.writeN b.tile (4096 * bt) (reachedBytes rs as) }).finishMat core x false)) ∧
          (s.reachKeep st (.op x.id) r .read as = (.wait, s') →
            exec (.arrayOperationComplete core) s = .next s') ∧
          (∀ c a, Memory.wf b.tile = true → s.reachKeep st (.op x.id) r .read as = (.cause c a, s') →
            exec (.arrayOperationComplete core) s = (s'.abandon core b gr x).matFault core x c a ∧
            ∃ b', (s'.abandon core b gr x).block? b.id = some b' ∧
              ∀ i, i < 4096 * bt ∨ 4096 * bt + 8448 ≤ i → Memory.read b'.tile i = Memory.read b.tile i))) ∧
      (x.op = .mst acc d → x.state = .running recs → s.regionOf b gr d.handle = some r →
        as = endAddrs r d 0 8192 →
        (∀ u, s.reachKeep st (.op x.id) r .write as = (.ok rs, s') →
          u = s'.sendAt st (.op x.id) rs (as.zip (Memory.readN b.tile (8192 * acc) 8192)) →
          (u.sending (.op x.id) = false → exec (.arrayOperationComplete core) s = .next (u.finishMat core x false)) ∧
          (u.sending (.op x.id) = true → exec (.arrayOperationComplete core) s =
            .next (u.setCore ((u.core core).setOp { x with state := .storing })))) ∧
        (s.reachKeep st (.op x.id) r .write as = (.wait, s') →
          exec (.arrayOperationComplete core) s = .next s') ∧
        (∀ c a, s.reachKeep st (.op x.id) r .write as = (.cause c a, s') →
          exec (.arrayOperationComplete core) s = (s'.abandon core b gr x).matFault core x c a)) ∧
      (x.op = .mst acc d → x.state = .storing →
        (s.lost (.op x.id) = true → exec (.arrayOperationComplete core) s = s.matFault core x 0x60 0) ∧
        (s.lost (.op x.id) = false → s.sending (.op x.id) = true → exec (.arrayOperationComplete core) s = .next s) ∧
        (s.lost (.op x.id) = false → s.sending (.op x.id) = false →
          exec (.arrayOperationComplete core) s = .next (s.finishMat core x false))) ∧
      ((∀ q, x.state ≠ .running q) → x.state ≠ .storing → exec (.arrayOperationComplete core) s = .next s)) ∧
    (k.awake = true → k.gate ≠ 0 → k.gate ≤ k.idle → (∀ y, k.arrayOp = some y → y.isMma = false) →
      exec (.subarrayGate core) s = .next (s.setCore { k with awake := false, idle := 0 })) ∧
    (k.awake = false ∨ k.gate = 0 ∨ k.idle < k.gate → exec (.subarrayGate core) s = .next s)

/-- WPOP takes its place's record of its die level's feed queue, with an acquire: the oldest, but for those that
paths which wait before it will take; with none it retires with status 2 when the queue is closed, 1 when its
time is spent, and else waits in line; WPOP_WAIT_EXPIRY ends the wait in the same way, not before its time;
without a feed queue cause 0x11. ENQ appends its 64 bytes, their number in place, to an enabled DEV queue of its
virtual device, and rings it; to another, cause 0x81; with a full ring it waits (R338, R339). SIGOP and SIGWAIT
act on a signal as 8-byte atomics: admitted, inside, aligned to 8 and confirmed, SIGOP performs its addition,
setting, maximum or minimum of signed words once its release is over, gives the old value and may acquire;
SIGWAIT retires with an acquire when its condition holds of the signal, and else waits under stall reason 10
(R340). The order of the checks of ENQ and its one write are the model's choices (logs 7, 38, 42). -/
def Obligations.DeviceQueues : Prop :=
  ((∀ (s u : State) (c : Cur) (g : Group) (p : Path) (b : Block) (gr : Grid) (o : ROps) (e : Word)
    (f : FeedQueue) (w : List Word) (x : Group × State) (v : Nat → Nat → Word) (ww : Nat → Word),
    s.block? g.blk = some b → s.grid? b.grid = some gr → g.canWrite 1 = true →
    (v = fun n l => if l = 31 then BitVec.ofNat 32 n else 0) →
    (ww = fun l => if l < (if gr.desc.feedsz = 2 then 16 else 8) then w.getD l 0 else 0) →
    (s.Acts c g p → e = p.eff g o.g → e ≠ 0 → o.d.toNat < g.regn →
      (feedOf b gr = none → exec (.wpop o) s = fatal s c g p 0x11 e 0) ∧
      (feedOf b gr = some f →
        (f.recs[f.placeOf c.p]? = some w →
          u = s.setGrid (gr.setFeed b.dieid { f with
            recs := dropAt (f.placeOf c.p) f.recs, sleepers := f.sleepers.filter fun r => r != c.p }) →
          x = u.acquireFor ⟨b.core, b.vd, c.p⟩ g .dev allRegions →
          exec (.wpop o) s = .next (x.2.retired c (x.1.applyWrites c.p.slot p.mask e
            ⟨[(o.d.toNat, lanesOf ww)], none, none, 0, markOf o.la .s o.a⟩) p)) ∧
        (∀ n, f.recs[f.placeOf c.p]? = none → (f.closed = true ∧ n = 2) ∨
            (f.closed = false ∧ p.wait = none ∧ g.sreg o.a = 0 ∧ n = 1) →
          u = s.setGrid (gr.setFeed b.dieid { f with sleepers := f.sleepers.filter fun r => r != c.p }) →
          exec (.wpop o) s = .next (u.retired c (g.applyWrites c.p.slot p.mask e
            ⟨[(o.d.toNat, lanesOf (v n))], none, none, 0, markOf o.la .s o.a⟩) p)) ∧
        (f.recs[f.placeOf c.p]? = none → f.closed = false → g.sreg o.a ≠ 0 → p.wait = none →
          c.p ∉ f.sleepers → u = s.setGrid (gr.setFeed b.dieid { f with sleepers := f.sleepers ++ [c.p] }) →
          exec (.wpop o) s = .next (u.waits c g p (.wpop (if g.sreg o.a = -1 then none
            else some (s.timebase.toNat + min (g.sreg o.a).toNat (2 ^ 32 - 1))) o) 10)))) ∧
    (f.sleepers = [] ∨ f.sleepers.head? = some c.p → f.placeOf c.p = 0) ∧
    (∀ r q wt dl, s.Waiting r g q b wt → wt.kind = .wpop (some dl) o → feedOf b gr = some f →
      (s.timebase.toNat < dl → exec (.wpopWaitExpiry r) s = .next s) ∧
      (dl ≤ s.timebase.toNat →
        (f.recs[f.placeOf r]? = some w →
          u = s.setGrid (gr.setFeed b.dieid { f with
            recs := dropAt (f.placeOf r) f.recs, sleepers := f.sleepers.filter fun y => y != r }) →
          x = u.acquireFor ⟨b.core, b.vd, r⟩ g .dev allRegions →
          exec (.wpopWaitExpiry r) s = .next (x.2.retired ⟨r, wt.next, wt.last⟩ (x.1.applyWrites r.slot q.mask
            (q.eff g o.g) ⟨[(o.d.toNat, lanesOf ww)], none, none, 0, markOf o.la .s o.a⟩) q)) ∧
        (∀ n, f.recs[f.placeOf r]? = none → n = (if f.closed = true then 2 else 1) →
          u = s.setGrid (gr.setFeed b.dieid { f with sleepers := f.sleepers.filter fun y => y != r }) →
          exec (.wpopWaitExpiry r) s = .next (u.retired ⟨r, wt.next, wt.last⟩ (g.applyWrites r.slot q.mask
            (q.eff g o.g) ⟨[(o.d.toNat, lanesOf (v n))], none, none, 0, markOf o.la .s o.a⟩) q))))) ∧
  (∀ (s s1 s2 u : State) (c : Cur) (g : Group) (p : Path) (b : Block) (gr : Grid) (o : ROps) (e : Word)
    (l : Locator) (h : Handle) (r ring : Region) (rs rsw : List LineRes) (q : BitVec 10) (n : Word)
    (ls : List (Nat × List Byte)) (data : List Byte),
    s.ActsIn c g p b gr → p.replay = none → e = p.eff g o.g → e ≠ 0 → l = locatorOf (scalarB g o.b) →
    q = BitVec.ofNat 10 (g.sreg o.a).toNat →
    (b.slotAt l.slot = none → exec (.enq o) s = fatal s c g p 0x11 e 0) ∧
    (b.slotAt l.slot = some h → h.space = 0 → h.perm.getLsbD 0 = true → s.regionOf b gr h = some r →
      r.inside l.off 64 = true →
      s.Confirms ⟨b.core, b.vd, c.p⟩ p r .read ((lanesIn e).map fun i =>
        (⟨i, r.bytes 0 0 l.off 64⟩ : LaneReq)) rs s1 →
      (1023 < (g.sreg o.a).toNat ∨ s1.qEnabled q = false ∨ s1.qDev q = false ∨ s1.qVd q ≠ b.vd →
        exec (.enq o) s = fatal s1 c g p 0x81 e 0) ∧
      ((g.sreg o.a).toNat ≤ 1023 → s1.qEnabled q = true → s1.qDev q = true → s1.qVd q = b.vd →
        l.off % 64 = 0 → s1.released g .dev = true →
        ((s1.qdoor q - s1.qdone q).toNat = s1.ringSize q →
          exec (.enq o) s = .next (s1.waits c g p .retry 10)) ∧
        ((s1.qdoor q - s1.qdone q).toNat ≠ s1.ringSize q → n = s1.qdoor q + 1 →
          ring = globalRegion (s1.packetVa q n) 64 →
          s1.Confirms ⟨b.core, b.vd, c.p⟩ p ring .write
            ((lanesIn e).map fun i => (⟨i, ring.bytes 0 0 0 64⟩ : LaneReq)) rsw s2 →
          ls = g.linesRead rs → data = ((List.range 64).map fun i =>
            if 4 ≤ i ∧ i < 8 then BitVec.ofNat 8 (n.toNat / 2 ^ (8 * (i - 4)))
            else byteAt ls (r.addr (l.off + i))) →
          u = (s2.storeAt (dieOf b.core) rsw (((List.range 64).map fun i => s1.packetVa q n + i).zip data)).setReg
            (queueKey q 0x20) (n.setWidth 64) →
          exec (.enq o) s = .next (u.retired c ((u.observeLines ⟨b.core, b.vd, c.p⟩ g rs).applyMarks c.p.slot
            p.mask (markOf o.la .s o.a ++ markOf o.lb .s (bField o.b))) p)))))) ∧
  (∀ (s s1 t : State) (c : Cur) (g gm : Group) (p : Path) (b : Block) (gr : Grid) (o : ROps) (e : Word)
    (l : Locator) (h : Handle) (r : Region) (rs : List LineRes) (ls : List AtomLine) (as : List Nat)
    (op : SigOp) (cd : SigCond) (sc : Scope) (acq : Bool) (old val new : DWord) (hit : List PendRel)
    (st : Site) (ms : List Mark),
    s.ActsIn c g p b gr → p.replay = none → e = p.eff g o.g → e ≠ 0 → l = locatorOf (g.sreg o.a) →
    st = ⟨b.core, b.vd, c.p⟩ → val = scalarB g o.b → ms = markOf o.la .s o.a ++ markOf o.lb .s (bField o.b) →
    b.slotAt l.slot = some h → h.space = 0 ∨ h.space = 6 → h.perm.getLsbD 2 = true →
    s.regionOf b gr h = some r → r.inside l.off 8 = true → as = r.bytes 0 0 l.off 8 →
    (r.addr l.off % 8 ≠ 0 → ∀ i, i = Instr.sigop op sc acq o ∨ i = .sigwait cd sc o →
      exec i s = fatal s c g p 0x12 e (offAddr r 0 e fun _ => (l.off : Int))) ∧
    (r.addr l.off % 8 = 0 → s.Confirms st p r .atomic ((lanesIn e).map fun i =>
        (⟨i, as⟩ : LaneReq)) rs s1 →
      ls = atomLines rs → s1.linesQuiet g ls = true → old = BitVec.ofNat 64 (s1.atomRead ls as) →
      hit = g.relsAt ls as →
      (((sc :: hit.map fun y => y.scope).all (s1.released g)) = true →
        new = (match op with
          | .add => old + val
          | .set => val
          | .max => if old.toInt < val.toInt then val else old
          | .min => if val.toInt < old.toInt then val else old) →
        t = s1.atomWrite st ls as new.toNat → gm = { g with rels := g.rels.filter fun y => !hit.contains y } →
        exec (.sigop op sc false o) s = .next (t.retired c (gm.applyWrites c.p.slot p.mask e
          ⟨[], some (o.d, old), none, 0, ms⟩) p) ∧
        exec (.sigop op sc true o) s = .next ((t.acquireFor st gm sc allRegions).2.retired c
          ((t.acquireFor st gm sc allRegions).1.applyWrites c.p.slot p.mask e
            ⟨[], some (o.d, old), none, 0, ms⟩) p)) ∧
      (((match cd with
          | .le => decide (old.toInt ≤ val.toInt)
          | .ge => decide (val.toInt ≤ old.toInt)
          | .eq => decide (old = val)
          | .ne => decide (old ≠ val)) = true) →
        exec (.sigwait cd sc o) s = .next ((s1.acquireFor st g sc allRegions).2.retired c
          ((s1.acquireFor st g sc allRegions).1.applyMarks c.p.slot p.mask ms) p)) ∧
      (((match cd with
          | .le => decide (old.toInt ≤ val.toInt)
          | .ge => decide (val.toInt ≤ old.toInt)
          | .eq => decide (old = val)
          | .ne => decide (old ≠ val)) = false) →
        exec (.sigwait cd sc o) s = .next (s1.waits c g p .retry 10))))

/-! ### Dispatch, sharing, stopping -/

/-- CORE_DISPATCH_CYCLE: no pin being due, the core's cycle counts on, and at most two paths of its eligible
candidates dispatch, the first and then one without a conflict, each one or two instructions; the candidates stand
in the order of R150; instructions that have executed retire, those of slots 0 before those of slots 1, and behind
them those that may trap, in the order of R150. PASSED_OVER_PIN pins the path passed over longest, once that is 8
cycles; AGE_PRIORITY moves a path aged 4,096 to the head (R88, R101, R118, R150 to R152, R155; that a cycle's
retirements follow its dispatches, and the order of equals, are the model's choices, log 28). TOKEN_ARBITRATION: at the start of a cycle every bucket of the arbiter accrues its RATE up to its
DEPTH; one requester is granted: a lender that has its share back first, then one that holds a token, which it
pays; with none, a loan, which costs nothing and marks as lenders those that hold a token and ask for nothing. A
grant of a die-to-die port lets a flit of the oldest message of its virtual device that waits there cross, those being
forwarded first (log 42), one of a fabric port sends its next flit (R388); a message for the diagonal die goes by
the clockwise neighbour (R10, R311 to R313). -/
def Obligations.CoreDispatch : Prop :=
  (∀ (s : State) (core : BitVec 9) (k : Core) (r : PathRef) (g : Group) (p : Path) (b : Block),
    k = s.core core → k.id = core →
    (k.pinDue = true ↔ k.pinned = none ∧ ∃ x ∈ k.picks, 8 ≤ x.passed) ∧
    (k.pinDue = true → exec (.coreDispatchCycle core) s = .next s ∧
      ∃ x ps, x ∈ k.picks ∧ 8 ≤ x.passed ∧ (∀ y ∈ k.picks, y.passed ≤ x.passed) ∧
        exec (.passedOverPin core) s = .next (s.setCore { k with pinned := some x.path, picks := ps }) ∧
        ps.map (fun y => y.path) = k.picks.map fun y => y.path) ∧
    (k.pinDue = false → exec (.passedOverPin core) s = .next s ∧
      ∀ s0 s1 s2 k1 cs picks passed xs,
        k1 = { k with cycle := k.cycle + 1 } → s0 = (s.accrue 0 core.toNat).setCore k1 →
        ((s0.coreGroups core).foldl (fun s x => s.setGroup (x.1.mergesDone k1.cycle)) s0).candidates k1 = (cs, s1) →
        s1.picks core.toNat (cs.find? fun x => k.pinned == some x.r) (cs.filter fun x => x.stall.isNone) =
          (picks, passed, s2) →
        xs = s2.dispatched k1 (picks.map fun x => x.needs) picks →
        ∃ (t : State) (qs ts : List (Group × PathRef × Path)), exec (.coreDispatchCycle core) s = .next t ∧
          t.agenda = ((qs ++ ts).flatMap fun x => slotItems x.1 x.2.1 x.2.2) ++ s.agenda ∧
          (qs ++ ts).Perm (t.corePaths core) ∧
          qs.Pairwise (fun x y => x.2.1.slot = true → y.2.1.slot = true) ∧
          ts.Pairwise (fun x y => rankLt (k1.rankOf y.1 y.2.1.slot y.2.2) (k1.rankOf x.1 x.2.1.slot x.2.2) = false) ∧
          (∀ x ∈ qs, mayTrap x.2.2 = false) ∧ (∀ x ∈ ts, mayTrap x.2.2 = true) ∧
          picks.length ≤ 2 ∧ xs.map (fun x => x.1) = picks.map (fun x => x.r) ∧
          (∀ x ∈ xs, x.2.length = 1 ∨ x.2.length = 2) ∧ (∀ x ∈ picks, x ∈ cs ∧ x.stall = none) ∧
          (k.pinned = none → (∃ x ∈ cs, x.stall = none) → picks ≠ []) ∧
          (∀ x y, picks = [x, y] → x.r ≠ y.r ∧ y.clash x = false) ∧
          (cs.Pairwise fun x y => rankLt y.rank x.rank = false) ∧
          (t.core core).cycle = k.cycle + 1 ∧
          (∀ q, (t.core core).pinned = some q → k.pinned = some q ∧ ∀ x ∈ picks, x.r ≠ q) ∧
          s.KeepsMem t ∧ t.regs = s.regs ∧ t.timebase = s.timebase) ∧
    (s.group? r.grp = some g → g.path r.slot = some p → s.block? g.blk = some b →
      (4096 ≤ p.age → exec (.agePriority r) s = .next (s.setCore
        ((s.core b.core).setPick { (s.core b.core).pick r with last := 0 }))) ∧
      (p.age < 4096 → exec (.agePriority r) s = .next s))) ∧
  ((∀ (s s1 : State) (arb : BitVec 3) (inst : Nat) (reqs : List (BitVec 8)) (v : BitVec 8),
    arb ≠ 0 → s1 = s.accrue arb inst →
    (s1.buckets = s.buckets.map fun x => if x.arb = arb ∧ x.inst = inst then { x with
        b := min (x.b + s.shareRate arb x.vd) (1024 * s.shareDepth arb x.vd) } else x) ∧
    (reqs = [] → exec (.tokenArbitration arb inst reqs) s = .next s1) ∧
    (reqs.find? (fun w => (s1.bucket arb inst w).lent && s1.hasToken arb inst w) = some v →
      (arb ≠ 5 → arb ≠ 6 → exec (.tokenArbitration arb inst reqs) s = .next (s1.charge arb inst v)) ∧
      (arb = 6 → exec (.tokenArbitration arb inst reqs) s =
        .next ((s1.charge arb inst v).sendFlit (BitVec.ofNat 4 inst) v)) ∧
      (arb = 5 → exec (.tokenArbitration arb inst reqs) s = .next ((s1.charge arb inst v).cross inst v))) ∧
    (1024 ≤ (s1.bucket arb inst v).b → ((s1.charge arb inst v).bucket arb inst v).b + 1024 =
        (s1.bucket arb inst v).b ∧ ((s1.charge arb inst v).bucket arb inst v).lent = false) ∧
    (reqs.find? (fun w => (s1.bucket arb inst w).lent && s1.hasToken arb inst w) = none → reqs ≠ [] →
      ∃ w ∈ reqs, ∃ u t, exec (.tokenArbitration arb inst reqs) s = .next t ∧
        t = (if arb = 5 then u.cross inst w else if arb = 6 then u.sendFlit (BitVec.ofNat 4 inst) w else u) ∧ u.reqs = s.reqs ∧ u.resps = s.resps ∧
        u.flight = s.flight ∧ u.ports = s.ports ∧ (t.bucket arb inst w).lent = false ∧
        ((∃ x ∈ reqs, s1.hasToken arb inst x = true) → s1.hasToken arb inst w = true ∧
          (t.bucket arb inst w).b + 1024 = (s1.bucket arb inst w).b) ∧
        ((∀ x ∈ reqs, s1.hasToken arb inst x = false) →
          (t.bucket arb inst w).b = (s1.bucket arb inst w).b ∧
          ∀ d ∈ s.vds, d.vd ∉ reqs → s1.hasToken arb inst d.vd = true →
            (t.bucket arb inst d.vd).lent = true))) ∧
  (∀ (s : State) (a b : BitVec 2) (q : Request), q ∈ s.reqs → q.tr.waitsAt a b = true →
    (q.tr.diag = true ∨ ∀ c ∈ s.crossings a b, c.vd = q.vd → c.diag = false) →
    (∀ c ∈ s.crossings a b, c.vd = q.vd → c.diag = q.tr.diag → q.n ≤ c.n) →
    s.cross (4 * a.toNat + b.toNat) q.vd = s.hopMessage q.n ∧
      { q with tr := if 1 < q.tr.left then { q.tr with left := q.tr.left - 1 }
          else { q.tr with at' := b, way := q.tr.way.drop 1, left := q.tr.size } } ∈ (s.hopMessage q.n).reqs) ∧
  (∀ (a b : BitVec 2) (n : Nat), (Transit.start a b n).at' = a ∧ ((Transit.start a b n).way = [] ↔ a = b) ∧
    (Transit.start a b n).size = n ∧ (Transit.start a b n).left = n ∧
    (b = a + 2 → (Transit.start a b n).way = [a + 1, b] ∧ (Transit.start a b n).diag = true) ∧
    (a ≠ b → b ≠ a + 2 → (Transit.start a b n).way = [b] ∧ (Transit.start a b n).diag = false)))

/-- ADMISSION: the caps being read, a cluster level that may be offered, whose claims lie within the capacity,
whose groups find places and whose blocks pass the Reeve's test one after another, becomes resident as a whole,
every block on its core with its base allocation, and passes over the deferred requests of the types it takes; a
claim beyond the capacity ends the launch; a request that does not pass leaves everything as it was (R201 to
R203, R147, R209). A gang's waiting levels are asked for one after another, each on the first cluster that takes it,
and become resident all together or not at all (R231, R253). When a level may be offered is in part the model's choice
(log 24). BLOCK_DISPATCH meters the energy and makes the die's offers in the order of R335, priority first, a hot grid
behind its equals, until one is taken, passing by those that are withdrawn; with none it changes nothing else.
ENERGY_WINDOW renews every budget when a window begins. SLICE_PREEMPT asks the lowest block below the priority of the
first offer that finds no room and has one below it, resident longest and past DSLICE, to stop, when no block of the
die is stopping and DSLICE is not 0 (R335, R336). That energy is metered then, and that withdrawn offers are passed by,
are the model's choices (log 29). -/
def Obligations.Admission : Prop :=
  (∀ (s s1 : State) (gr g1 : Grid) (dl : BitVec 2) (cl : BitVec 4) (hw : BitVec 6) (cores : List (BitVec 3))
    (bs : List (Block × BitVec 9)),
    s.grid? gr.id = some gr → gr.desc.gang = false → s.refreshCaps gr dl.toNat cl.toNat = (s1, g1) →
    bs = (s1.waitingBlocks g1 dl.toNat cl.toNat).zip (cores.map fun c => hw ++ c) →
    (s1.mayOffer g1 dl.toNat cl.toNat hw = false ∨
        cores.length ≠ (s1.waitingBlocks g1 dl.toNat cl.toNat).length →
      exec (.admission gr.id dl cl hw cores) s = .next s) ∧
    (s1.mayOffer g1 dl.toNat cl.toNat hw = true →
      cores.length = (s1.waitingBlocks g1 dl.toNat cl.toNat).length →
      (s1.claimsFit g1 hw bs = false →
        exec (.admission gr.id dl cl hw cores) s = .next (s.failLaunch gr)) ∧
      (s1.claimsFit g1 hw bs = true →
        (64 < (s1.residents hw).length + bs.length ∨ s1.placesFit bs = false ∨
            s1.testLevel g1 hw ((s1.residents hw).map Block.holding) bs = false →
          exec (.admission gr.id dl cl hw cores) s = .next s) ∧
        ((s1.residents hw).length + bs.length ≤ 64 → s1.placesFit bs = true →
          s1.testLevel g1 hw ((s1.residents hw).map Block.holding) bs = true →
          (s.blocks.map fun b => b.id).Nodup → (∀ x ∈ bs, x.1.vd = gr.vd) →
          ∃ t, exec (.admission gr.id dl cl hw cores) s = .next t ∧
            t.cluster hw = (s1.cluster hw).passedBy (bs.map fun x => baseOf g1 x.1) ∧
            (∀ x ∈ bs, ∃ b', t.block? x.1.id = some b' ∧ b'.phase = .resident ∧ b'.core = x.2 ∧
              b'.stop = none ∧ (x.1.phase = .ready → b'.alloc = gr.desc.base ∧ b'.claim = gr.desc.claim) ∧
              (x.1.phase ≠ .ready → b'.alloc = x.1.alloc ∧ b'.claim = x.1.claim)) ∧
            ∀ b ∈ s.blocks, (∀ x ∈ bs, x.1.id ≠ b.id) → t.block? b.id = some b)))) ∧
  (∀ (s u : State) (gr : Grid) (dl : BitVec 2) (cl : BitVec 4) (hw : BitVec 6) (cores : List (BitVec 3)) (r : Admit)
    (own : Grid → State → Nat → Nat → Option Admit) (l : Nat × Nat) (ls : List (Nat × Nat)) (hs : List (BitVec 6)),
    s.grid? gr.id = some gr →
    (gr.desc.gang = true → r = s.admitGang gr.id (fun g s d c => if d = dl.toNat ∧ c = cl.toNat
        then some (s.admitLevel g dl.toNat cl.toNat hw cores) else none) (s.waitingLevels gr) →
      (r = .withdrawn → exec (.admission gr.id dl cl hw cores) s = .next s) ∧
      (r = .failed → exec (.admission gr.id dl cl hw cores) s = .next (s.failLaunch gr)) ∧
      (r = .ok u → exec (.admission gr.id dl cl hw cores) s = .next u)) ∧
    (s.admitGang gr.id own [] = .ok s) ∧
    (r = (own gr s l.1 l.2).getD
        (s.tryClusters gr l.1 l.2 (s.clustersOn gr.vd (((gr.die? l.1).bind fun d => d.die).getD 0))) →
      (r = .ok u → s.admitGang gr.id own (l :: ls) = u.admitGang gr.id own ls) ∧
      ((∀ v, r ≠ .ok v) → s.admitGang gr.id own (l :: ls) = r)) ∧
    (s.tryClusters gr l.1 l.2 [] = .withdrawn) ∧
    (s.tryCluster gr l.1 l.2 hw = .withdrawn →
      s.tryClusters gr l.1 l.2 (hw :: hs) = s.tryClusters gr l.1 l.2 hs) ∧
    (s.tryCluster gr l.1 l.2 hw ≠ .withdrawn →
      s.tryClusters gr l.1 l.2 (hw :: hs) = s.tryCluster gr l.1 l.2 hw)) ∧
  (∀ (s m u : State) (die : BitVec 2) (x : Offer) (pre t : List Offer) (gr : Grid) (y : Block × Nat),
    m = s.meter →
    ((s.offers die).Pairwise fun a b => rankLt (b.rank ++ [b.rounds]) (a.rank ++ [a.rounds]) = false) ∧
    (s.meter.offers die = [] → exec (.blockDispatch die) s = .next s.meter) ∧
    (m.offers die = pre ++ x :: t → m.grid? x.grid = some gr →
      (∀ z ∈ pre, ∀ g, m.grid? z.grid = some g → m.offerGrid die g z = .withdrawn) →
      (m.offerGrid die gr x = .ok u → exec (.blockDispatch die) s = .next (u.payOffer (pre ++ x :: t) x)) ∧
      (m.offerGrid die gr x = .failed → exec (.blockDispatch die) s = .next (m.failLaunch gr)) ∧
      (m.offerGrid die gr x = .withdrawn → t = [] → exec (.blockDispatch die) s = .next m)) ∧
    (s.timebase.toNat / 1000000 = s.window → exec .energyWindow s = .next s) ∧
    (s.timebase.toNat / 1000000 ≠ s.window → exec .energyWindow s = .next { s with
      window := s.timebase.toNat / 1000000, vds := s.vds.map fun (d : VirtDev) => { d with energy := [] } }) ∧
    (s.offers die = [] → exec (.slicePreempt die) s = .next s) ∧
    ((s.reg (dieKey die 0x18)).toNat % 2 ^ 32 = 0 ∨
        (∃ b ∈ s.blocks, b.phase = .resident ∧ dieOf b.core = die ∧ b.stop.isSome = true) ∨
        (∀ z ∈ s.offers die, ∀ g, s.grid? z.grid = some g →
          s.noRoom die g z = false ∨ s.sliceable die (prioOf g.nodes) = []) →
      exec (.slicePreempt die) s = .next s) ∧
    (s.offers die = pre ++ x :: t → s.grid? x.grid = some gr → s.noRoom die gr x = true →
      (∀ z ∈ pre, ∀ g, s.grid? z.grid = some g →
        s.noRoom die g z = false ∨ s.sliceable die (prioOf g.nodes) = []) →
      (∀ b ∈ s.blocks, b.phase = .resident → dieOf b.core = die → b.stop = none) →
      (s.reg (dieKey die 0x18)).toNat % 2 ^ 32 ≠ 0 → y ∈ s.sliceable die (prioOf gr.nodes) →
      (∀ z ∈ s.sliceable die (prioOf gr.nodes),
        z = y ∨ y.2 < z.2 ∨ (y.2 = z.2 ∧ y.1.since < z.1.since)) →
      exec (.slicePreempt die) s = .next (s.requestStop y.1)) ∧
    (∀ z ∈ s.sliceable die (prioOf gr.nodes), z.1 ∈ s.blocks ∧ z.1.phase = .resident ∧
      dieOf z.1.core = die ∧ z.1.stop = none ∧ z.2 < prioOf gr.nodes ∧
      z.1.since + 1024 * ((s.reg (dieKey die 0x18)).toNat % 2 ^ 32) ≤ s.timebase.toNat))

/-- STOP_REQUEST asks a resident block's whole cluster level to stop, a gang's every level; VDSTOP a virtual
device's blocks; VDSTOP.HOLD keeps new ones out. PPT_WINDOW_EXPIRY stops a reconverged group 20,000 ticks after
the request, FORCED_SAVE any after 100,000; a stopped group keeps its registers and its paths' places (R100,
R231, R315, R378). BLOCK_SAVE_COMPLETE: a block asked to stop, all of whose groups have stopped or ended with
every store in the buffer and none before its home (log 31), and whose copies and matrix work are done, is saved
and joins its grid's resume list; no other is. BLOCK_COMPLETE: a block all of whose groups have ended with every
store acknowledged, whose work is done and which no debugger holds, is complete and gives everything back; no
other is (R113, R211, R230, R247, R315 to R317, R352, R393). -/
def Obligations.StopRequests : Prop :=
  (∀ (s : State) (b : Block) (gr : Grid) (g : Group) (vd : BitVec 8) (t : Nat),
    s.block? b.id = some b → s.grid? b.grid = some gr →
    (b.phase ≠ .resident → exec (.stopRequest b.id) s = .next s) ∧
    (b.phase = .resident → exec (.stopRequest b.id) s = .next { s with blocks := s.blocks.map fun x =>
      if x.phase = .resident ∧ x.stop = none ∧ x.grid = b.grid ∧
          (gr.desc.gang = true ∨ (x.dieid = b.dieid ∧ x.cid = b.cid))
      then { x with stop := some s.timebase.toNat } else x }) ∧
    (s.recovery = false →
      exec (.vdstopGo vd) s = .next (State.wake { s with blocks := s.blocks.map fun x =>
        if x.phase = .resident ∧ x.stop = none ∧ x.vd = vd then { x with stop := some s.timebase.toNat }
        else x }) ∧
      ∃ u, exec (.vdstopHold vd true) s = .next u ∧ u.blocks = s.blocks ∧
        ∀ gr dl cl hw, gr.vd = vd → u.mayOffer gr dl cl hw = false) ∧
    (s.recovery = true → exec (.vdstopGo vd) s = .next s ∧ ∀ on, exec (.vdstopHold vd on) s = .next s) ∧
    (s.group? g.id = some g → g.blk = b.id → b.stop = some t →
      ((g.phase ≠ .running ∨ g.reconverged = false ∨ s.stackBusy b g.idx = true ∨
          (gr.desc.nlive ≠ 0 ∧ s.timebase.toNat < t + 20000 ∧ b.dbg = false)) →
        exec (.pptWindowExpiry g.id) s = .next s) ∧
      (g.phase ≠ .running ∨ s.stackBusy b g.idx = true ∨ (s.timebase.toNat < t + 100000 ∧ b.dbg = false) →
        exec (.forcedSave g.id) s = .next s) ∧
      (g.phase = .running → s.stackBusy b g.idx = false →
        (g.reconverged = true → (gr.desc.nlive = 0 ∨ t + 20000 ≤ s.timebase.toNat ∨ b.dbg = true) →
          exec (.pptWindowExpiry g.id) s = .next (s.stopGroup b g none)) ∧
        (t + 100000 ≤ s.timebase.toNat ∨ b.dbg = true →
          exec (.forcedSave g.id) s = .next (s.stopGroup b g none)))) ∧
    (s.group? g.id = some g → ∀ note, ∃ g', (s.stopGroup b g note).group? g.id = some g' ∧
      g'.phase = .stopped ∧ g'.note = note ∧ g'.sregs = g.sregs ∧ g'.preds = g.preds ∧ g'.m0 = g.m0 ∧
      g'.m1 = g.m1 ∧ g'.phys = g.phys ∧ g'.replay = g.replay ∧ g'.sb = g.sb ∧
      g'.paths.map (fun p => (p.pc, p.hdr, p.mask)) = g.paths.map (fun p => (p.pc, p.hdr, p.mask)) ∧
      (g.stack = [] → (s.stopGroup b g note).mem = s.mem))) ∧
  (∀ (s : State) (b : Block) (gr : Grid) (gs : List Group), s.block? b.id = some b → s.grid? b.grid = some gr →
    gs = s.groups.filter (fun g => g.blk == b.id) →
    (b.stop = none ∨ b.phase ≠ .resident ∨ s.workDone b = false ∨ s.stillFlying gs = true ∨
        s.slotBusy b = true ∨ (∃ g ∈ gs, (g.phase ≠ .stopped ∧ g.phase ≠ .ended) ∨ g.sbRest ≠ []) →
      exec (.blockSaveComplete b.id) s = .next s) ∧
    (b.stop ≠ none → b.phase = .resident → s.workDone b = true → s.stillFlying gs = false →
      s.slotBusy b = false → (∀ g ∈ gs, (g.phase = .stopped ∨ g.phase = .ended) ∧ g.sbRest = []) →
      (∃ g ∈ gs, g.phase = .stopped) → ∃ t b' gr',
        exec (.blockSaveComplete b.id) s = .next t ∧ t.block? b.id = some b' ∧ b'.phase = .saved ∧
        b'.stop = none ∧ b'.alloc = b.alloc ∧ b'.claim = b.claim ∧ b'.tile = b.tile ∧
        t.grid? b.grid = some gr' ∧ gr'.resume = gr.resume ++ [b.id] ∧
        ∀ g ∈ t.groups, g.blk = b.id → g.phase = .saved ∨ g.phase = .ended) ∧
    (s.blockDone b = true ↔ b.phase = .resident ∧ b.dbg = false ∧ b.dbgReq = false ∧ b.stepReq = none ∧
      s.workDone b = true ∧ ∀ g ∈ gs, g.phase = .ended ∧ g.sb = [] ∧ g.sbRest = [] ∧ g.cnt = ⟨0, 0, 0, 0⟩) ∧
    (s.blockDone b = false ∨ (s.tracingBlocks b.vd = true ∧ s.traceBusy b.vd = true) →
      exec (.blockComplete b.id) s = .next s) ∧
    (s.blockDone b = true → s.tracingBlocks b.vd = false ∨ s.traceBusy b.vd = false →
      ∃ t b', exec (.blockComplete b.id) s = .next t ∧ t.block? b.id = some b' ∧
      b'.phase = .complete ∧ b'.alloc = ⟨0, 0, 0, 0⟩ ∧ b'.win = [] ∧ b'.chans = [] ∧ b'.slot = none ∧
      (∀ n, b.slot = some n → n ∉ (t.vdev b.vd).slots) ∧ t.groups = s.groups ∧
      ∀ r ∈ (t.cluster (clusterOf b.core)).deferred, r.id ∈ (t.cluster (clusterOf b.core)).retest))

/-- VDHALT_RAISE raises a domain's halt line; HALT_RAISE stops a raised domain's running groups and its channels
and abandons its matrix work, and, once its stores are acknowledged, halts it: its grids are gone and its line is
down. VDHALT_CLEAR ends a halt, but not under a clock fault. PACKAGE_CLOCK_FAULT stops the timebase and halts
every domain; CXL_MEM_ERROR the domain of the virtual device's root; clearing VF Enable, or a function-level
reset, ends the virtual function's grids (R247, R265, R266, R320 to R322, R372, R378, R382). The halt in two steps,
its wait for the stores, and the end of a virtual function's work are the model's choices (log 32), and so is the
root's domain for a CXL error (log 25). -/
def Obligations.Halts : Prop :=
  ∀ (s : State) (vd : BitVec 8) (f : BitVec 16) (h : HaltPend) (die : BitVec 2) (va : Va) (r : Root)
    (x : HomeLine),
    (s.recovery = false → ∃ t, exec (.vdhaltRaise vd f) s = .next t ∧ t.domainHalted vd f = true) ∧
    ((s.vdev vd).raised.find? (fun y => y.fdom == f) = none → exec (.haltRaise vd f) s = .next s) ∧
    ((s.vdev vd).raised.find? (fun y => y.fdom == f) = some h →
      (h.stopped = false → ∃ t, exec (.haltRaise vd f) s = .next t ∧ ((∀ k ∈ s.cores, k.array = []) → t.mem = s.mem) ∧
        (∀ g ∈ t.groups, ∀ b gr, s.block? g.blk = some b → s.grid? b.grid = some gr → gr.vd = vd →
          gr.fdom = f → b.phase = .resident → g.phase ≠ .running ∧ g.phase ≠ .stopped) ∧
        (∀ b ∈ t.blocks, ∀ gr, s.grid? b.grid = some gr → gr.vd = vd → gr.fdom = f → b.phase = .resident →
          (∀ c ∈ b.chans, c.frozen = true) ∧ b.stop = none ∧ ∀ k ∈ t.cores, ∀ y ∈ k.array, y.blk ≠ b.id) ∧
        ∀ y ∈ (t.vdev vd).raised, y.fdom = f → y.stopped = true) ∧
      (h.stopped = true →
        (s.haltQuiet (s.groups.filter fun g => (s.blocksOf (s.domainGrids vd f)).any fun b =>
            b.phase == .resident && b.id == g.blk) = false ∨ s.recordsBusy vd f = true → exec (.haltRaise vd f) s = .next s) ∧
        (s.haltQuiet (s.groups.filter fun g => (s.blocksOf (s.domainGrids vd f)).any fun b =>
            b.phase == .resident && b.id == g.blk) = true → s.recordsBusy vd f = false → ∃ t, exec (.haltRaise vd f) s = .next t ∧
          f ∈ (t.vdev vd).halted ∧ (∀ y ∈ (t.vdev vd).raised, y.fdom ≠ f) ∧
          ∀ gr ∈ t.grids, gr.vd = vd → gr.fdom ≠ f))) ∧
    (s.recovery = false → ∃ t, exec (.vdhaltClear vd f) s = .next t ∧
      (s.clkFault = true → (t.vdev vd).halted = (s.vdev vd).halted) ∧
      (s.clkFault = false → (t.vdev vd).halted = (s.vdev vd).halted.filter fun y => y != f)) ∧
    (s.clkFault = true → exec .packageClockFault s = .next s ∧ ∀ n, s.tick n = s) ∧
    (s.clkFault = false → RegBank.wf s.regs = true → ∃ t, exec .packageClockFault s = .next t ∧ t.clkFault = true ∧
      t.reg (dieKey 0 0x48) = 1 ∧ t.timebase = s.timebase ∧ (∀ v y, t.domainHalted v y = true) ∧
      ∀ d ∈ s.vds, ∀ y ∈ s.allDomains d.vd, y ∉ (s.vdev d.vd).halted →
        ∃ z ∈ (t.vdev d.vd).raised, z.fdom = y ∧ z.clock = true) ∧
    (s.homeLine? die vd (lineOf va) = some x → (s.vdev vd).root = some r →
      (cxlBase ≤ x.leaf.pfn.toNat * 2 ^ 16 → ∃ t, exec (.cxlMemError die vd va) s = .next t ∧
        t.homeLine? die vd (lineOf va) = none ∧ t.domainHalted vd r.node.fdom = true ∧ t.mem = s.mem) ∧
      (x.leaf.pfn.toNat * 2 ^ 16 < cxlBase → exec (.cxlMemError die vd va) s = .next s)) ∧
    (∃ t, exec .vfEnableClear s = .next t ∧ t.vfEnable = false ∧
      ∀ d ∈ s.vds, d.vd ≠ 0 → ∀ gr ∈ t.grids, gr.vd ≠ d.vd) ∧
    (vd = 0 ∨ s.hasWork vd = false → exec (.functionLevelReset vd) s = .next s.wake) ∧
    (vd ≠ 0 → s.hasWork vd = true → ∃ t, exec (.functionLevelReset vd) s = .next t ∧
      (∀ gr ∈ t.grids, gr.vd ≠ vd) ∧ t.timebase = s.timebase)

/-! ### Queues, partitions, the debugger -/

/-- PACKET_CONSUME, and for a packet that the thread holds LAUNCH_START_DEFERRED, FEED_START_DEFERRED,
WAIT_EVALUATION and WAIT_DEADLINE_EXPIRY, act on the next packet: under a root that breaks R310 all but a NOP
abort with code 2; one that breaks its table aborts with code 1; a NOP starts; a LAUNCH starts when its
descriptor, nodes, placement and claim pass and its feed queues are free, else codes 2 and 3, and waits while
PGINV holds what its checks read; a FEED starts, and its records enter, when its queue has room: it waits for
room, and fails with code 5 for a die level out of range, no feed queue or a closed one; a COPY enters the lane;
a SIGNAL starts; a WAIT starts when its conditions hold, aborts on a negative signal, and with code 4 past its
deadline, which counts from when it became next. PACKET_CONSUME performs first the oldest atomic that a started
SIGNAL or FEED has still to make; an overrun aborts the queue with code 8, a packet held or not, and an aborted
queue's packets pass without effect. MILL_PREFETCH changes nothing (R309, R325 to R329, R332, R333).
LAUNCH_COMPLETE, once every block of a grid is complete, takes 1 from its completion signal and ends the grid;
not before, nor while its thread is paused. COPY_PACKET_COMPLETE moves the lane's oldest copy and, once every
write it sent is acknowledged, takes 1 from its signal and ends it; not while it is paused; a page refused, or an
acknowledgment lost, is a copy fault, code 6. A signal that is refused fails the packet with code 9. A launch that
starts has its grid, and one ready block for every block of every cluster level of every die level (R327, R329,
R331, R333). The model's own choices here: a COPY packet moves whole in one step, the thread holds the bytes of a
packet that waits, and a WAIT's deadline counts the thread's pauses (log 33), a packet that cannot be read under
a bad root (log 29), the energy a packet is charged (log 4). -/
def Obligations.Packets : Prop :=
  (∀ (s s1 s2 s3 s4 : State) (q : BitVec 10) (n : Word) (r : Root) (bs db wb ab rb : List Byte) (ev : Instr)
    (ty : Nat) (d : Desc) (ns : List Node) (l : Launch) (gr : Grid) (f : FeedQueue) (vs : List DWord)
    (sig : DWord),
    ty = fieldOf bs 0 1 → sig = BitVec.ofNat 64 (fieldOf bs 8 8) →
    ((ev = .packetConsume q ∧ (s.thread q).sigs = [] ∧ s.PacketAt q n r bs s1) ∨
      (s.PacketHeld q n r bs ∧ s1 = s ∧
        ((ev = .launchStartDeferred q ∧ ty = 1) ∨ (ev = .feedStartDeferred q ∧ ty = 2) ∨
         (ev = .waitEvaluation q ∧ ty = 4) ∨ (ev = .waitDeadlineExpiry q ∧ ty = 4)))) →
    (exec (.millPrefetch q) s = .next s) ∧
    (r.good = false → ty ≠ 0 → exec ev s = .next (s1.abortQueue q 2)) ∧
    (r.good = true ∨ ty = 0 → packetGood bs n = false → exec ev s = .next (s1.abortQueue q 1)) ∧
    (packetGood bs n = true →
      (ty = 0 → exec ev s = .next (s1.startPacket q n)) ∧
      (r.good = true →
        (ty = 1 → s1.Reads q (fieldOf bs 0x10 8) 128 db s2 →
          (descGood db = false ∨ fieldOf bs 0x10 8 % 64 ≠ 0 → exec ev s = .next (s2.abortQueue q 2)) ∧
          (descGood db = true → fieldOf bs 0x10 8 % 64 = 0 → d = descOf db → s2.Reads q d.wmap.toNat 512 wb s3 →
            s3.Reads q (fieldOf bs 0x18 8) (min (8 * d.args) 496) ab s4 →
            (s4.launchBusy q r (fieldOf bs 0x20 8) (wmapOf wb) = true → exec ev s = .next s4) ∧
            (s4.launchBusy q r (fieldOf bs 0x20 8) (wmapOf wb) = false →
            (s4.launchNodes q r (BitVec.ofNat 64 (fieldOf bs 0x20 8)) = none →
              exec ev s = .next (s4.abortQueue q 2)) ∧
            (s4.launchNodes q r (BitVec.ofNat 64 (fieldOf bs 0x20 8)) = some ns →
              l = ⟨d, wmapOf wb, (List.range (ab.length / 8)).map fun i => BitVec.ofNat 64 (fieldOf ab (8 * i) 8),
                ns, (maskDies r.mask).take (fieldOf bs 0x28 1), fieldOf bs 0x29 1⟩ →
              (s4.placementFits (s1.qVd q) r d (fieldOf bs 0x28 1) (fieldOf bs 0x29 1) = false ∨
                  s4.privateFits (s1.qVd q) r d l.wmap = false → exec ev s = .next (s4.abortQueue q 2)) ∧
              (s4.placementFits (s1.qVd q) r d (fieldOf bs 0x28 1) (fieldOf bs 0x29 1) = true →
                s4.privateFits (s1.qVd q) r d l.wmap = true →
                (claimFits d (capsOf ns) = false → exec ev s = .next (s4.abortQueue q 3)) ∧
                (claimFits d (capsOf ns) = true → s4.feedsFree l = false →
                  exec ev s = .next (s4.holdPacket q bs false)) ∧
                (claimFits d (capsOf ns) = true → s4.feedsFree l = true →
                  exec ev s = .next (s4.startLaunch q n ((bs.getD 1 0).getLsbD 0) sig l))))))) ∧
        (ty = 2 → (s1.launched q (fieldOf bs 0x10 4) = none → exec ev s = .next (s1.abortQueue q 5)) ∧
          (s1.launched q (fieldOf bs 0x10 4) = some gr →
            (((gr.die? (fieldOf bs 0x14 1)).bind fun d => d.feed) = none →
              exec ev s = .next (s1.abortQueue q 5)) ∧
            (((gr.die? (fieldOf bs 0x14 1)).bind fun d => d.feed) = some f →
            (f.closed = true → exec ev s = .next (s1.abortQueue q 5)) ∧
            (f.closed = false → 4096 < f.recs.length + fieldOf bs 0x15 1 →
              exec ev s = .next (s1.holdPacket q bs true)) ∧
            (f.closed = false → f.recs.length + fieldOf bs 0x15 1 ≤ 4096 →
              s1.Reads q (fieldOf bs 0x18 8) (4 * feedWords gr.desc.feedsz * fieldOf bs 0x15 1) rb s2 →
              s3 = (s2.setGrid (gr.setFeed (fieldOf bs 0x14 1) { f with
                recs := f.recs ++ (List.range (fieldOf bs 0x15 1)).map fun i =>
                  (List.range (feedWords gr.desc.feedsz)).map fun j =>
                    BitVec.ofNat 32 (fieldOf rb (4 * (feedWords gr.desc.feedsz * i + j)) 4),
                closed := fieldOf bs 0x16 1 == 1 })).startPacket q n →
              (sig = 0 → exec ev s = .next s3) ∧
              (sig ≠ 0 → exec ev s = .next (s3.keepSignal q ⟨n, sig, -1, true⟩)))))) ∧
        (ty = 3 → ∃ t, exec ev s = .next t ∧ (t.thread q).lane = (s1.thread q).lane ++
            [⟨n, BitVec.ofNat 56 (s1.packetVa q n), BitVec.ofNat 56 (fieldOf bs 0x10 8),
              BitVec.ofNat 56 (fieldOf bs 0x18 8), fieldOf bs 0x20 4, copyOpOf (fieldOf bs 0x24 1), none⟩] ∧
          (t.thread q).running = (s1.thread q).running ++ [⟨n, (bs.getD 1 0).getLsbD 0, sig, none⟩]) ∧
        (ty = 4 → State.SignalsRead q bs 0 vs s1 s2 → vs.length = fieldOf bs 3 1 →
          (∀ v, vs.find? (fun v => v.slt 0) = some v → exec ev s = .next (s2.abortQueue q (negCode v))) ∧
          ((∀ v ∈ vs, v.slt 0 = false) →
            ((∀ i v, vs[i]? = some v → waitHolds bs i v = true) → exec ev s = .next (s2.startPacket q n)) ∧
            ((∃ i v, vs[i]? = some v ∧ waitHolds bs i v = false) → ∃ since,
              since = ((s.thread q).nextAt.getD s.timebase.toNat) ∧
              (fieldOf bs 8 8 = 0 ∨ s.timebase.toNat < since + fieldOf bs 8 8 →
                exec ev s = .next (s2.holdPacket q bs true)) ∧
              (fieldOf bs 8 8 ≠ 0 → since + fieldOf bs 8 8 ≤ s.timebase.toNat → s.clkFault = false →
                exec ev s = .next ((s2.holdPacket q bs true).abortQueue q 4))))) ∧
        (ty = 5 → exec ev s = .next (((s1.startPacket q n).keepRunning q
          ⟨n, (bs.getD 1 0).getLsbD 0, 0, none⟩).keepSignal q
            ⟨n, sig, BitVec.ofNat 64 (fieldOf bs 0x10 8), fieldOf bs 0x18 1 == 0⟩))))) ∧
  (∀ (s u v : State) (q : BitVec 10) (x : SignalOp) (l : List SignalOp),
    ((s.thread q).sigs = x :: l → (s.thread q).pause = none → s.power = .active → s.threadRuns q = true →
      ((s.Signals q x.va.toNat (fun old => if x.add = true then old + x.v else x.v) v ∧
          u = (v.dropSignal q x.seq).dropRunning q x.seq) ∨
        (∃ c a, s.reachKeep (s.threadSite q) (.thread q) (globalRegion x.va.toNat 8) .atomic
          (vaRange x.va.toNat 8) = (.cause c a, v) ∧ c ≠ 0x20 ∧ u = v.failDone q x.seq)) →
      (l = [] → exec (.packetConsume q) s = exec (.packetConsume q) u) ∧
      ((u.thread q).ending = [] → u.mayRead q = false → exec (.packetConsume q) s = .next u)) ∧
    ((s.thread q).sigs = [] → (s.thread q).ending = [] → s.mayRead q = true → s.power = .active →
      ((s.thread q).overrun = true → exec (.packetConsume q) s = .next (s.abortQueue q 8)) ∧
      ((s.thread q).overrun = false → s.aborted q = true →
        exec (.packetConsume q) s = .next (s.setDone q (s.qdoor q))))) ∧
  ((∀ (s s1 : State) (gr : Grid) (sig : DWord), s.grid? gr.id = some gr →
    (gr.halted = true ∨ (s.thread gr.queue).pause ≠ none ∨
        (∃ b ∈ s.blocks, b.grid = gr.id ∧ b.phase ≠ .complete) →
      exec (.launchComplete gr.id) s = .next s) ∧
    (gr.halted = false → (s.thread gr.queue).pause = none →
      (∀ b ∈ s.blocks, b.grid = gr.id → b.phase = .complete) →
      (∃ x, (s.thread gr.queue).running.find? (fun x => x.seq == gr.seq) = some x ∧ x.sig = sig) →
      (s.SignalDone gr.queue sig s1 →
        exec (.launchComplete gr.id) s = .next ((s1.dropGrid gr).dropRunning gr.queue gr.seq)) ∧
      (∀ c a, sig ≠ 0 → s.reachKeep (s.threadSite gr.queue) (.thread gr.queue) (globalRegion sig.toNat 8) .atomic
          (vaRange sig.toNat 8) = (.cause c a, s1) → c ≠ 0x20 →
        exec (.launchComplete gr.id) s = .next (s1.failDone gr.queue gr.seq))) ∧
    ((∀ g ∈ (s.dropGrid gr).grids, g.id ≠ gr.id) ∧ ∀ b ∈ (s.dropGrid gr).blocks, b.grid ≠ gr.id)) ∧
  (∀ (s s1 s2 s3 s4 : State) (q : BitVec 10) (x : LaneCopy) (rest : List LaneCopy) (y : Started)
    (rs rd : List LineRes) (c : BitVec 8) (a : Nat), (s.thread q).lane = x :: rest →
    (x.paused ≠ none ∨ (s.thread q).pause ≠ none → exec (.copyPacketComplete q) s = .next s) ∧
    (x.paused = none → (s.thread q).pause = none →
      (x.len ≠ 0 → c ≠ 0x20 →
        (s.reachKeep (s.threadSite q) (.lane q) (globalRegion x.src.toNat x.len) .read
            (vaRange x.src.toNat x.len) = (.cause c a, s1) →
          exec (.copyPacketComplete q) s = .next (s1.laneFault q x.seq)) ∧
        (s.reachKeep (s.threadSite q) (.lane q) (globalRegion x.src.toNat x.len) .read
            (vaRange x.src.toNat x.len) = (.ok rs, s1) →
          s1.reachKeep (s1.threadSite q) (.lane q) (globalRegion x.dst.toNat x.len) (copyAccess x.op)
            (vaRange x.dst.toNat x.len) = (.cause c a, s2) →
          exec (.copyPacketComplete q) s = .next (s2.laneFault q x.seq))) ∧
      (((x.len = 0 ∧ s3 = s) ∨ (x.len ≠ 0 ∧
          s.reachKeep (s.threadSite q) (.lane q) (globalRegion x.src.toNat x.len) .read
            (vaRange x.src.toNat x.len) = (.ok rs, s1) ∧
          s1.reachKeep (s1.threadSite q) (.lane q) (globalRegion x.dst.toNat x.len) (copyAccess x.op)
            (vaRange x.dst.toNat x.len) = (.ok rd, s2) ∧
          s3 = (s2.copyPiece (s2.threadSite q) (.lane q) x.op rd (vaRange x.dst.toNat x.len)
            (reachedBytes rs (vaRange x.src.toNat x.len))).laneMoved q x.seq)) →
        (s3.lost (.lane q) = true → exec (.copyPacketComplete q) s = .next (s3.laneFault q x.seq)) ∧
        (s3.lost (.lane q) = false → s3.sending (.lane q) = true → exec (.copyPacketComplete q) s = .next s3) ∧
        (s3.lost (.lane q) = false → s3.sending (.lane q) = false →
          (s3.thread q).running.find? (fun y => y.seq == x.seq) = some y →
          (s3.SignalDone q y.sig s4 →
            exec (.copyPacketComplete q) s = .next ((s4.laneDone q x.seq).dropRunning q x.seq)) ∧
          (y.sig ≠ 0 → s3.reachKeep (s3.threadSite q) (.thread q) (globalRegion y.sig.toNat 8) .atomic
              (vaRange y.sig.toNat 8) = (.cause c a, s4) → c ≠ 0x20 →
            exec (.copyPacketComplete q) s = .next (s4.failDone q x.seq)))))) ∧
  (∀ (s : State) (q : BitVec 10) (n : Word), RegBank.wf s.regs = true → s.aborted q = false →
    (s.laneFault q n).aborted q = true ∧
    ((s.laneFault q n).reg (queueKey q 0x28)).extractLsb' 32 32 = (6 : BitVec 32)) ∧
  (∀ (s t : State) (q : BitVec 10) (n : Word) (bar : Bool) (sig : DWord) (l : Launch),
    t = s.startLaunch q n bar sig l → ∃ gr bs, t.grids = s.grids ++ [gr] ∧ t.blocks = s.blocks ++ bs ∧
      gr.id = s.nextId ∧ gr.queue = q ∧ gr.seq = n ∧ gr.desc = l.desc ∧ gr.args = l.args ∧ gr.nodes = l.nodes ∧
      gr.levels.length = l.dies.length ∧ bs.length = l.dies.length * l.clus * l.desc.blocks ∧
      (bs.map fun b => b.id).Nodup ∧ (∀ b ∈ bs, b.grid = gr.id ∧ b.phase = .ready ∧ b.vd = s.qVd q ∧
        b.claim = l.desc.claim ∧ b.bid < l.desc.blocks ∧ b.cid < l.clus ∧ b.dieid < l.dies.length) ∧
      (⟨n, bar, sig, some gr.id⟩ : Started) ∈ (t.thread q).running))

/-- The host's writes to a queue, each of which completes in every state: QCFG, a SIZE of 13 or more ignored, EN
from 0 to 1 setting QDONE to the doorbell and clearing the abort; QDOOR, ignored on a DEV queue, an overrun
noted, and one that takes the next packet back unblocking the thread; QABORT with a code from 0x100 to
0x7FFFFFFF, whether the queue is enabled or not. EVACK lets the records that wait be written in order while the ring has room. In recovery each is
ignored; else each wakes an idle package. An abort leaves ABT and the code, once; then PACKET_CONSUME stores -c
to QSIG, and at the next step sends the event record (R324, R325, R330, R341, R362, R370). FAULT_RESPONSE and
PRI_RESPONSE answer a record by its tag, and ignore an unknown one; each completes wherever the group the record
belongs to stands in a block of a grid. A page made present lets its parked instruction, its fetch, its copy or
its thread go on; a refusal is fatal with cause 0x20 and the record's lanes and address, a copy fault, or an
abort with code 6 or 9 (R105, R176, R225, R277, R327, R330). The answer to a page request and the answer to a
record are told apart, and a parked instruction's is found by its pc and its slot. The model's own choices here:
the abort's two last steps, the store and the record, and a store admitted nowhere left out (log 33). -/
def Obligations.QueueRegisters : Prop :=
  (∀ (s s1 : State) (q : BitVec 10) (v : DWord) (vd : BitVec 8) (c : Nat) (e : EventRec) (es : List EventRec),
    (s.recovery = true → exec (.qcfgWrite q v) s = .next s ∧ exec (.qdoorWrite q v) s = .next s ∧
      exec (.qabort q v) s = .next s ∧ exec (.evackWrite vd v) s = .next s) ∧
    (s.recovery = false →
      (13 ≤ (v.extractLsb' 8 4).toNat → exec (.qcfgWrite q v) s = .next s.wake) ∧
      ((v.extractLsb' 8 4).toNat < 13 → s1 = s.setReg (queueKey q 0) (v &&& 0xC000000000000FFF) →
        ((v.getLsbD 63 = false ∨ s.qEnabled q = true) → exec (.qcfgWrite q v) s = .next s1.wake) ∧
        (v.getLsbD 63 = true → s.qEnabled q = false → ∃ t, exec (.qcfgWrite q v) s = .next t ∧
          (RegBank.wf s.regs = true → t.qdone q = s.qdoor q ∧ t.aborted q = false ∧ t.qEnabled q = true ∧
            t.qdoor q = s.qdoor q ∧ (t.thread q).overrun = false ∧ (t.thread q).nextAt = none ∧
            (t.thread q).held = none))) ∧
      (s.qDev q = true → exec (.qdoorWrite q v) s = .next s.wake) ∧
      (s.qDev q = false → RegBank.wf s.regs = true →
        s1 = s.setReg (queueKey q 0x20) ((v.setWidth 32).setWidth 64) →
        (s.qEnabled q = true → s.ringSize q < ((v.setWidth 32 : Word) - s.qdone q).toNat →
          exec (.qdoorWrite q v) s = .next (s1.setThread { s.thread q with overrun := true }).wake) ∧
        (s.qEnabled q = false ∨ ((v.setWidth 32 : Word) - s.qdone q).toNat ≤ s.ringSize q →
          ((v.setWidth 32 : Word) ≠ s.qdone q → exec (.qdoorWrite q v) s = .next s1.wake) ∧
          ((v.setWidth 32 : Word) = s.qdone q → exec (.qdoorWrite q v) s = .next (s1.unhold q).wake))) ∧
      (∃ t, exec (.qdoorWrite q v) s = .next t) ∧
      (c = (v.setWidth 32 : Word).toNat →
        (0x100 ≤ c → c ≤ 0x7FFFFFFF → exec (.qabort q v) s = .next (s.abortQueue q c).wake) ∧
        (c < 0x100 ∨ 0x7FFFFFFF < c → exec (.qabort q v) s = .next s.wake)) ∧
      (s1 = s.setReg (vdKey vd 0x218) ((v.setWidth 32).setWidth 64) →
        exec (.evackWrite vd v) s = .next (s1.drainEvents vd ((s.vdev vd).evbuf.length +
          (s.vdev vd).evresv.length + (s.vdev vd).evwait.length)).wake ∧
        ((s.vdev vd).evbuf = [] → (s.vdev vd).evresv = [] → (s.vdev vd).evwait = [] →
          exec (.evackWrite vd v) s = .next s1.wake) ∧
        ((s.vdev vd).evbuf = e :: es →
          (s1.evRoom vd e.dseq = false → exec (.evackWrite vd v) s = .next s1.wake) ∧
          ((s.vdev vd).evresv = [] → (s.vdev vd).evwait = [] → es = [] → s1.evRoom vd e.dseq = true →
            exec (.evackWrite vd v) s = .next
              ((s1.setVdev { s.vdev vd with evbuf := [] }).putEvent vd e).wake)))) ∧
    (RegBank.wf s.regs = true → 0 < c → c < 2 ^ 31 → s.aborted q = false → (s.abortQueue q c).aborted q = true ∧
      ((s.abortQueue q c).reg (queueKey q 0x28)).extractLsb' 32 32 = BitVec.ofNat 32 c ∧
      (s.abortQueue q c).qdone q = s.qdone q ∧
      ((s.abortQueue q c).thread q).ending = (s.thread q).ending ++ [⟨BitVec.ofNat 32 c, false⟩] ∧
      ∀ c', (s.abortQueue q c).abortQueue q c' = s.abortQueue q c) ∧
    (∀ (w : Word) (l : List Abort) (rs : List LineRes) (sig : Nat), (s.thread q).pause = none →
      (s.thread q).sigs = [] →
      sig = (s.reg (queueKey q 0x18)).toNat →
      ((s.thread q).ending = ⟨w, true⟩ :: l → exec (.packetConsume q) s =
        .next ((s.setThread { s.thread q with ending := l }).event (s.qVd q) 2 (q.setWidth 16) w [])) ∧
      ((s.thread q).ending = ⟨w, false⟩ :: l →
        (sig = 0 → exec (.packetConsume q) s = .next (s.qsigDone q)) ∧
        (sig ≠ 0 → s.reachKeep (s.threadSite q) (.thread q) (globalRegion sig 8) .write (vaRange sig 8) =
            (.ok rs, s1) →
          exec (.packetConsume q) s = .next ((s1.storeAt (s.threadSite q).die rs ((vaRange sig 8).zip
            (bytesOfNat 8 (2 ^ 64 - w.toNat)))).qsigDone q)) ∧
        ((s.qsigDone q).thread q).ending = ⟨w, true⟩ :: l))) ∧
  (∀ (s s1 : State) (vd : BitVec 8) (v : DWord) (tag : Word) (f : FaultRec) (x : PriReq) (ok : Bool)
    (o : FaultOwner) (a : Va) (g : Group) (b : Block) (gr : Grid) (p : Path) (n : Nat) (host : Bool),
    (s.recovery = false → tag = v.setWidth 32 →
      ((s.vdev vd).faults.find? (fun y => y.tag == tag) = none → exec (.faultResponse vd v) s = .next s.wake) ∧
      ((s.vdev vd).faults.find? (fun y => y.tag == tag) = some f → s.OwnerStands f.owner →
        ∃ t, (s.setVdev { s.vdev vd with faults := (s.vdev vd).faults.filter fun y => y.tag != tag }).answerOwner
            f.owner tag f.va false (!v.getLsbD 32) = .next t ∧ exec (.faultResponse vd v) s = .next t.wake)) ∧
    (s.recovery = true → exec (.faultResponse vd v) s = .next s) ∧
    (s.priReqs.length ≤ 1024 → s.endPri (fun y => y.tag == n) = { s with
        priReqs := s.priReqs.filter fun y => y.tag != n }) ∧
    ((s.priReqs.take 1024).find? (fun y => y.tag == n) = none → exec (.priResponse n ok) s = .next s) ∧
    ((s.priReqs.take 1024).find? (fun y => y.tag == n) = some x → s.OwnerStands x.owner →
      ∃ t, (s.endPri fun y => y.tag == n).answerOwner x.owner (BitVec.ofNat 32 n)
          (x.vpn.setWidth 44 ++ (0 : BitVec 12)) true ok = .next t ∧ exec (.priResponse n ok) s = .next t) ∧
    (s.group? g.id = some g → s.block? g.blk = some b → s.grid? b.grid = some gr →
      (∀ (e : ReplayEntry) (t : FaultTag) pc sl, o = .replay g.id pc sl →
        g.replay.find? (fun r => r.pc == pc && r.slot == sl && r.tags.any fun t => t.tag == tag && t.host == host) =
          some e →
        e.tags.find? (fun t => t.tag == tag && t.host == host) = some t →
        (∃ u g', s.answerOwner o tag a host true = .next u ∧ u.group? g.id = some g' ∧
          (∃ e' ∈ g'.replay, e'.idx = e.idx ∧ { t with answer := some true } ∈ e'.tags) ∧ g'.phase = g.phase) ∧
        (g.slot0 = some p → (∃ w, p.wait = some w ∧ w.kind = .parked e.idx) →
          ∃ u g', s.answerOwner o tag a host false = .next u ∧ u.group? g.id = some g' ∧ g'.phase = .frozen ∧
            g'.trap = ⟨0x20, p.pc.setWidth 64, p.hdr.setWidth 64, t.lanes, 0, t.page.setWidth 64, false⟩)) ∧
      (o = .fetch ⟨g.id, false⟩ → g.slot0 = some p → (∃ w, p.wait = some w ∧ w.kind = .fetch tag) →
        s.answerOwner o tag a host true = .next (s.setGroup (g.setPath false (some { p with wait := none }))) ∧
        ∃ u g', s.answerOwner o tag a host false = .next u ∧ u.group? g.id = some g' ∧ g'.phase = .frozen ∧
          g'.trap = ⟨0x20, p.pc.setWidth 64, p.hdr.setWidth 64, p.mask, 0, a.setWidth 64, false⟩)) ∧
    (∀ ch y, s.block? b.id = some b → o = .carter b.id ch →
      (b.chan ch).queue.find? (fun z => z.state == .paused tag) = some y →
      s.answerOwner o tag a host true = .next (s.setBlock (b.setOp ch { y with state := .moving })) ∧
      s.answerOwner o tag a host false = .next (s.copyFault b ch y 0x41)) ∧
    (∀ q y, o = .lane q → (s.thread q).lane.find? (fun z => z.paused == some tag) = some y →
      (∃ u, s.answerOwner o tag a host true = .next u ∧ ∀ z ∈ (u.thread q).lane, z.seq = y.seq → z.paused = none) ∧
      s.answerOwner o tag a host false = .next (s.laneFault q y.seq)) ∧
    (∀ q why m, o = .thread q → (s.thread q).pause = some (tag, why) →
      s1 = s.setThread { s.thread q with pause := none } →
      s.answerOwner o tag a host true = .next s1 ∧
      (why = .packet → s.answerOwner o tag a host false = .next (s1.abortQueue q 9)) ∧
      (why = .done m → s.answerOwner o tag a host false = .next (s1.failDone q m)) ∧
      (why = .qsig → s.answerOwner o tag a host false = .next (s1.qsigDone q))))

/-- PARTCTL's GO checks in the order 5, 2, 1, 3, 4 and sets ERR, or starts the change with a stop request to the
blocks on leaving clusters; while BUSY it is ignored. PARTITION_CHANGE_DONE applies it once those blocks are
saved and the leaving engines quiet. VDRCB installs or removes the root of an idle virtual device, dropping its
cached lines; a virtual device that is not idle keeps its root (R305 to R310, R318). The debugger: STOP asks the
block WHERE names to stop, RUN lets a stopped one go on, STEP lets one of its paths retire one instruction, a
write with none of them sets QUI and BRKEN, one with several does nothing; BLOCK_DEBUG_STOPPED makes the stop
real, or ends a step that is over, its record the trap's cause if the instruction took one, else 0x72;
BREAKPOINT_STOP stops the block whose path stands at a breakpoint, waiting or not. KZSHSEL samples one value of a
group into KZSHVAL, a saved block's from the bytes of its save slot, and of a PC slot the mask for a second read,
whatever the first read gave (R349 to R355, R357). The model's own choices here: the order of PARTCTL's checks
(log 7); what the change waits for on each leaving engine (log 34); RUN and STEP on a block that is not stopped
do nothing, and what a sample reads while the slot cannot be read (log 35). -/
def Obligations.PartitionsAndDebugger : Prop :=
  (∀ (s : State) (v : DWord) (n : BitVec 6) (p w : Partition) (c : PartChange) (vd : BitVec 8),
    (s.recovery = true → exec (.partctlGo v) s = .next s) ∧
    (s.recovery = false → v.getLsbD 63 = false ∨ s.partPend ≠ none → exec (.partctlGo v) s = .next s.wake) ∧
    (s.recovery = false → RegBank.wf s.regs = true → v.getLsbD 63 = true → s.partPend = none → n = v.setWidth 6 →
      p = s.staged n → w = { p with l2b := s.enabledBanks p.l2b } →
      (s.partError n ≠ 0 → exec (.partctlGo v) s =
        .next (s.setReg 0x40000 (BitVec.ofNat 64 (s.partError n * 2 ^ 48))).wake) ∧
      (s.partError n = 0 → ∃ t, exec (.partctlGo v) s = .next t ∧
        t.partPend = some ⟨n, if s.nothingStaged then none else some w⟩ ∧ t.parts = s.parts ∧
        ∀ b ∈ s.leavers n ((s.part n).leaving (if s.nothingStaged then none else some w)).clu,
          ∃ b' ∈ t.blocks, b'.id = b.id ∧ b'.stop ≠ none) ∧
      (s.nothingStaged = true → (s.partError n = if s.partVds n = [] then 0 else 5)) ∧
      (s.nothingStaged = false →
        (p.clu = 0 → s.partError n = 2) ∧
        (p.clu ≠ 0 → (∃ x ∈ s.parts, x.num ≠ n ∧ (x.clu &&& p.clu ≠ 0 ∨ x.l2b &&& p.l2b ≠ 0 ∨
          x.chan &&& p.chan ≠ 0 ∨ x.eng &&& p.eng ≠ 0)) → s.partError n = 1) ∧
        (p.clu ≠ 0 → (∀ x ∈ s.parts, x.num ≠ n → x.clu &&& p.clu = 0 ∧ x.l2b &&& p.l2b = 0 ∧
            x.chan &&& p.chan = 0 ∧ x.eng &&& p.eng = 0) →
          ((∃ k : BitVec 6, p.clu.getLsbD k.toNat = true ∧ s.clusterOff k = true) → s.partError n = 3) ∧
          ((∀ k : BitVec 6, p.clu.getLsbD k.toNat = true → s.clusterOff k = false) →
            ((∃ d ∈ s.partVds n, ∃ r, d.root = some r ∧ ∃ die ∈ maskDies r.mask, w.holdsDie die = false) →
              s.partError n = 4) ∧
            ((∀ d ∈ s.partVds n, ∀ r, d.root = some r → ∀ die ∈ maskDies r.mask, w.holdsDie die = true) →
              s.partError n = 0))))) ∧
    (s.partPend = none → exec .partitionChangeDone s = .next s) ∧
    (s.partPend = some c →
      (s.leavers c.part ((s.part c.part).leaving c.want).clu ≠ [] ∨
          s.enginesBusy c.part ((s.part c.part).leaving c.want).eng = true →
        exec .partitionChangeDone s = .next s) ∧
      (s.leavers c.part ((s.part c.part).leaving c.want).clu = [] →
        s.enginesBusy c.part ((s.part c.part).leaving c.want).eng = false →
        (∀ x, c.want = some x → x.num = c.part) → ∃ t,
          exec .partitionChangeDone s = .next t ∧ t.partPend = none ∧
          (∀ x, c.want = some x → t.part c.part = x) ∧
          (c.want = none → ∀ x ∈ t.parts, x.num ≠ c.part) ∧ ∀ m, m ≠ c.part → t.part m = s.part m)) ∧
    (s.recovery = true → exec (.vdrcbWrite vd v) s = .next s) ∧
    (s.recovery = false → s.vdIdle vd = false → exec (.vdrcbWrite vd v) s = .next s.wake) ∧
    (s.recovery = false → s.vdIdle vd = true → ∃ t, exec (.vdrcbWrite vd v) s = .next t ∧
      (∀ h ∈ t.home, h.vd ≠ vd) ∧ (∀ x ∈ t.walks, x.vd ≠ vd) ∧
      (v.getLsbD 0 = false → (t.vdev vd).root = none) ∧
      (v.getLsbD 0 = true → (t.vdev vd).root =
        some (t.readRoot (v.extractLsb' 62 2) ((v.extractLsb' 7 41).toNat * 128))))) ∧
  (∀ (s s1 : State) (v : DWord) (b : Block) (g : Group) (p : Path),
    (s.recovery = true → exec (.kzctlStop v) s = .next s ∧ exec (.kzctlRun v) s = .next s ∧
      exec (.kzctlStep v) s = .next s ∧ exec (.kzctlQui v) s = .next s ∧ exec (.kzshselWrite v) s = .next s) ∧
    (s.recovery = false → s1 = s.setKz s.kzvd 0x008 (v &&& 0x1800000000003FFF) →
      (v.getLsbD 63 = true → v.getLsbD 62 = true → exec (.kzctlStop v) s = .next s.wake ∧
        exec (.kzctlRun v) s = .next s.wake ∧ exec (.kzctlStep v) s = .next s.wake ∧
        exec (.kzctlQui v) s = .next s.wake) ∧
      (v.getLsbD 63 = false → v.getLsbD 62 = false → v.getLsbD 61 = false →
        exec (.kzctlQui v) s = .next s1.wake) ∧
      (v.getLsbD 63 = true → v.getLsbD 62 = false → v.getLsbD 61 = false →
        s.kzBlock s1.kzvd (v.toNat % 2 ^ 13) = some b →
        (b.dbg = false → b.dbgReq = false → exec (.kzctlStop v) s =
          .next ((s1.setBlock { b with dbgReq := true, dbgWhy := none, stepReq := none }).endStep b.id).wake) ∧
        (b.dbg = true ∨ b.dbgReq = true → exec (.kzctlStop v) s =
          .next ((s1.setBlock { b with stepReq := none }).endStep b.id).wake)) ∧
      (v.getLsbD 63 = false → v.getLsbD 62 = true → v.getLsbD 61 = false →
        s.kzBlock s1.kzvd (v.toNat % 2 ^ 13) = some b →
        (b.dbg = true → exec (.kzctlRun v) s = .next (((s1.setBlock { b with
          dbg := false, dbgWhy := none, stepReq := none }).endStep b.id).retestAll (clusterOf b.core)).wake) ∧
        (b.dbg = false → exec (.kzctlRun v) s = .next s1.wake)) ∧
      (v.getLsbD 63 = false → v.getLsbD 62 = false → v.getLsbD 61 = true →
        s.kzBlock s1.kzvd (v.toNat % 2 ^ 13) = some b → s.groupIn b (v.toNat % 16) = some g →
        g.path (v.getLsbD 13) = some p →
        (b.dbg = true → b.stepReq = none → exec (.kzctlStep v) s = .next
          (((s1.setGroup (g.stepping (some (v.getLsbD 13)))).setBlock { b with
            stepReq := some (⟨g.id, v.getLsbD 13⟩, p.handler.isSome) }).retestAll (clusterOf b.core)).wake) ∧
        (b.dbg = false ∨ b.stepReq ≠ none → exec (.kzctlStep v) s = .next s1.wake)) ∧
      (RegBank.wf s.regs = true → s.kzBlock s.kzvd (v.toNat % 2 ^ 13) = some b →
        s.groupIn b (v.toNat % 16) = some g → ∃ t, exec (.kzshselWrite v) s = .next t ∧
        t.groups = s.groups ∧ t.blocks = s.blocks ∧ ∀ cls i ln, cls = v.toNat / 2 ^ 14 % 16 →
          i = v.toNat / 2 ^ 18 % 2 ^ 12 → ln = v.toNat / 2 ^ 30 % 32 →
          (b.phase = .resident →
            (cls = 0 → i < g.regn →
              ((mapEntry (g.map ((g.held true).getLsbD ln)) i).zero.getLsbD ln = false →
                t.kz s.kzvd 0x018 = (g.vlane ((g.held true).getLsbD ln) i ln).setWidth 64) ∧
              ((mapEntry (g.map ((g.held true).getLsbD ln)) i).zero.getLsbD ln = true → t.kz s.kzvd 0x018 = 0)) ∧
            (cls = 1 → i < 64 → t.kz s.kzvd 0x018 = g.sreg (BitVec.ofNat 6 i)) ∧
            (cls = 2 → i < 8 → t.kz s.kzvd 0x018 = (g.pred (BitVec.ofNat 6 i)).setWidth 64) ∧
            (cls = 3 → i < 2 → ∀ q, g.path (i == 1) = some q →
              t.kz s.kzvd 0x018 = q.pc.setWidth 64 ∧ t.kz s.kzvd 0x020 = q.mask.setWidth 64 <<< 32)) ∧
          (b.phase = .saved → ∀ va rs e,
            ((cls = 1 ∧ i < 64) ∨ (cls = 2 ∧ i < 8)) → g.samplePlace cls i ln = some va →
            (s.slotVa b).bind (fun a => s.deviceRead b.vd (a + 0x1000 + 0x10000 * g.idx + va.1) va.2) =
              some (rs, e) → t.kz s.kzvd 0x018 = BitVec.ofNat 64 (natOfBytes rs)) ∧
          ((cls = 0 ∧ g.regn ≤ i) ∨ (cls = 1 ∧ 64 ≤ i) ∨ (cls = 2 ∧ 8 ≤ i) ∨ (cls = 3 ∧ 2 ≤ i) ∨ 4 < cls →
            t.kz s.kzvd 0x018 = 0))) ∧
    (∀ off, s.bar0Key off = kenzuKey s.kzvd 0x018 → s.recovery = false →
      (((s.kz s.kzvd 0x010).extractLsb' 14 4 = 3 → s.pfReadAgain off = s.kz s.kzvd 0x020) ∧
       ((s.kz s.kzvd 0x010).extractLsb' 14 4 ≠ 3 → s.pfReadAgain off = s.pfRead off))) ∧
    (s.block? b.id = some b →
      (b.phase ≠ .resident → exec (.blockDebugStopped b.id) s = .next s) ∧
      (b.phase = .resident → b.dbgReq = false → b.stepReq = none → exec (.blockDebugStopped b.id) s = .next s) ∧
      (s.tracing b.vd = true → s.traceBusy b.vd = true → exec (.blockDebugStopped b.id) s = .next s) ∧
      (s.tracing b.vd = false ∨ s.traceBusy b.vd = false →
      (b.phase = .resident → b.dbgReq = true → b.dbg = false → ∃ t, exec (.blockDebugStopped b.id) s = .next t ∧
        t.block? b.id = some { b with dbg := true, dbgReq := false } ∧ t.groups = s.groups) ∧
      (∀ r h, b.phase = .resident → b.dbgReq = false → b.stepReq = some (r, h) →
        (s.stepOver r = false → exec (.blockDebugStopped b.id) s = .next s) ∧
        (s.stepOver r = true → ∃ t, exec (.blockDebugStopped b.id) s = .next t ∧
          t.block? b.id = some { b with stepReq := none } ∧ t.groups = (s.endStep b.id).groups ∧
          (s.tracing b.vd = true → t = ((s.setBlock { b with stepReq := none }).endStep b.id).trace
            (dieOf b.core) b.vd [s.stepRecord b r h])) ∧
        (s.group? r.grp = some g → (s.stepOver r = false ↔ ∃ y ∈ g.paths, y.step = .due) ∧
          (s.stepRecord b r h).ty = 6 ∧
          (∀ y, g.stepPath = some y →
            (y.handler ≠ none → h = false → (s.stepRecord b r h).value = g.trap.cause.setWidth 32) ∧
            (y.handler = none ∨ h = true → (s.stepRecord b r h).value = 0x72)))))) ∧
    (∀ r, s.group? g.id = some g → r.grp = g.id → g.path r.slot = some p → s.block? g.blk = some b →
      (g.phase ≠ .running ∨ b.lets r p = false → exec (.breakpointStop r) s = .next s) ∧
      (g.phase = .running → b.lets r p = true → p.bpSkip = false → p.inDefault = false →
        s.breakAt b.vd (if p.pc = p.hdr then p.hdr + 4 else p.pc) = true →
        exec (.breakpointStop r) s = .next ((s.setGroup (g.setPath r.slot (some { p with
          bpSkip := true }))).setBlock (b.requestStop (some (r, 0)))))))

/-! ### Power, firmware, resets, links, the host -/

/-- POWER_WINDOW sets each die's clock, at or below its highest and as far below as the power limit, between
1,200 and 2,400 W, needs, and no result; the rails are offset by at most 30 steps of 5 mV (R366); IDLE_ENTRY, the package idle for 10 µs, enters the deepest state LTOL
admits, deep losing every cached line; IDLE_WAKE makes it active. BISTCTL and LMARGCTL without GO write their
fields; a GO starts a test or a scan, or is refused with ERR, and is ignored while BUSY (LMARGCTL's by the
model's choice, log 30); their completion has the result, a free value, in its register (R13, R16, R361, R362,
R365, R367). RECGO starts the check of the staged image in recovery, a GO ignored while BUSY, and is ignored
outside it; the check starts an image that passes R369, raising the fused counter when SVNUP asks, and rejects
any other with ERR: its key's SHAKE256 is the fused digest, its Ed448 signature over its body's hash is good, and
its number is not below the fused one. ATTESTATION_REQUEST's report begins with the nonce and the firmware's hash
and ends with the signature of all before it (R369 to R371). The model's own choices here: the order of the
report's fields, the steps by which clocks are lowered (log 30); SHAKE256 and Ed448 are the public standards'
(log 47); what the sensors, the cells and the margins give is free (log 4). -/
def Obligations.PowerAndFirmware : Prop :=
  (∀ (s : State) (clk : List (BitVec 8)) (die : BitVec 2) (v : DWord) (x : BitVec 2 × Nat) (t0 : Nat),
    RegBank.wf s.regs = true →
    (clk.length = 4 → (∀ i, i < 4 → clk.getD i 0 ≠ 0 ∧
        (clk.getD i 0).toNat ≤ (s.topClock (BitVec.ofNat 2 i)).toNat) →
      ∃ t, exec (.powerWindow clk) s = .next t ∧ t.clocks.length = 4 ∧
        (∀ i, i < 4 → t.clocks.getD i 0 ≠ 0 ∧ (t.clocks.getD i 0).toNat ≤ (clk.getD i 0).toNat) ∧
        (Config.windowPower s.free t.clocks ≤ s.powerLimit ∨ ∀ i, i < 4 → t.clocks.getD i 0 = 1) ∧
        (Config.windowPower s.free clk ≤ s.powerLimit → t.clocks = clk) ∧ t.mem = s.mem ∧ t.groups = s.groups ∧
        t.blocks = s.blocks ∧ t.home = s.home ∧ t.timebase = s.timebase ∧ ∀ d, t.headroom d ≤ 100) ∧
    (clk.length ≠ 4 ∨ (∃ i, i < 4 ∧ (clk.getD i 0 = 0 ∨ (s.topClock (BitVec.ofNat 2 i)).toNat <
        (clk.getD i 0).toNat)) → exec (.powerWindow clk) s = .next s) ∧
    (1200 ≤ s.powerLimit ∧ s.powerLimit ≤ 2400 ∧ (1200 ≤ (s.reg (dieKey 0 0x40)).toNat % 4096 →
      (s.reg (dieKey 0 0x40)).toNat % 4096 ≤ 2400 → s.powerLimit = (s.reg (dieKey 0 0x40)).toNat % 4096)) ∧
    (∀ n r, n < 4 → r = s.reg (dieKey die (0x300 + 8 * n)) → (s.rails die).getD n 0 =
      (if r.getLsbD 31 = false then 0 else if (r.setWidth 8).toInt < -30 then -150
        else if 30 < (r.setWidth 8).toInt then 150 else 5 * (r.setWidth 8).toInt)) ∧
    (s.idle = false ∨ s.power ≠ .active → exec .idleEntry s = .next { s with idleAt := none }) ∧
    (s.idle = true → s.power = .active →
      (s.idleAt = none → exec .idleEntry s = .next { s with idleAt := some s.timebase.toNat }) ∧
      (s.idleAt = some t0 → s.timebase.toNat < t0 + 10000 ∨ s.ltol < 2 → exec .idleEntry s = .next s) ∧
      (s.idleAt = some t0 → t0 + 10000 ≤ s.timebase.toNat →
        (900 ≤ s.ltol → ∃ t, exec .idleEntry s = .next t ∧ t.power = .deep ∧ t.home = [] ∧ t.l1 = [] ∧ t.rdc = []) ∧
        (40 ≤ s.ltol → s.ltol < 900 → exec .idleEntry s = .next { s with power := .retention }) ∧
        (2 ≤ s.ltol → s.ltol < 40 → exec .idleEntry s = .next { s with power := .gated }))) ∧
    (exec .idleWake s = .next { s with power := .active, idleAt := none }) ∧
    (v.getLsbD 63 = false → exec (.bistctlGo die v) s = .next (s.setReg (dieKey die 0x30)
      ((s.reg (dieKey die 0x30) &&& 0x4000000000000000) ||| (v &&& 0xFEF))).wake) ∧
    (s.bistBusy die = true → v.getLsbD 63 = true → exec (.bistctlGo die v) s = .next s.wake) ∧
    (s.bistBusy die = false → v.getLsbD 63 = true →
      (s.bistRefused die v = true → exec (.bistctlGo die v) s =
        .next (s.setReg (dieKey die 0x30) ((v &&& 0xFEF) ||| 0x4000000000000000)).wake) ∧
      (s.bistRefused die v = false → exec (.bistctlGo die v) s = .next
        ({ s.setReg (dieKey die 0x30) (v &&& 0xFEF) with bist := s.bist ++ [(die, v.toNat % 4096)] } : State).wake)) ∧
    (3 < v.toNat % 16 ∨ s.clusterOff (die ++ v.extractLsb' 8 4) = true → s.bistRefused die v = true) ∧
    (s.bist.find? (fun y => y.1 == die) = none → exec (.bistComplete die) s = .next s) ∧
    (s.bist.find? (fun y => y.1 == die) = some x → ∃ t, exec (.bistComplete die) s = .next t ∧
      t.bistBusy die = false ∧ t.reg (dieKey die 0x38) = marchResult (Config.railWord s.free (s.rails die)) ∧
      (x.2 % 16 = 1 → (∀ y ∈ t.l1, y.core ≠ bistCore die (BitVec.ofNat 64 x.2)) ∧
        ((∀ f ∈ s.flight, f.core = bistCore die (BitVec.ofNat 64 x.2) → f.who = none → f.arrived = true) →
          t.mem = s.mem ∧ t.groups = s.groups ∧ t.home = s.home)) ∧
      (x.2 % 16 ≠ 1 → t.l1 = s.l1 ∧ t.mem = s.mem ∧ t.groups = s.groups ∧ t.home = s.home)) ∧
    (v.getLsbD 63 = false → exec (.lmargctlGo die v) s = .next (s.setReg (dieKey die 0x340)
      ((s.reg (dieKey die 0x340) &&& 0x4000000000000000) ||| (v &&& 0x00FFFF00FFFFFFFF))).wake) ∧
    ((s.margin.any fun y => y.1 == die) = true → v.getLsbD 63 = true →
      exec (.lmargctlGo die v) s = .next s.wake) ∧
    ((s.margin.any fun y => y.1 == die) = false → v.getLsbD 63 = true →
      (s.laneFree die v = false → exec (.lmargctlGo die v) s =
        .next (s.setReg (dieKey die 0x340) (s.reg (dieKey die 0x340) ||| 0x4000000000000000)).wake) ∧
      (s.laneFree die v = true → exec (.lmargctlGo die v) s =
        .next ({ s.setReg (dieKey die 0x340) (v &&& 0x00FFFF00FFFFFFFF) with
          margin := s.margin ++ [(die, s.timebase.toNat + 2 ^ 20)] } : State).wake)) ∧
    (s.margin.find? (fun y => y.1 == die) = none → exec (.lmargScanComplete die) s = .next s) ∧
    (s.margin.find? (fun y => y.1 == die) = some x →
      (s.timebase.toNat < x.2 → exec (.lmargScanComplete die) s = .next s) ∧
      (x.2 ≤ s.timebase.toNat → ∃ t, exec (.lmargScanComplete die) s = .next t ∧
        (t.margin.any fun y => y.1 == die) = false ∧ (t.reg (dieKey die 0x348)).toNat < 2 ^ 32 ∧
        t.reg (dieKey die 0x340) = s.reg (dieKey die 0x340) ∧ t.groups = s.groups))) ∧
  (∀ (s : State) (v : DWord) (nonce : BitVec 256) (im : Image), RegBank.wf s.regs = true →
    (s.recovery = false ∨ ((s.reg 0x40500).getLsbD 63 = true ∧ v.getLsbD 63 = true) →
      exec (.recgo v) s = .next s.wake) ∧
    (s.recovery = true → (s.reg 0x40500).getLsbD 63 = false ∨ v.getLsbD 63 = false →
      ∃ t, exec (.recgo v) s = .next t ∧
      (t.reg 0x40500).getLsbD 63 = ((s.reg 0x40500).getLsbD 63 || v.getLsbD 63) ∧
      (t.reg 0x40500).getLsbD 1 = v.getLsbD 1 ∧
      t.recovery = true ∧ t.staging = s.staging) ∧
    (s.recovery = false ∨ (s.reg 0x40500).getLsbD 63 = false → exec .recgoCheckComplete s = .next s) ∧
    (s.recovery = true → (s.reg 0x40500).getLsbD 63 = true →
      (checkImage (Memory.readN s.staging 0 0x4000000) s.keyDigest s.fusedSvn = none → ∃ t,
        exec .recgoCheckComplete s = .next t ∧ t.recovery = true ∧ (t.reg 0x40500).getLsbD 62 = true ∧
        (t.reg 0x40500).getLsbD 63 = false ∧ t.fusedSvn = s.fusedSvn ∧ t.image = s.image) ∧
      (checkImage (Memory.readN s.staging 0 0x4000000) s.keyDigest s.fusedSvn = some im → ∃ t,
        exec .recgoCheckComplete s = .next t ∧ t.recovery = false ∧ t.image = im ∧
        (t.reg 0x40500).getLsbD 63 = false ∧ t.fusedSvn.toNat = (if (s.reg 0x40500).getLsbD 1
          then max s.fusedSvn.toNat im.svn.toNat else s.fusedSvn.toNat))) ∧
    (∀ bs, checkImage bs s.keyDigest s.fusedSvn = some im → s.fusedSvn.toNat ≤ im.svn.toNat ∧
      shake256 32 ((bs.drop 0x10).take 57) = s.keyDigest ∧
      ed448Good ((bs.drop 0x10).take 57) (shake256 64 im.body) ((bs.drop 0x49).take 114) = true) ∧
    (∃ bs, exec (.attestationRequest nonce) s = .next { s with
        out := s.out ++ [.report (bs ++ Config.attestSignature bs)] } ∧
      natOfBytes (bs.take 32) = nonce.toNat ∧
      (bs.drop 32).take 64 = shake256 64 s.image.body ∧
      natOfBytes ((bs.drop 96).take 4) = s.image.svn.toNat))

/-- A cold reset leaves no memory, no work, no cached line and every register at its reset value, the fuses as
they were; a warm reset keeps memory, fuses and the timebase, and ends all work and every cached line; each then
verifies the flash image, and stays in recovery when that fails (R369, R372, R373). That memory after a cold reset
lists nothing, each byte reading 0, is the model's own choice (logs 2, 37). -/
def Obligations.Resets : Prop :=
  ∀ (s : State) (mfg : Bool),
    (∃ t, exec (.coldReset mfg) s = .next t ∧ t.mem = [] ∧ t.regs = [] ∧ t.timebase = 0 ∧ t.mfg = mfg ∧
      t.defects = s.defects ∧ t.fusedSvn = s.fusedSvn ∧ t.keyDigest = s.keyDigest ∧ t.clkFault = false ∧ t.groups = [] ∧ t.blocks = [] ∧
      t.grids = [] ∧ t.vds = [] ∧ t.parts = [] ∧ t.threads = [] ∧ t.home = [] ∧ t.l1 = [] ∧ t.rdc = [] ∧
      t.flight = [] ∧ t.ports = [] ∧ t.vfEnable = false ∧
      (t.recovery = true ↔ checkImage (Config.flashImage s.free) s.keyDigest s.fusedSvn = none)) ∧
    (∃ t, exec .warmReset s = .next t ∧ t.mem = s.mem ∧ t.timebase = s.timebase ∧ t.defects = s.defects ∧
      t.fusedSvn = s.fusedSvn ∧ t.keyDigest = s.keyDigest ∧ t.mfg = s.mfg ∧ t.cxlBytes = s.cxlBytes ∧ t.groups = [] ∧ t.blocks = [] ∧
      t.grids = [] ∧ t.vds = [] ∧ t.parts = [] ∧ t.threads = [] ∧ t.home = [] ∧ t.l1 = [] ∧ t.rdc = [] ∧
      t.flight = [] ∧ t.ports = [] ∧ t.vfEnable = false ∧ (s.clkFault = false → t.clkFault = false ∧ t.regs = []) ∧
      (t.recovery = true ↔ checkImage (Config.flashImage (s.free + 1)) s.keyDigest s.fusedSvn = none))

/-- A grant at a fabric port sends a flit of its virtual device, under the port's next number (R311, R386, R388).
FLIT_RECEIVE on a port that is up: a flit with a bad CRC, or beyond the one due, is discarded with one NAK; a
good one acknowledges, and the one due is accepted; a link-control flit is a NAK. FLIT_NAK, and REPLAY_TIMEOUT when
1,000 ticks have brought no acknowledgment, send the unacknowledged flits again, in order, up to 8 times, and
count them; a port whose flit has been replayed 8 times and is not acknowledged is lost; PORT_DOWN takes an up port
to training and its transactions are lost; PORT_RETRAIN_TIMEOUT fails it after 10,000,000 ticks; FABRIC_PORT_UP
starts its numbers again, not without an identity (R383, R386, R387). The model's own choices here, all log 36: a
duplicate is discarded without a NAK, a NAK acknowledges what lies before the number it names, which its payload
holds, a failed port stays failed, and a port that goes down loses its queue. -/
def Obligations.Links : Prop :=
  ∀ (s : State) (n : BitVec 4) (p p1 : Port) (f : Flit) (q : BitVec 12) (t0 : Nat) (vd : BitVec 8)
    (m : Sending), p = s.port n → p.num = n →
    (p.nextOf vd = none ∨ p.state ≠ .up ∨ 1024 ≤ p.sent.length → s.sendFlit n vd = s) ∧
    (p.nextOf vd = some m → p.state = .up → p.sent.length < 1024 →
      m.vd = vd ∧ ∃ w, flitGood w = true ∧ (s.sendFlit n vd).out = s.out ++ [.flit n w] ∧
        hdrOf w.hdr = ⟨p.sendSeq, p.expSeq - 1, m.vc, !m.begun, decide (m.rest.length ≤ 1)⟩ ∧
        ((s.sendFlit n vd).port n).sendSeq = p.sendSeq + 1 ∧
        ((s.sendFlit n vd).port n).sent = p.sent ++ [⟨w, 0, m.tag⟩] ∧
        ((s.sendFlit n vd).port n).ackAt = (if p.sent = [] then s.timebase.toNat else p.ackAt) ∧
        s.KeepsMem (s.sendFlit n vd)) ∧
    (p.state ≠ .up → exec (.flitReceive n f) s = .next s.wake ∧ exec (.flitNak n q) s = .next s.wake ∧
      exec (.replayTimeout n) s = .next s ∧ exec (.portDown n) s = .next s) ∧
    (p.state = .up →
      (f.crc ≠ crc32c (bytesOfNat 4 f.hdr.toNat ++ f.payload) →
        (p.nakSent = false → exec (.flitReceive n f) s = .next ({ s.setPort { p with nakSent := true } with
          out := s.out ++ [.flit n (nakFlit p.expSeq)] } : State).wake) ∧
        (p.nakSent = true → exec (.flitReceive n f) s = .next (s.setPort p).wake)) ∧
      (f.crc = crc32c (bytesOfNat 4 f.hdr.toNat ++ f.payload) → p1 = p.acked (hdrOf f.hdr).ack s.timebase.toNat →
        ((hdrOf f.hdr).vc = 3 → exec (.flitReceive n f) s = .next (s.nakked p1 (nakDue f)).wake) ∧
        ((hdrOf f.hdr).vc ≠ 3 →
          ((hdrOf f.hdr).seq = p.expSeq → exec (.flitReceive n f) s =
            .next (s.setPort { p1 with expSeq := p.expSeq + 1, nakSent := false }).wake) ∧
          ((hdrOf f.hdr).seq ≠ p.expSeq → (p.expSeq - (hdrOf f.hdr).seq).toNat < 2048 →
            exec (.flitReceive n f) s = .next (s.setPort p1).wake) ∧
          (2048 ≤ (p.expSeq - (hdrOf f.hdr).seq).toNat → p.nakSent = false → exec (.flitReceive n f) s =
            .next ({ s.setPort { p1 with nakSent := true } with
              out := s.out ++ [.flit n (nakFlit p.expSeq)] } : State).wake) ∧
          (2048 ≤ (p.expSeq - (hdrOf f.hdr).seq).toNat → p.nakSent = true → exec (.flitReceive n f) s =
            .next (s.setPort p1).wake))) ∧
      (exec (.flitNak n q) s = .next (s.nakked p q).wake) ∧
      (∀ p2 u, (p2 = p.acked (q - 1) s.timebase.toNat ∧ u = s.nakked p q) ∨
          (p2 = p ∧ p.ackAt + 1000 ≤ s.timebase.toNat ∧ exec (.replayTimeout n) s = .next u) →
        p2.sent ≠ [] → (∀ y ∈ p2.sent, y.replays < 8) →
          u.out = s.out ++ p2.sent.map (fun y => .flit n y.flit) ∧
          ((u.port n).sent = p2.sent.map fun y => { y with replays := y.replays + 1 }) ∧
          (u.port n).ackAt = s.timebase.toNat ∧
          (RegBank.wf s.regs = true → u.reg (fpstatKey n) = BitVec.ofNat 64
            (min ((s.reg (fpstatKey n)).toNat % 2 ^ 32 + p2.sent.length) (2 ^ 32 - 1)))) ∧
      (∀ p2, p2 = p.acked (q - 1) s.timebase.toNat → p2.sent = [] ∨ (∃ y ∈ p2.sent, 8 ≤ y.replays) →
        s.nakked p q = s.setPort p2) ∧
      (p.sent ≠ [] → (∀ y ∈ p.sent, y.replays < 8) → p.ackAt + 1000 ≤ s.timebase.toNat →
        ∃ t, exec (.replayTimeout n) s = .next t) ∧
      (p.sent = [] ∨ (∃ y ∈ p.sent, 8 ≤ y.replays) ∨ s.timebase.toNat < p.ackAt + 1000 →
        exec (.replayTimeout n) s = .next s) ∧
      (s.portLost p = true ↔ p.ackAt + 1000 ≤ s.timebase.toNat ∧ ∃ y ∈ p.sent, 8 ≤ y.replays) ∧
      ∃ t, exec (.portDown n) s = .next t ∧ (t.port n).state = .training ∧ (t.port n).sent = [] ∧ (t.port n).queue = [] ∧
        (t.port n).downAt = some s.timebase.toNat ∧
        (∀ y ∈ t.txns, ∀ z ∈ p.sent, z.tag ≠ some y.tag) ∧ ∀ y ∈ t.txns, ∀ z ∈ p.queue, z.tag ≠ some y.tag) ∧
    (p.downAt = some t0 → p.state = .training →
      (t0 + 10000000 ≤ s.timebase.toNat →
        exec (.portRetrainTimeout n) s = .next (s.setPort { p with state := .failed })) ∧
      (s.timebase.toNat < t0 + 10000000 → exec (.portRetrainTimeout n) s = .next s)) ∧
    (p.downAt = none ∨ p.state ≠ .training → exec (.portRetrainTimeout n) s = .next s) ∧
    ((p.state = .down ∨ p.state = .training) → s.fabId ≠ 4095 → s.recovery = false →
      exec (.fabricPortUp n) s = .next (s.setPort { p with
        state := .up, sendSeq := 0, expSeq := 0, queue := [], sent := [], nakSent := false, downAt := none })) ∧
    (p.state = .up ∨ p.state = .failed ∨ s.fabId = 4095 ∨ s.recovery = true →
      exec (.fabricPortUp n) s = .next s) ∧
    (flitGood (nakFlit q) = true ∧ nakDue (nakFlit q) = q ∧ hdrOf (nakFlit q).hdr = ⟨0, q - 1, 3, false, false⟩) ∧
    (∀ a t1, (p.acked a t1).sent = p.sent.filter (fun y => 2048 ≤ (a - (hdrOf y.flit.hdr).seq).toNat) ∧
      (p.acked a t1).ackAt = (if (p.acked a t1).sent.length < p.sent.length then t1 else p.ackAt) ∧
      (p.acked a t1).expSeq = p.expSeq ∧ (p.acked a t1).sendSeq = p.sendSeq ∧ (p.acked a t1).queue = p.queue)

/-- A request that arrives by a port is admitted by its export entry, in the order valid, peer, permission,
length, a port that does not serve the exporting virtual device admitting none, and by the leaves of its lines,
and performed: a read's reply has the bytes, a write or an addition changes them and is acknowledged, on a port
of the exporting device's partition; a refusal is counted, names its reason and goes back on its port; a reply
waits on a port that is up but has no room (the choice of the port and the wait: log 36);
one that is malformed, for another package, or in recovery does nothing (R306, R385, R388, R390). A reply goes to
the request it names, while that is outstanding and its deadline has not passed: data into its copy's buffer at
its place, an acknowledgment taken off its copy's list; a refusal, and the deadline, end the copy as a copy
fault; anything else is ignored (R388, R389). -/
def Obligations.FabricTransactions : Prop :=
  (∀ (s s1 s2 : State) (t : Txn) (x : Export) (i : Instr) (bit why : Nat) (a : Access)
    (as : List Nat) (rs : List LineRes), x = s.exportOf t.win →
    (i, bit, a) ∈ [(Instr.fabricRead t, 0, Access.read), (.fabricWrite t, 1, .write),
      (.fabricAddFp32 t, 2, .atomic), (.fabricAddBf16 t, 2, .atomic)] →
    as = (List.range t.len.toNat).map (fun j => (x.base.toNat + t.off.toNat + j) % 2 ^ 56) →
    (t.len = 0 ∨ 4096 < t.len.toNat ∨ t.dst.setWidth 12 ≠ s.fabId ∨ s.fabId = 4095 ∨ s.recovery = true →
      exec i s = .next s) ∧
    (why = (if x.perm.getLsbD 7 = false then 1
        else if s.portServes t.port x.vdid = false then 2
        else if (x.peer.getLsbD 15 = false ∧ x.peer.extractLsb' 0 12 ≠ t.src.setWidth 12) ∨
          (x.sany = false ∧ x.svd ≠ t.svd) then 2
        else if x.perm.getLsbD bit = false then 3
        else if x.length.toNat < t.off.toNat + t.len.toNat then 4 else 0) →
      t.len ≠ 0 → t.len.toNat ≤ 4096 → t.dst.setWidth 12 = s.fabId → s.fabId ≠ 4095 → s.recovery = false →
      (why ≠ 0 → exec i s = .next (s.refuseTxn t x.vdid why)) ∧
      (why = 0 →
        (∀ w, s.exportLines (t.port.extractLsb' 2 2) x.vdid a (linesOf as) = .refuse w s1 →
          exec i s = .next (s1.refuseTxn t x.vdid w)) ∧
        (s.exportLines (t.port.extractLsb' 2 2) x.vdid a (linesOf as) = .wait → exec i s = .next s) ∧
        (s.exportLines (t.port.extractLsb' 2 2) x.vdid a (linesOf as) = .ok rs s1 →
          (i = .fabricRead t → exec i s = .next (s1.reply (s1.usablePorts x.vdid (t.src.setWidth 12)) t 5 x.vdid 0
            (reachedBytes rs as))) ∧
          (i = .fabricWrite t → s2 = s1.storeAt (t.port.extractLsb' 2 2) rs (as.zip t.data) →
            exec i s = .next (s2.reply (s2.usablePorts x.vdid (t.src.setWidth 12)) t 6 x.vdid 0 [])) ∧
          (i = .fabricAddFp32 t → s2 = s1.atomAt (t.port.extractLsb' 2 2) rs (as.zip
              (addBytes 4 as.length (s1.oldBytes rs as) t.data)) →
            exec i s = .next (s2.reply (s2.usablePorts x.vdid (t.src.setWidth 12)) t 6 x.vdid 0 [])) ∧
          (i = .fabricAddBf16 t → s2 = s1.atomAt (t.port.extractLsb' 2 2) rs (as.zip
              (addBytes 2 as.length (s1.oldBytes rs as) t.data)) →
            exec i s = .next (s2.reply (s2.usablePorts x.vdid (t.src.setWidth 12)) t 6 x.vdid 0 []))))) ∧
    (s.refuseTxn t x.vdid why = (s.bumpReg 0x40310).reply [t.port] t 7 x.vdid why []) ∧
    (∀ (ports : List (BitVec 4)) (kind vd : BitVec 8) (w : Nat) (data : List Byte) (r : Txn),
      r = { t with svd := vd, src := s.fabId, dst := t.src.setWidth 12, why := BitVec.ofNat 8 w, data := data } →
      ((∃ n ∈ ports, (s.port n).state = .up) → ∃ n ∈ ports, (s.port n).state = .up ∧
        s.reply ports t kind vd w data = s.setPort ((s.port n).enqueue ⟨vd, 1, none, false, txnPayloads kind r⟩)) ∧
      ((∀ n ∈ ports, (s.port n).state ≠ .up) → s.reply ports t kind vd w data = s))) ∧
  (∀ (s : State) (t : Txn) (x : SentTxn) (b : Block) (y : CarterOp) (tag : Word),
    (s.txns.find? (fun z => z.tag == t.tag && !s.overdue z) = none →
      exec (.fabricReadData t) s = .next s ∧ exec (.fabricAck t) s = .next s ∧
      exec (.fabricRefusal t) s = .next s) ∧
    (s.txns.find? (fun z => z.tag == t.tag && !s.overdue z) = some x → s.block? b.id = some b →
      x.blk = b.id → (b.chan x.ch).queue.find? (fun z => z.id == x.op) = some y →
      (x.kind = .read → t.data ≠ [] → exec (.fabricReadData t) s = .next ({ s with
          txns := s.txns.filter fun z => z.tag != x.tag }.setBlock (b.setOp x.ch { y with
            txns := y.txns.filter fun z => z != x.tag, buf := putBytes y.buf x.off (t.data.take x.len) }))) ∧
      (x.kind ≠ .read → exec (.fabricReadData t) s = .next s ∧ exec (.fabricAck t) s = .next ({ s with
          txns := s.txns.filter fun z => z.tag != x.tag }.setBlock (b.setOp x.ch { y with
            txns := y.txns.filter fun z => z != x.tag }))) ∧
      (x.kind = .read → exec (.fabricAck t) s = .next s) ∧
      exec (.fabricRefusal t) s = .next ({ s with
        txns := s.txns.filter fun z => z.op != x.op }.copyFault b x.ch y 0x41)) ∧
    (s.txns.find? (fun z => z.tag == tag) = none → exec (.fabricDeadlineExpiry tag) s = .next s) ∧
    (s.txns.find? (fun z => z.tag == tag) = some x →
      (s.overdue x = false → exec (.fabricDeadlineExpiry tag) s = .next s) ∧
      (s.overdue x = true → s.block? b.id = some b → x.blk = b.id →
        (b.chan x.ch).queue.find? (fun z => z.id == x.op) = some y →
        exec (.fabricDeadlineExpiry tag) s = .next ({ s with
          txns := s.txns.filter fun z => z.op != x.op }.copyFault b x.ch y 0x41))) ∧
    (s.overdue x = true ↔ ∃ d, x.deadline = some d ∧ d < s.timebase.toNat ∧ s.clkFault = false))

/-- REGISTER_WRITE changes one register, under its access codes: RW bits take the value, W1C bits clear where it
is 1, others stay; a reserved place, a register whose write is an event of its own, and one that recovery closes
change nothing. A virtual function writes its own EVBASE and EVCFG, the domain its VDHALT selects, and the doorbells
of its own queues, as QDOOR_WRITE does, and nothing else. PHYS_WINDOW_ACCESS writes the 8 bytes of a backed frame
and no other byte. Each wakes an idle package (R6, R7, R324, R362, R370, R376 to R380). That a register whose write
is an event of its own takes no plain write is the model's own choice (log 26). -/
def Obligations.HostAccesses : Prop :=
  ∀ (s : State) (fn : BitVec 8) (off : BitVec 24) (w : BitVec 38) (v : DWord) (k a : Nat) (r : RegInfo),
    RegBank.wf s.regs = true → Memory.wf s.mem = true → k = s.bar0Key off.toNat →
    (off.toNat % 8 ≠ 0 → exec (.registerWrite fn off v) s = .next s.wake) ∧
    (off.toNat % 8 = 0 → fn = 0 →
      (s.recovery = true ∧ 0x40000 ≤ off.toNat ∨ regInfo k = none ∧ k ≠ 0x40300 ∨
          (ownEvent k = true ∧ selectsHalt k v = false) →
        exec (.registerWrite fn off v) s = .next s.wake) ∧
      (s.recovery = false ∨ off.toNat < 0x40000 → ownEvent k = false → s.marginLocked k = false → k ≠ 0x40300 →
        regInfo k = some r → ∃ t, exec (.registerWrite fn off v) s = .next t ∧
          t = (s.setReg k (t.reg k)).wake ∧ ∀ i, i < 64 → (t.reg k).getLsbD i =
            (if r.rw.getLsbD i then v.getLsbD i
             else if r.w1c.getLsbD i && v.getLsbD i then false else (s.reg k).getLsbD i))) ∧
    (off.toNat % 8 = 0 → fn ≠ 0 →
      (s.vfEnable = false ∨ s.recovery = true ∨ (0x1000 ≤ off.toNat ∧ (off.toNat < 0x10000 ∨ 0x20000 ≤ off.toNat ∨
            off.toNat % 64 ≠ 0x20 ∨ s.qVd (BitVec.ofNat 10 ((off.toNat - 0x10000) / 64)) ≠ fn)) ∨
          (off.toNat < 0x1000 ∧ off.toNat ≠ 0x200 ∧ off.toNat ≠ 0x208 ∧ off.toNat ≠ 0x108) →
        exec (.registerWrite fn off v) s = .next s.wake) ∧
      (s.vfEnable = true → s.recovery = false → off.toNat = 0x200 →
        exec (.registerWrite fn off v) s = .next (s.setReg (vdKey fn 0x200) v).wake) ∧
      (s.vfEnable = true → s.recovery = false → off.toNat = 0x108 →
        (v.extractLsb' 62 2 ≠ 0 → exec (.registerWrite fn off v) s = .next s.wake) ∧
        (v.extractLsb' 62 2 = 0 → ∃ x, regInfo (vdKey fn 0x108) = some x ∧ exec (.registerWrite fn off v) s =
          .next (s.setReg (vdKey fn 0x108) (x.merge (s.reg (vdKey fn 0x108)) v)).wake)) ∧
      (s.vfEnable = true → s.recovery = false → off.toNat = 0x208 →
        exec (.registerWrite fn off v) s = .next (s.setReg (vdKey fn 0x208)
          ((v &&& 0xF) ||| (s.reg (vdKey fn 0x208) &&& 0xFFFFFFFFFFFFFFF0))).wake) ∧
      (s.vfEnable = true → s.recovery = false → ∀ q : BitVec 10, off.toNat = 0x10020 + 64 * q.toNat → s.qVd q = fn →
        exec (.registerWrite fn off v) s = exec (.qdoorWrite q v) s)) ∧
    (exec (.physWindowAccess w none) s = .next s.wake) ∧
    (s.recovery = false →
      (s.backed (s.windowPa w).1 (s.windowPa w).2 = false → exec (.physWindowAccess w (some v)) s = .next s.wake) ∧
      (s.backed (s.windowPa w).1 (s.windowPa w).2 = true → ∃ t, exec (.physWindowAccess w (some v)) s = .next t ∧
        t.home = s.home ∧ t.staging = s.staging ∧ ∀ d, d = frameKey (s.windowPa w).1 (s.windowPa w).2 →
          Memory.read t.mem a = if d ≤ a ∧ a < d + 8 then BitVec.ofNat 8 (v.toNat / 2 ^ (8 * (a - d)))
            else Memory.read s.mem a)) ∧
    (s.recovery = true → ∃ t, exec (.physWindowAccess w (some v)) s = .next t ∧ t.mem = s.mem ∧
      (w.toNat + 8 ≤ 0x4000000 → t.staging = Memory.writeN s.staging w.toNat (bytesOfNat 8 v.toNat)) ∧
      (0x4000000 < w.toNat + 8 → t.staging = s.staging))
end

