-- ==== Sys2Proof/Laws/State.lean ====
section
/-!
SUPPORT. What each update of the state, of a group and of a path leaves alone: one lemma for each field
and update, so that no later proof unfolds a record update. State.lean's Laws also say what looking a
party up finds after it was put back.
-/
namespace Sys2Proof.Machine

/-! ### setGroup -/

@[simp] theorem State.setGroup_timebase (s : State) (x : Group) : (s.setGroup x).timebase = s.timebase := rfl
@[simp] theorem State.setGroup_mfg (s : State) (x : Group) : (s.setGroup x).mfg = s.mfg := rfl
@[simp] theorem State.setGroup_clkFault (s : State) (x : Group) : (s.setGroup x).clkFault = s.clkFault := rfl
@[simp] theorem State.setGroup_recovery (s : State) (x : Group) : (s.setGroup x).recovery = s.recovery := rfl
@[simp] theorem State.setGroup_staging (s : State) (x : Group) : (s.setGroup x).staging = s.staging := rfl
@[simp] theorem State.setGroup_fusedSvn (s : State) (x : Group) : (s.setGroup x).fusedSvn = s.fusedSvn := rfl
@[simp] theorem State.setGroup_keyDigest (s : State) (x : Group) : (s.setGroup x).keyDigest = s.keyDigest := rfl
@[simp] theorem State.setGroup_image (s : State) (x : Group) : (s.setGroup x).image = s.image := rfl
@[simp] theorem State.setGroup_defects (s : State) (x : Group) : (s.setGroup x).defects = s.defects := rfl
@[simp] theorem State.setGroup_power (s : State) (x : Group) : (s.setGroup x).power = s.power := rfl
@[simp] theorem State.setGroup_idleAt (s : State) (x : Group) : (s.setGroup x).idleAt = s.idleAt := rfl
@[simp] theorem State.setGroup_clocks (s : State) (x : Group) : (s.setGroup x).clocks = s.clocks := rfl
@[simp] theorem State.setGroup_vfEnable (s : State) (x : Group) : (s.setGroup x).vfEnable = s.vfEnable := rfl
@[simp] theorem State.setGroup_window (s : State) (x : Group) : (s.setGroup x).window = s.window := rfl
@[simp] theorem State.setGroup_regs (s : State) (x : Group) : (s.setGroup x).regs = s.regs := rfl
@[simp] theorem State.setGroup_mem (s : State) (x : Group) : (s.setGroup x).mem = s.mem := rfl
@[simp] theorem State.setGroup_cxlBytes (s : State) (x : Group) : (s.setGroup x).cxlBytes = s.cxlBytes := rfl
@[simp] theorem State.setGroup_home (s : State) (x : Group) : (s.setGroup x).home = s.home := rfl
@[simp] theorem State.setGroup_rdc (s : State) (x : Group) : (s.setGroup x).rdc = s.rdc := rfl
@[simp] theorem State.setGroup_l1 (s : State) (x : Group) : (s.setGroup x).l1 = s.l1 := rfl
@[simp] theorem State.setGroup_walks (s : State) (x : Group) : (s.setGroup x).walks = s.walks := rfl
@[simp] theorem State.setGroup_atc (s : State) (x : Group) : (s.setGroup x).atc = s.atc := rfl
@[simp] theorem State.setGroup_flight (s : State) (x : Group) : (s.setGroup x).flight = s.flight := rfl
@[simp] theorem State.setGroup_reqs (s : State) (x : Group) : (s.setGroup x).reqs = s.reqs := rfl
@[simp] theorem State.setGroup_resps (s : State) (x : Group) : (s.setGroup x).resps = s.resps := rfl
@[simp] theorem State.setGroup_priReqs (s : State) (x : Group) : (s.setGroup x).priReqs = s.priReqs := rfl
@[simp] theorem State.setGroup_vds (s : State) (x : Group) : (s.setGroup x).vds = s.vds := rfl
@[simp] theorem State.setGroup_parts (s : State) (x : Group) : (s.setGroup x).parts = s.parts := rfl
@[simp] theorem State.setGroup_partPend (s : State) (x : Group) : (s.setGroup x).partPend = s.partPend := rfl
@[simp] theorem State.setGroup_threads (s : State) (x : Group) : (s.setGroup x).threads = s.threads := rfl
@[simp] theorem State.setGroup_grids (s : State) (x : Group) : (s.setGroup x).grids = s.grids := rfl
@[simp] theorem State.setGroup_blocks (s : State) (x : Group) : (s.setGroup x).blocks = s.blocks := rfl
@[simp] theorem State.setGroup_cores (s : State) (x : Group) : (s.setGroup x).cores = s.cores := rfl
@[simp] theorem State.setGroup_clusters (s : State) (x : Group) : (s.setGroup x).clusters = s.clusters := rfl
@[simp] theorem State.setGroup_buckets (s : State) (x : Group) : (s.setGroup x).buckets = s.buckets := rfl
@[simp] theorem State.setGroup_ports (s : State) (x : Group) : (s.setGroup x).ports = s.ports := rfl
@[simp] theorem State.setGroup_txns (s : State) (x : Group) : (s.setGroup x).txns = s.txns := rfl
@[simp] theorem State.setGroup_bist (s : State) (x : Group) : (s.setGroup x).bist = s.bist := rfl
@[simp] theorem State.setGroup_margin (s : State) (x : Group) : (s.setGroup x).margin = s.margin := rfl
@[simp] theorem State.setGroup_out (s : State) (x : Group) : (s.setGroup x).out = s.out := rfl
@[simp] theorem State.setGroup_agenda (s : State) (x : Group) : (s.setGroup x).agenda = s.agenda := rfl
@[simp] theorem State.setGroup_cur (s : State) (x : Group) : (s.setGroup x).cur = s.cur := rfl
@[simp] theorem State.setGroup_free (s : State) (x : Group) : (s.setGroup x).free = s.free := rfl
@[simp] theorem State.setGroup_nextId (s : State) (x : Group) : (s.setGroup x).nextId = s.nextId := rfl

/-! ### setBlock -/

@[simp] theorem State.setBlock_timebase (s : State) (x : Block) : (s.setBlock x).timebase = s.timebase := rfl
@[simp] theorem State.setBlock_mfg (s : State) (x : Block) : (s.setBlock x).mfg = s.mfg := rfl
@[simp] theorem State.setBlock_clkFault (s : State) (x : Block) : (s.setBlock x).clkFault = s.clkFault := rfl
@[simp] theorem State.setBlock_recovery (s : State) (x : Block) : (s.setBlock x).recovery = s.recovery := rfl
@[simp] theorem State.setBlock_staging (s : State) (x : Block) : (s.setBlock x).staging = s.staging := rfl
@[simp] theorem State.setBlock_fusedSvn (s : State) (x : Block) : (s.setBlock x).fusedSvn = s.fusedSvn := rfl
@[simp] theorem State.setBlock_keyDigest (s : State) (x : Block) : (s.setBlock x).keyDigest = s.keyDigest := rfl
@[simp] theorem State.setBlock_image (s : State) (x : Block) : (s.setBlock x).image = s.image := rfl
@[simp] theorem State.setBlock_defects (s : State) (x : Block) : (s.setBlock x).defects = s.defects := rfl
@[simp] theorem State.setBlock_power (s : State) (x : Block) : (s.setBlock x).power = s.power := rfl
@[simp] theorem State.setBlock_idleAt (s : State) (x : Block) : (s.setBlock x).idleAt = s.idleAt := rfl
@[simp] theorem State.setBlock_clocks (s : State) (x : Block) : (s.setBlock x).clocks = s.clocks := rfl
@[simp] theorem State.setBlock_vfEnable (s : State) (x : Block) : (s.setBlock x).vfEnable = s.vfEnable := rfl
@[simp] theorem State.setBlock_window (s : State) (x : Block) : (s.setBlock x).window = s.window := rfl
@[simp] theorem State.setBlock_regs (s : State) (x : Block) : (s.setBlock x).regs = s.regs := rfl
@[simp] theorem State.setBlock_mem (s : State) (x : Block) : (s.setBlock x).mem = s.mem := rfl
@[simp] theorem State.setBlock_cxlBytes (s : State) (x : Block) : (s.setBlock x).cxlBytes = s.cxlBytes := rfl
@[simp] theorem State.setBlock_home (s : State) (x : Block) : (s.setBlock x).home = s.home := rfl
@[simp] theorem State.setBlock_rdc (s : State) (x : Block) : (s.setBlock x).rdc = s.rdc := rfl
@[simp] theorem State.setBlock_l1 (s : State) (x : Block) : (s.setBlock x).l1 = s.l1 := rfl
@[simp] theorem State.setBlock_walks (s : State) (x : Block) : (s.setBlock x).walks = s.walks := rfl
@[simp] theorem State.setBlock_atc (s : State) (x : Block) : (s.setBlock x).atc = s.atc := rfl
@[simp] theorem State.setBlock_flight (s : State) (x : Block) : (s.setBlock x).flight = s.flight := rfl
@[simp] theorem State.setBlock_reqs (s : State) (x : Block) : (s.setBlock x).reqs = s.reqs := rfl
@[simp] theorem State.setBlock_resps (s : State) (x : Block) : (s.setBlock x).resps = s.resps := rfl
@[simp] theorem State.setBlock_priReqs (s : State) (x : Block) : (s.setBlock x).priReqs = s.priReqs := rfl
@[simp] theorem State.setBlock_vds (s : State) (x : Block) : (s.setBlock x).vds = s.vds := rfl
@[simp] theorem State.setBlock_parts (s : State) (x : Block) : (s.setBlock x).parts = s.parts := rfl
@[simp] theorem State.setBlock_partPend (s : State) (x : Block) : (s.setBlock x).partPend = s.partPend := rfl
@[simp] theorem State.setBlock_threads (s : State) (x : Block) : (s.setBlock x).threads = s.threads := rfl
@[simp] theorem State.setBlock_grids (s : State) (x : Block) : (s.setBlock x).grids = s.grids := rfl
@[simp] theorem State.setBlock_groups (s : State) (x : Block) : (s.setBlock x).groups = s.groups := rfl
@[simp] theorem State.setBlock_cores (s : State) (x : Block) : (s.setBlock x).cores = s.cores := rfl
@[simp] theorem State.setBlock_clusters (s : State) (x : Block) : (s.setBlock x).clusters = s.clusters := rfl
@[simp] theorem State.setBlock_buckets (s : State) (x : Block) : (s.setBlock x).buckets = s.buckets := rfl
@[simp] theorem State.setBlock_ports (s : State) (x : Block) : (s.setBlock x).ports = s.ports := rfl
@[simp] theorem State.setBlock_txns (s : State) (x : Block) : (s.setBlock x).txns = s.txns := rfl
@[simp] theorem State.setBlock_bist (s : State) (x : Block) : (s.setBlock x).bist = s.bist := rfl
@[simp] theorem State.setBlock_margin (s : State) (x : Block) : (s.setBlock x).margin = s.margin := rfl
@[simp] theorem State.setBlock_out (s : State) (x : Block) : (s.setBlock x).out = s.out := rfl
@[simp] theorem State.setBlock_agenda (s : State) (x : Block) : (s.setBlock x).agenda = s.agenda := rfl
@[simp] theorem State.setBlock_cur (s : State) (x : Block) : (s.setBlock x).cur = s.cur := rfl
@[simp] theorem State.setBlock_free (s : State) (x : Block) : (s.setBlock x).free = s.free := rfl
@[simp] theorem State.setBlock_nextId (s : State) (x : Block) : (s.setBlock x).nextId = s.nextId := rfl

/-! ### setGrid -/

@[simp] theorem State.setGrid_timebase (s : State) (x : Grid) : (s.setGrid x).timebase = s.timebase := rfl
@[simp] theorem State.setGrid_mfg (s : State) (x : Grid) : (s.setGrid x).mfg = s.mfg := rfl
@[simp] theorem State.setGrid_clkFault (s : State) (x : Grid) : (s.setGrid x).clkFault = s.clkFault := rfl
@[simp] theorem State.setGrid_recovery (s : State) (x : Grid) : (s.setGrid x).recovery = s.recovery := rfl
@[simp] theorem State.setGrid_staging (s : State) (x : Grid) : (s.setGrid x).staging = s.staging := rfl
@[simp] theorem State.setGrid_fusedSvn (s : State) (x : Grid) : (s.setGrid x).fusedSvn = s.fusedSvn := rfl
@[simp] theorem State.setGrid_keyDigest (s : State) (x : Grid) : (s.setGrid x).keyDigest = s.keyDigest := rfl
@[simp] theorem State.setGrid_image (s : State) (x : Grid) : (s.setGrid x).image = s.image := rfl
@[simp] theorem State.setGrid_defects (s : State) (x : Grid) : (s.setGrid x).defects = s.defects := rfl
@[simp] theorem State.setGrid_power (s : State) (x : Grid) : (s.setGrid x).power = s.power := rfl
@[simp] theorem State.setGrid_idleAt (s : State) (x : Grid) : (s.setGrid x).idleAt = s.idleAt := rfl
@[simp] theorem State.setGrid_clocks (s : State) (x : Grid) : (s.setGrid x).clocks = s.clocks := rfl
@[simp] theorem State.setGrid_vfEnable (s : State) (x : Grid) : (s.setGrid x).vfEnable = s.vfEnable := rfl
@[simp] theorem State.setGrid_window (s : State) (x : Grid) : (s.setGrid x).window = s.window := rfl
@[simp] theorem State.setGrid_regs (s : State) (x : Grid) : (s.setGrid x).regs = s.regs := rfl
@[simp] theorem State.setGrid_mem (s : State) (x : Grid) : (s.setGrid x).mem = s.mem := rfl
@[simp] theorem State.setGrid_cxlBytes (s : State) (x : Grid) : (s.setGrid x).cxlBytes = s.cxlBytes := rfl
@[simp] theorem State.setGrid_home (s : State) (x : Grid) : (s.setGrid x).home = s.home := rfl
@[simp] theorem State.setGrid_rdc (s : State) (x : Grid) : (s.setGrid x).rdc = s.rdc := rfl
@[simp] theorem State.setGrid_l1 (s : State) (x : Grid) : (s.setGrid x).l1 = s.l1 := rfl
@[simp] theorem State.setGrid_walks (s : State) (x : Grid) : (s.setGrid x).walks = s.walks := rfl
@[simp] theorem State.setGrid_atc (s : State) (x : Grid) : (s.setGrid x).atc = s.atc := rfl
@[simp] theorem State.setGrid_flight (s : State) (x : Grid) : (s.setGrid x).flight = s.flight := rfl
@[simp] theorem State.setGrid_reqs (s : State) (x : Grid) : (s.setGrid x).reqs = s.reqs := rfl
@[simp] theorem State.setGrid_resps (s : State) (x : Grid) : (s.setGrid x).resps = s.resps := rfl
@[simp] theorem State.setGrid_priReqs (s : State) (x : Grid) : (s.setGrid x).priReqs = s.priReqs := rfl
@[simp] theorem State.setGrid_vds (s : State) (x : Grid) : (s.setGrid x).vds = s.vds := rfl
@[simp] theorem State.setGrid_parts (s : State) (x : Grid) : (s.setGrid x).parts = s.parts := rfl
@[simp] theorem State.setGrid_partPend (s : State) (x : Grid) : (s.setGrid x).partPend = s.partPend := rfl
@[simp] theorem State.setGrid_threads (s : State) (x : Grid) : (s.setGrid x).threads = s.threads := rfl
@[simp] theorem State.setGrid_blocks (s : State) (x : Grid) : (s.setGrid x).blocks = s.blocks := rfl
@[simp] theorem State.setGrid_groups (s : State) (x : Grid) : (s.setGrid x).groups = s.groups := rfl
@[simp] theorem State.setGrid_cores (s : State) (x : Grid) : (s.setGrid x).cores = s.cores := rfl
@[simp] theorem State.setGrid_clusters (s : State) (x : Grid) : (s.setGrid x).clusters = s.clusters := rfl
@[simp] theorem State.setGrid_buckets (s : State) (x : Grid) : (s.setGrid x).buckets = s.buckets := rfl
@[simp] theorem State.setGrid_ports (s : State) (x : Grid) : (s.setGrid x).ports = s.ports := rfl
@[simp] theorem State.setGrid_txns (s : State) (x : Grid) : (s.setGrid x).txns = s.txns := rfl
@[simp] theorem State.setGrid_bist (s : State) (x : Grid) : (s.setGrid x).bist = s.bist := rfl
@[simp] theorem State.setGrid_margin (s : State) (x : Grid) : (s.setGrid x).margin = s.margin := rfl
@[simp] theorem State.setGrid_out (s : State) (x : Grid) : (s.setGrid x).out = s.out := rfl
@[simp] theorem State.setGrid_agenda (s : State) (x : Grid) : (s.setGrid x).agenda = s.agenda := rfl
@[simp] theorem State.setGrid_cur (s : State) (x : Grid) : (s.setGrid x).cur = s.cur := rfl
@[simp] theorem State.setGrid_free (s : State) (x : Grid) : (s.setGrid x).free = s.free := rfl
@[simp] theorem State.setGrid_nextId (s : State) (x : Grid) : (s.setGrid x).nextId = s.nextId := rfl

/-! ### setVdev -/

@[simp] theorem State.setVdev_timebase (s : State) (x : VirtDev) : (s.setVdev x).timebase = s.timebase := rfl
@[simp] theorem State.setVdev_mfg (s : State) (x : VirtDev) : (s.setVdev x).mfg = s.mfg := rfl
@[simp] theorem State.setVdev_clkFault (s : State) (x : VirtDev) : (s.setVdev x).clkFault = s.clkFault := rfl
@[simp] theorem State.setVdev_recovery (s : State) (x : VirtDev) : (s.setVdev x).recovery = s.recovery := rfl
@[simp] theorem State.setVdev_staging (s : State) (x : VirtDev) : (s.setVdev x).staging = s.staging := rfl
@[simp] theorem State.setVdev_fusedSvn (s : State) (x : VirtDev) : (s.setVdev x).fusedSvn = s.fusedSvn := rfl
@[simp] theorem State.setVdev_keyDigest (s : State) (x : VirtDev) : (s.setVdev x).keyDigest = s.keyDigest := rfl
@[simp] theorem State.setVdev_image (s : State) (x : VirtDev) : (s.setVdev x).image = s.image := rfl
@[simp] theorem State.setVdev_defects (s : State) (x : VirtDev) : (s.setVdev x).defects = s.defects := rfl
@[simp] theorem State.setVdev_power (s : State) (x : VirtDev) : (s.setVdev x).power = s.power := rfl
@[simp] theorem State.setVdev_idleAt (s : State) (x : VirtDev) : (s.setVdev x).idleAt = s.idleAt := rfl
@[simp] theorem State.setVdev_clocks (s : State) (x : VirtDev) : (s.setVdev x).clocks = s.clocks := rfl
@[simp] theorem State.setVdev_vfEnable (s : State) (x : VirtDev) : (s.setVdev x).vfEnable = s.vfEnable := rfl
@[simp] theorem State.setVdev_window (s : State) (x : VirtDev) : (s.setVdev x).window = s.window := rfl
@[simp] theorem State.setVdev_regs (s : State) (x : VirtDev) : (s.setVdev x).regs = s.regs := rfl
@[simp] theorem State.setVdev_mem (s : State) (x : VirtDev) : (s.setVdev x).mem = s.mem := rfl
@[simp] theorem State.setVdev_cxlBytes (s : State) (x : VirtDev) : (s.setVdev x).cxlBytes = s.cxlBytes := rfl
@[simp] theorem State.setVdev_home (s : State) (x : VirtDev) : (s.setVdev x).home = s.home := rfl
@[simp] theorem State.setVdev_rdc (s : State) (x : VirtDev) : (s.setVdev x).rdc = s.rdc := rfl
@[simp] theorem State.setVdev_l1 (s : State) (x : VirtDev) : (s.setVdev x).l1 = s.l1 := rfl
@[simp] theorem State.setVdev_walks (s : State) (x : VirtDev) : (s.setVdev x).walks = s.walks := rfl
@[simp] theorem State.setVdev_atc (s : State) (x : VirtDev) : (s.setVdev x).atc = s.atc := rfl
@[simp] theorem State.setVdev_flight (s : State) (x : VirtDev) : (s.setVdev x).flight = s.flight := rfl
@[simp] theorem State.setVdev_reqs (s : State) (x : VirtDev) : (s.setVdev x).reqs = s.reqs := rfl
@[simp] theorem State.setVdev_resps (s : State) (x : VirtDev) : (s.setVdev x).resps = s.resps := rfl
@[simp] theorem State.setVdev_priReqs (s : State) (x : VirtDev) : (s.setVdev x).priReqs = s.priReqs := rfl
@[simp] theorem State.setVdev_parts (s : State) (x : VirtDev) : (s.setVdev x).parts = s.parts := rfl
@[simp] theorem State.setVdev_partPend (s : State) (x : VirtDev) : (s.setVdev x).partPend = s.partPend := rfl
@[simp] theorem State.setVdev_threads (s : State) (x : VirtDev) : (s.setVdev x).threads = s.threads := rfl
@[simp] theorem State.setVdev_grids (s : State) (x : VirtDev) : (s.setVdev x).grids = s.grids := rfl
@[simp] theorem State.setVdev_blocks (s : State) (x : VirtDev) : (s.setVdev x).blocks = s.blocks := rfl
@[simp] theorem State.setVdev_groups (s : State) (x : VirtDev) : (s.setVdev x).groups = s.groups := rfl
@[simp] theorem State.setVdev_cores (s : State) (x : VirtDev) : (s.setVdev x).cores = s.cores := rfl
@[simp] theorem State.setVdev_clusters (s : State) (x : VirtDev) : (s.setVdev x).clusters = s.clusters := rfl
@[simp] theorem State.setVdev_buckets (s : State) (x : VirtDev) : (s.setVdev x).buckets = s.buckets := rfl
@[simp] theorem State.setVdev_ports (s : State) (x : VirtDev) : (s.setVdev x).ports = s.ports := rfl
@[simp] theorem State.setVdev_txns (s : State) (x : VirtDev) : (s.setVdev x).txns = s.txns := rfl
@[simp] theorem State.setVdev_bist (s : State) (x : VirtDev) : (s.setVdev x).bist = s.bist := rfl
@[simp] theorem State.setVdev_margin (s : State) (x : VirtDev) : (s.setVdev x).margin = s.margin := rfl
@[simp] theorem State.setVdev_out (s : State) (x : VirtDev) : (s.setVdev x).out = s.out := rfl
@[simp] theorem State.setVdev_agenda (s : State) (x : VirtDev) : (s.setVdev x).agenda = s.agenda := rfl
@[simp] theorem State.setVdev_cur (s : State) (x : VirtDev) : (s.setVdev x).cur = s.cur := rfl
@[simp] theorem State.setVdev_free (s : State) (x : VirtDev) : (s.setVdev x).free = s.free := rfl
@[simp] theorem State.setVdev_nextId (s : State) (x : VirtDev) : (s.setVdev x).nextId = s.nextId := rfl

/-! ### setCore -/

@[simp] theorem State.setCore_timebase (s : State) (x : Core) : (s.setCore x).timebase = s.timebase := rfl
@[simp] theorem State.setCore_mfg (s : State) (x : Core) : (s.setCore x).mfg = s.mfg := rfl
@[simp] theorem State.setCore_clkFault (s : State) (x : Core) : (s.setCore x).clkFault = s.clkFault := rfl
@[simp] theorem State.setCore_recovery (s : State) (x : Core) : (s.setCore x).recovery = s.recovery := rfl
@[simp] theorem State.setCore_staging (s : State) (x : Core) : (s.setCore x).staging = s.staging := rfl
@[simp] theorem State.setCore_fusedSvn (s : State) (x : Core) : (s.setCore x).fusedSvn = s.fusedSvn := rfl
@[simp] theorem State.setCore_keyDigest (s : State) (x : Core) : (s.setCore x).keyDigest = s.keyDigest := rfl
@[simp] theorem State.setCore_image (s : State) (x : Core) : (s.setCore x).image = s.image := rfl
@[simp] theorem State.setCore_defects (s : State) (x : Core) : (s.setCore x).defects = s.defects := rfl
@[simp] theorem State.setCore_power (s : State) (x : Core) : (s.setCore x).power = s.power := rfl
@[simp] theorem State.setCore_idleAt (s : State) (x : Core) : (s.setCore x).idleAt = s.idleAt := rfl
@[simp] theorem State.setCore_clocks (s : State) (x : Core) : (s.setCore x).clocks = s.clocks := rfl
@[simp] theorem State.setCore_vfEnable (s : State) (x : Core) : (s.setCore x).vfEnable = s.vfEnable := rfl
@[simp] theorem State.setCore_window (s : State) (x : Core) : (s.setCore x).window = s.window := rfl
@[simp] theorem State.setCore_regs (s : State) (x : Core) : (s.setCore x).regs = s.regs := rfl
@[simp] theorem State.setCore_mem (s : State) (x : Core) : (s.setCore x).mem = s.mem := rfl
@[simp] theorem State.setCore_cxlBytes (s : State) (x : Core) : (s.setCore x).cxlBytes = s.cxlBytes := rfl
@[simp] theorem State.setCore_home (s : State) (x : Core) : (s.setCore x).home = s.home := rfl
@[simp] theorem State.setCore_rdc (s : State) (x : Core) : (s.setCore x).rdc = s.rdc := rfl
@[simp] theorem State.setCore_l1 (s : State) (x : Core) : (s.setCore x).l1 = s.l1 := rfl
@[simp] theorem State.setCore_walks (s : State) (x : Core) : (s.setCore x).walks = s.walks := rfl
@[simp] theorem State.setCore_atc (s : State) (x : Core) : (s.setCore x).atc = s.atc := rfl
@[simp] theorem State.setCore_flight (s : State) (x : Core) : (s.setCore x).flight = s.flight := rfl
@[simp] theorem State.setCore_reqs (s : State) (x : Core) : (s.setCore x).reqs = s.reqs := rfl
@[simp] theorem State.setCore_resps (s : State) (x : Core) : (s.setCore x).resps = s.resps := rfl
@[simp] theorem State.setCore_priReqs (s : State) (x : Core) : (s.setCore x).priReqs = s.priReqs := rfl
@[simp] theorem State.setCore_vds (s : State) (x : Core) : (s.setCore x).vds = s.vds := rfl
@[simp] theorem State.setCore_parts (s : State) (x : Core) : (s.setCore x).parts = s.parts := rfl
@[simp] theorem State.setCore_partPend (s : State) (x : Core) : (s.setCore x).partPend = s.partPend := rfl
@[simp] theorem State.setCore_threads (s : State) (x : Core) : (s.setCore x).threads = s.threads := rfl
@[simp] theorem State.setCore_grids (s : State) (x : Core) : (s.setCore x).grids = s.grids := rfl
@[simp] theorem State.setCore_blocks (s : State) (x : Core) : (s.setCore x).blocks = s.blocks := rfl
@[simp] theorem State.setCore_groups (s : State) (x : Core) : (s.setCore x).groups = s.groups := rfl
@[simp] theorem State.setCore_clusters (s : State) (x : Core) : (s.setCore x).clusters = s.clusters := rfl
@[simp] theorem State.setCore_buckets (s : State) (x : Core) : (s.setCore x).buckets = s.buckets := rfl
@[simp] theorem State.setCore_ports (s : State) (x : Core) : (s.setCore x).ports = s.ports := rfl
@[simp] theorem State.setCore_txns (s : State) (x : Core) : (s.setCore x).txns = s.txns := rfl
@[simp] theorem State.setCore_bist (s : State) (x : Core) : (s.setCore x).bist = s.bist := rfl
@[simp] theorem State.setCore_margin (s : State) (x : Core) : (s.setCore x).margin = s.margin := rfl
@[simp] theorem State.setCore_out (s : State) (x : Core) : (s.setCore x).out = s.out := rfl
@[simp] theorem State.setCore_agenda (s : State) (x : Core) : (s.setCore x).agenda = s.agenda := rfl
@[simp] theorem State.setCore_cur (s : State) (x : Core) : (s.setCore x).cur = s.cur := rfl
@[simp] theorem State.setCore_free (s : State) (x : Core) : (s.setCore x).free = s.free := rfl
@[simp] theorem State.setCore_nextId (s : State) (x : Core) : (s.setCore x).nextId = s.nextId := rfl

/-! ### setCluster -/

@[simp] theorem State.setCluster_timebase (s : State) (x : Cluster) : (s.setCluster x).timebase = s.timebase := rfl
@[simp] theorem State.setCluster_mfg (s : State) (x : Cluster) : (s.setCluster x).mfg = s.mfg := rfl
@[simp] theorem State.setCluster_clkFault (s : State) (x : Cluster) : (s.setCluster x).clkFault = s.clkFault := rfl
@[simp] theorem State.setCluster_recovery (s : State) (x : Cluster) : (s.setCluster x).recovery = s.recovery := rfl
@[simp] theorem State.setCluster_staging (s : State) (x : Cluster) : (s.setCluster x).staging = s.staging := rfl
@[simp] theorem State.setCluster_fusedSvn (s : State) (x : Cluster) : (s.setCluster x).fusedSvn = s.fusedSvn := rfl
@[simp] theorem State.setCluster_keyDigest (s : State) (x : Cluster) : (s.setCluster x).keyDigest = s.keyDigest := rfl
@[simp] theorem State.setCluster_image (s : State) (x : Cluster) : (s.setCluster x).image = s.image := rfl
@[simp] theorem State.setCluster_defects (s : State) (x : Cluster) : (s.setCluster x).defects = s.defects := rfl
@[simp] theorem State.setCluster_power (s : State) (x : Cluster) : (s.setCluster x).power = s.power := rfl
@[simp] theorem State.setCluster_idleAt (s : State) (x : Cluster) : (s.setCluster x).idleAt = s.idleAt := rfl
@[simp] theorem State.setCluster_clocks (s : State) (x : Cluster) : (s.setCluster x).clocks = s.clocks := rfl
@[simp] theorem State.setCluster_vfEnable (s : State) (x : Cluster) : (s.setCluster x).vfEnable = s.vfEnable := rfl
@[simp] theorem State.setCluster_window (s : State) (x : Cluster) : (s.setCluster x).window = s.window := rfl
@[simp] theorem State.setCluster_regs (s : State) (x : Cluster) : (s.setCluster x).regs = s.regs := rfl
@[simp] theorem State.setCluster_mem (s : State) (x : Cluster) : (s.setCluster x).mem = s.mem := rfl
@[simp] theorem State.setCluster_cxlBytes (s : State) (x : Cluster) : (s.setCluster x).cxlBytes = s.cxlBytes := rfl
@[simp] theorem State.setCluster_home (s : State) (x : Cluster) : (s.setCluster x).home = s.home := rfl
@[simp] theorem State.setCluster_rdc (s : State) (x : Cluster) : (s.setCluster x).rdc = s.rdc := rfl
@[simp] theorem State.setCluster_l1 (s : State) (x : Cluster) : (s.setCluster x).l1 = s.l1 := rfl
@[simp] theorem State.setCluster_walks (s : State) (x : Cluster) : (s.setCluster x).walks = s.walks := rfl
@[simp] theorem State.setCluster_atc (s : State) (x : Cluster) : (s.setCluster x).atc = s.atc := rfl
@[simp] theorem State.setCluster_flight (s : State) (x : Cluster) : (s.setCluster x).flight = s.flight := rfl
@[simp] theorem State.setCluster_reqs (s : State) (x : Cluster) : (s.setCluster x).reqs = s.reqs := rfl
@[simp] theorem State.setCluster_resps (s : State) (x : Cluster) : (s.setCluster x).resps = s.resps := rfl
@[simp] theorem State.setCluster_priReqs (s : State) (x : Cluster) : (s.setCluster x).priReqs = s.priReqs := rfl
@[simp] theorem State.setCluster_vds (s : State) (x : Cluster) : (s.setCluster x).vds = s.vds := rfl
@[simp] theorem State.setCluster_parts (s : State) (x : Cluster) : (s.setCluster x).parts = s.parts := rfl
@[simp] theorem State.setCluster_partPend (s : State) (x : Cluster) : (s.setCluster x).partPend = s.partPend := rfl
@[simp] theorem State.setCluster_threads (s : State) (x : Cluster) : (s.setCluster x).threads = s.threads := rfl
@[simp] theorem State.setCluster_grids (s : State) (x : Cluster) : (s.setCluster x).grids = s.grids := rfl
@[simp] theorem State.setCluster_blocks (s : State) (x : Cluster) : (s.setCluster x).blocks = s.blocks := rfl
@[simp] theorem State.setCluster_groups (s : State) (x : Cluster) : (s.setCluster x).groups = s.groups := rfl
@[simp] theorem State.setCluster_cores (s : State) (x : Cluster) : (s.setCluster x).cores = s.cores := rfl
@[simp] theorem State.setCluster_buckets (s : State) (x : Cluster) : (s.setCluster x).buckets = s.buckets := rfl
@[simp] theorem State.setCluster_ports (s : State) (x : Cluster) : (s.setCluster x).ports = s.ports := rfl
@[simp] theorem State.setCluster_txns (s : State) (x : Cluster) : (s.setCluster x).txns = s.txns := rfl
@[simp] theorem State.setCluster_bist (s : State) (x : Cluster) : (s.setCluster x).bist = s.bist := rfl
@[simp] theorem State.setCluster_margin (s : State) (x : Cluster) : (s.setCluster x).margin = s.margin := rfl
@[simp] theorem State.setCluster_out (s : State) (x : Cluster) : (s.setCluster x).out = s.out := rfl
@[simp] theorem State.setCluster_agenda (s : State) (x : Cluster) : (s.setCluster x).agenda = s.agenda := rfl
@[simp] theorem State.setCluster_cur (s : State) (x : Cluster) : (s.setCluster x).cur = s.cur := rfl
@[simp] theorem State.setCluster_free (s : State) (x : Cluster) : (s.setCluster x).free = s.free := rfl
@[simp] theorem State.setCluster_nextId (s : State) (x : Cluster) : (s.setCluster x).nextId = s.nextId := rfl

/-! ### putHome -/

@[simp] theorem State.putHome_timebase (s : State) (x : HomeLine) : (s.putHome x).timebase = s.timebase := rfl
@[simp] theorem State.putHome_mfg (s : State) (x : HomeLine) : (s.putHome x).mfg = s.mfg := rfl
@[simp] theorem State.putHome_clkFault (s : State) (x : HomeLine) : (s.putHome x).clkFault = s.clkFault := rfl
@[simp] theorem State.putHome_recovery (s : State) (x : HomeLine) : (s.putHome x).recovery = s.recovery := rfl
@[simp] theorem State.putHome_staging (s : State) (x : HomeLine) : (s.putHome x).staging = s.staging := rfl
@[simp] theorem State.putHome_fusedSvn (s : State) (x : HomeLine) : (s.putHome x).fusedSvn = s.fusedSvn := rfl
@[simp] theorem State.putHome_keyDigest (s : State) (x : HomeLine) : (s.putHome x).keyDigest = s.keyDigest := rfl
@[simp] theorem State.putHome_image (s : State) (x : HomeLine) : (s.putHome x).image = s.image := rfl
@[simp] theorem State.putHome_defects (s : State) (x : HomeLine) : (s.putHome x).defects = s.defects := rfl
@[simp] theorem State.putHome_power (s : State) (x : HomeLine) : (s.putHome x).power = s.power := rfl
@[simp] theorem State.putHome_idleAt (s : State) (x : HomeLine) : (s.putHome x).idleAt = s.idleAt := rfl
@[simp] theorem State.putHome_clocks (s : State) (x : HomeLine) : (s.putHome x).clocks = s.clocks := rfl
@[simp] theorem State.putHome_vfEnable (s : State) (x : HomeLine) : (s.putHome x).vfEnable = s.vfEnable := rfl
@[simp] theorem State.putHome_window (s : State) (x : HomeLine) : (s.putHome x).window = s.window := rfl
@[simp] theorem State.putHome_regs (s : State) (x : HomeLine) : (s.putHome x).regs = s.regs := rfl
@[simp] theorem State.putHome_mem (s : State) (x : HomeLine) : (s.putHome x).mem = s.mem := rfl
@[simp] theorem State.putHome_cxlBytes (s : State) (x : HomeLine) : (s.putHome x).cxlBytes = s.cxlBytes := rfl
@[simp] theorem State.putHome_rdc (s : State) (x : HomeLine) : (s.putHome x).rdc = s.rdc := rfl
@[simp] theorem State.putHome_l1 (s : State) (x : HomeLine) : (s.putHome x).l1 = s.l1 := rfl
@[simp] theorem State.putHome_walks (s : State) (x : HomeLine) : (s.putHome x).walks = s.walks := rfl
@[simp] theorem State.putHome_atc (s : State) (x : HomeLine) : (s.putHome x).atc = s.atc := rfl
@[simp] theorem State.putHome_flight (s : State) (x : HomeLine) : (s.putHome x).flight = s.flight := rfl
@[simp] theorem State.putHome_reqs (s : State) (x : HomeLine) : (s.putHome x).reqs = s.reqs := rfl
@[simp] theorem State.putHome_resps (s : State) (x : HomeLine) : (s.putHome x).resps = s.resps := rfl
@[simp] theorem State.putHome_priReqs (s : State) (x : HomeLine) : (s.putHome x).priReqs = s.priReqs := rfl
@[simp] theorem State.putHome_vds (s : State) (x : HomeLine) : (s.putHome x).vds = s.vds := rfl
@[simp] theorem State.putHome_parts (s : State) (x : HomeLine) : (s.putHome x).parts = s.parts := rfl
@[simp] theorem State.putHome_partPend (s : State) (x : HomeLine) : (s.putHome x).partPend = s.partPend := rfl
@[simp] theorem State.putHome_threads (s : State) (x : HomeLine) : (s.putHome x).threads = s.threads := rfl
@[simp] theorem State.putHome_grids (s : State) (x : HomeLine) : (s.putHome x).grids = s.grids := rfl
@[simp] theorem State.putHome_blocks (s : State) (x : HomeLine) : (s.putHome x).blocks = s.blocks := rfl
@[simp] theorem State.putHome_groups (s : State) (x : HomeLine) : (s.putHome x).groups = s.groups := rfl
@[simp] theorem State.putHome_cores (s : State) (x : HomeLine) : (s.putHome x).cores = s.cores := rfl
@[simp] theorem State.putHome_clusters (s : State) (x : HomeLine) : (s.putHome x).clusters = s.clusters := rfl
@[simp] theorem State.putHome_buckets (s : State) (x : HomeLine) : (s.putHome x).buckets = s.buckets := rfl
@[simp] theorem State.putHome_ports (s : State) (x : HomeLine) : (s.putHome x).ports = s.ports := rfl
@[simp] theorem State.putHome_txns (s : State) (x : HomeLine) : (s.putHome x).txns = s.txns := rfl
@[simp] theorem State.putHome_bist (s : State) (x : HomeLine) : (s.putHome x).bist = s.bist := rfl
@[simp] theorem State.putHome_margin (s : State) (x : HomeLine) : (s.putHome x).margin = s.margin := rfl
@[simp] theorem State.putHome_out (s : State) (x : HomeLine) : (s.putHome x).out = s.out := rfl
@[simp] theorem State.putHome_agenda (s : State) (x : HomeLine) : (s.putHome x).agenda = s.agenda := rfl
@[simp] theorem State.putHome_cur (s : State) (x : HomeLine) : (s.putHome x).cur = s.cur := rfl
@[simp] theorem State.putHome_free (s : State) (x : HomeLine) : (s.putHome x).free = s.free := rfl
@[simp] theorem State.putHome_nextId (s : State) (x : HomeLine) : (s.putHome x).nextId = s.nextId := rfl

/-! ### dropHome -/

@[simp] theorem State.dropHome_timebase (s : State) (x : HomeLine) : (s.dropHome x).timebase = s.timebase := rfl
@[simp] theorem State.dropHome_mfg (s : State) (x : HomeLine) : (s.dropHome x).mfg = s.mfg := rfl
@[simp] theorem State.dropHome_clkFault (s : State) (x : HomeLine) : (s.dropHome x).clkFault = s.clkFault := rfl
@[simp] theorem State.dropHome_recovery (s : State) (x : HomeLine) : (s.dropHome x).recovery = s.recovery := rfl
@[simp] theorem State.dropHome_staging (s : State) (x : HomeLine) : (s.dropHome x).staging = s.staging := rfl
@[simp] theorem State.dropHome_fusedSvn (s : State) (x : HomeLine) : (s.dropHome x).fusedSvn = s.fusedSvn := rfl
@[simp] theorem State.dropHome_keyDigest (s : State) (x : HomeLine) : (s.dropHome x).keyDigest = s.keyDigest := rfl
@[simp] theorem State.dropHome_image (s : State) (x : HomeLine) : (s.dropHome x).image = s.image := rfl
@[simp] theorem State.dropHome_defects (s : State) (x : HomeLine) : (s.dropHome x).defects = s.defects := rfl
@[simp] theorem State.dropHome_power (s : State) (x : HomeLine) : (s.dropHome x).power = s.power := rfl
@[simp] theorem State.dropHome_idleAt (s : State) (x : HomeLine) : (s.dropHome x).idleAt = s.idleAt := rfl
@[simp] theorem State.dropHome_clocks (s : State) (x : HomeLine) : (s.dropHome x).clocks = s.clocks := rfl
@[simp] theorem State.dropHome_vfEnable (s : State) (x : HomeLine) : (s.dropHome x).vfEnable = s.vfEnable := rfl
@[simp] theorem State.dropHome_window (s : State) (x : HomeLine) : (s.dropHome x).window = s.window := rfl
@[simp] theorem State.dropHome_regs (s : State) (x : HomeLine) : (s.dropHome x).regs = s.regs := rfl
@[simp] theorem State.dropHome_mem (s : State) (x : HomeLine) : (s.dropHome x).mem = s.mem := rfl
@[simp] theorem State.dropHome_cxlBytes (s : State) (x : HomeLine) : (s.dropHome x).cxlBytes = s.cxlBytes := rfl
@[simp] theorem State.dropHome_rdc (s : State) (x : HomeLine) : (s.dropHome x).rdc = s.rdc := rfl
@[simp] theorem State.dropHome_l1 (s : State) (x : HomeLine) : (s.dropHome x).l1 = s.l1 := rfl
@[simp] theorem State.dropHome_walks (s : State) (x : HomeLine) : (s.dropHome x).walks = s.walks := rfl
@[simp] theorem State.dropHome_atc (s : State) (x : HomeLine) : (s.dropHome x).atc = s.atc := rfl
@[simp] theorem State.dropHome_flight (s : State) (x : HomeLine) : (s.dropHome x).flight = s.flight := rfl
@[simp] theorem State.dropHome_reqs (s : State) (x : HomeLine) : (s.dropHome x).reqs = s.reqs := rfl
@[simp] theorem State.dropHome_resps (s : State) (x : HomeLine) : (s.dropHome x).resps = s.resps := rfl
@[simp] theorem State.dropHome_priReqs (s : State) (x : HomeLine) : (s.dropHome x).priReqs = s.priReqs := rfl
@[simp] theorem State.dropHome_vds (s : State) (x : HomeLine) : (s.dropHome x).vds = s.vds := rfl
@[simp] theorem State.dropHome_parts (s : State) (x : HomeLine) : (s.dropHome x).parts = s.parts := rfl
@[simp] theorem State.dropHome_partPend (s : State) (x : HomeLine) : (s.dropHome x).partPend = s.partPend := rfl
@[simp] theorem State.dropHome_threads (s : State) (x : HomeLine) : (s.dropHome x).threads = s.threads := rfl
@[simp] theorem State.dropHome_grids (s : State) (x : HomeLine) : (s.dropHome x).grids = s.grids := rfl
@[simp] theorem State.dropHome_blocks (s : State) (x : HomeLine) : (s.dropHome x).blocks = s.blocks := rfl
@[simp] theorem State.dropHome_groups (s : State) (x : HomeLine) : (s.dropHome x).groups = s.groups := rfl
@[simp] theorem State.dropHome_cores (s : State) (x : HomeLine) : (s.dropHome x).cores = s.cores := rfl
@[simp] theorem State.dropHome_clusters (s : State) (x : HomeLine) : (s.dropHome x).clusters = s.clusters := rfl
@[simp] theorem State.dropHome_buckets (s : State) (x : HomeLine) : (s.dropHome x).buckets = s.buckets := rfl
@[simp] theorem State.dropHome_ports (s : State) (x : HomeLine) : (s.dropHome x).ports = s.ports := rfl
@[simp] theorem State.dropHome_txns (s : State) (x : HomeLine) : (s.dropHome x).txns = s.txns := rfl
@[simp] theorem State.dropHome_bist (s : State) (x : HomeLine) : (s.dropHome x).bist = s.bist := rfl
@[simp] theorem State.dropHome_margin (s : State) (x : HomeLine) : (s.dropHome x).margin = s.margin := rfl
@[simp] theorem State.dropHome_out (s : State) (x : HomeLine) : (s.dropHome x).out = s.out := rfl
@[simp] theorem State.dropHome_agenda (s : State) (x : HomeLine) : (s.dropHome x).agenda = s.agenda := rfl
@[simp] theorem State.dropHome_cur (s : State) (x : HomeLine) : (s.dropHome x).cur = s.cur := rfl
@[simp] theorem State.dropHome_free (s : State) (x : HomeLine) : (s.dropHome x).free = s.free := rfl
@[simp] theorem State.dropHome_nextId (s : State) (x : HomeLine) : (s.dropHome x).nextId = s.nextId := rfl

/-! ### setThread -/

@[simp] theorem State.setThread_timebase (s : State) (x : Thread) : (s.setThread x).timebase = s.timebase := rfl
@[simp] theorem State.setThread_mfg (s : State) (x : Thread) : (s.setThread x).mfg = s.mfg := rfl
@[simp] theorem State.setThread_clkFault (s : State) (x : Thread) : (s.setThread x).clkFault = s.clkFault := rfl
@[simp] theorem State.setThread_recovery (s : State) (x : Thread) : (s.setThread x).recovery = s.recovery := rfl
@[simp] theorem State.setThread_staging (s : State) (x : Thread) : (s.setThread x).staging = s.staging := rfl
@[simp] theorem State.setThread_fusedSvn (s : State) (x : Thread) : (s.setThread x).fusedSvn = s.fusedSvn := rfl
@[simp] theorem State.setThread_keyDigest (s : State) (x : Thread) : (s.setThread x).keyDigest = s.keyDigest := rfl
@[simp] theorem State.setThread_image (s : State) (x : Thread) : (s.setThread x).image = s.image := rfl
@[simp] theorem State.setThread_defects (s : State) (x : Thread) : (s.setThread x).defects = s.defects := rfl
@[simp] theorem State.setThread_power (s : State) (x : Thread) : (s.setThread x).power = s.power := rfl
@[simp] theorem State.setThread_idleAt (s : State) (x : Thread) : (s.setThread x).idleAt = s.idleAt := rfl
@[simp] theorem State.setThread_clocks (s : State) (x : Thread) : (s.setThread x).clocks = s.clocks := rfl
@[simp] theorem State.setThread_vfEnable (s : State) (x : Thread) : (s.setThread x).vfEnable = s.vfEnable := rfl
@[simp] theorem State.setThread_window (s : State) (x : Thread) : (s.setThread x).window = s.window := rfl
@[simp] theorem State.setThread_regs (s : State) (x : Thread) : (s.setThread x).regs = s.regs := rfl
@[simp] theorem State.setThread_mem (s : State) (x : Thread) : (s.setThread x).mem = s.mem := rfl
@[simp] theorem State.setThread_cxlBytes (s : State) (x : Thread) : (s.setThread x).cxlBytes = s.cxlBytes := rfl
@[simp] theorem State.setThread_home (s : State) (x : Thread) : (s.setThread x).home = s.home := rfl
@[simp] theorem State.setThread_rdc (s : State) (x : Thread) : (s.setThread x).rdc = s.rdc := rfl
@[simp] theorem State.setThread_l1 (s : State) (x : Thread) : (s.setThread x).l1 = s.l1 := rfl
@[simp] theorem State.setThread_walks (s : State) (x : Thread) : (s.setThread x).walks = s.walks := rfl
@[simp] theorem State.setThread_atc (s : State) (x : Thread) : (s.setThread x).atc = s.atc := rfl
@[simp] theorem State.setThread_flight (s : State) (x : Thread) : (s.setThread x).flight = s.flight := rfl
@[simp] theorem State.setThread_reqs (s : State) (x : Thread) : (s.setThread x).reqs = s.reqs := rfl
@[simp] theorem State.setThread_resps (s : State) (x : Thread) : (s.setThread x).resps = s.resps := rfl
@[simp] theorem State.setThread_priReqs (s : State) (x : Thread) : (s.setThread x).priReqs = s.priReqs := rfl
@[simp] theorem State.setThread_vds (s : State) (x : Thread) : (s.setThread x).vds = s.vds := rfl
@[simp] theorem State.setThread_parts (s : State) (x : Thread) : (s.setThread x).parts = s.parts := rfl
@[simp] theorem State.setThread_partPend (s : State) (x : Thread) : (s.setThread x).partPend = s.partPend := rfl
@[simp] theorem State.setThread_grids (s : State) (x : Thread) : (s.setThread x).grids = s.grids := rfl
@[simp] theorem State.setThread_blocks (s : State) (x : Thread) : (s.setThread x).blocks = s.blocks := rfl
@[simp] theorem State.setThread_groups (s : State) (x : Thread) : (s.setThread x).groups = s.groups := rfl
@[simp] theorem State.setThread_cores (s : State) (x : Thread) : (s.setThread x).cores = s.cores := rfl
@[simp] theorem State.setThread_clusters (s : State) (x : Thread) : (s.setThread x).clusters = s.clusters := rfl
@[simp] theorem State.setThread_buckets (s : State) (x : Thread) : (s.setThread x).buckets = s.buckets := rfl
@[simp] theorem State.setThread_ports (s : State) (x : Thread) : (s.setThread x).ports = s.ports := rfl
@[simp] theorem State.setThread_txns (s : State) (x : Thread) : (s.setThread x).txns = s.txns := rfl
@[simp] theorem State.setThread_bist (s : State) (x : Thread) : (s.setThread x).bist = s.bist := rfl
@[simp] theorem State.setThread_margin (s : State) (x : Thread) : (s.setThread x).margin = s.margin := rfl
@[simp] theorem State.setThread_out (s : State) (x : Thread) : (s.setThread x).out = s.out := rfl
@[simp] theorem State.setThread_agenda (s : State) (x : Thread) : (s.setThread x).agenda = s.agenda := rfl
@[simp] theorem State.setThread_cur (s : State) (x : Thread) : (s.setThread x).cur = s.cur := rfl
@[simp] theorem State.setThread_free (s : State) (x : Thread) : (s.setThread x).free = s.free := rfl
@[simp] theorem State.setThread_nextId (s : State) (x : Thread) : (s.setThread x).nextId = s.nextId := rfl

/-! ### setBucket -/

@[simp] theorem State.setBucket_timebase (s : State) (x : Bucket) : (s.setBucket x).timebase = s.timebase := rfl
@[simp] theorem State.setBucket_mfg (s : State) (x : Bucket) : (s.setBucket x).mfg = s.mfg := rfl
@[simp] theorem State.setBucket_clkFault (s : State) (x : Bucket) : (s.setBucket x).clkFault = s.clkFault := rfl
@[simp] theorem State.setBucket_recovery (s : State) (x : Bucket) : (s.setBucket x).recovery = s.recovery := rfl
@[simp] theorem State.setBucket_staging (s : State) (x : Bucket) : (s.setBucket x).staging = s.staging := rfl
@[simp] theorem State.setBucket_fusedSvn (s : State) (x : Bucket) : (s.setBucket x).fusedSvn = s.fusedSvn := rfl
@[simp] theorem State.setBucket_keyDigest (s : State) (x : Bucket) : (s.setBucket x).keyDigest = s.keyDigest := rfl
@[simp] theorem State.setBucket_image (s : State) (x : Bucket) : (s.setBucket x).image = s.image := rfl
@[simp] theorem State.setBucket_defects (s : State) (x : Bucket) : (s.setBucket x).defects = s.defects := rfl
@[simp] theorem State.setBucket_power (s : State) (x : Bucket) : (s.setBucket x).power = s.power := rfl
@[simp] theorem State.setBucket_idleAt (s : State) (x : Bucket) : (s.setBucket x).idleAt = s.idleAt := rfl
@[simp] theorem State.setBucket_clocks (s : State) (x : Bucket) : (s.setBucket x).clocks = s.clocks := rfl
@[simp] theorem State.setBucket_vfEnable (s : State) (x : Bucket) : (s.setBucket x).vfEnable = s.vfEnable := rfl
@[simp] theorem State.setBucket_window (s : State) (x : Bucket) : (s.setBucket x).window = s.window := rfl
@[simp] theorem State.setBucket_regs (s : State) (x : Bucket) : (s.setBucket x).regs = s.regs := rfl
@[simp] theorem State.setBucket_mem (s : State) (x : Bucket) : (s.setBucket x).mem = s.mem := rfl
@[simp] theorem State.setBucket_cxlBytes (s : State) (x : Bucket) : (s.setBucket x).cxlBytes = s.cxlBytes := rfl
@[simp] theorem State.setBucket_home (s : State) (x : Bucket) : (s.setBucket x).home = s.home := rfl
@[simp] theorem State.setBucket_rdc (s : State) (x : Bucket) : (s.setBucket x).rdc = s.rdc := rfl
@[simp] theorem State.setBucket_l1 (s : State) (x : Bucket) : (s.setBucket x).l1 = s.l1 := rfl
@[simp] theorem State.setBucket_walks (s : State) (x : Bucket) : (s.setBucket x).walks = s.walks := rfl
@[simp] theorem State.setBucket_atc (s : State) (x : Bucket) : (s.setBucket x).atc = s.atc := rfl
@[simp] theorem State.setBucket_flight (s : State) (x : Bucket) : (s.setBucket x).flight = s.flight := rfl
@[simp] theorem State.setBucket_reqs (s : State) (x : Bucket) : (s.setBucket x).reqs = s.reqs := rfl
@[simp] theorem State.setBucket_resps (s : State) (x : Bucket) : (s.setBucket x).resps = s.resps := rfl
@[simp] theorem State.setBucket_priReqs (s : State) (x : Bucket) : (s.setBucket x).priReqs = s.priReqs := rfl
@[simp] theorem State.setBucket_vds (s : State) (x : Bucket) : (s.setBucket x).vds = s.vds := rfl
@[simp] theorem State.setBucket_parts (s : State) (x : Bucket) : (s.setBucket x).parts = s.parts := rfl
@[simp] theorem State.setBucket_partPend (s : State) (x : Bucket) : (s.setBucket x).partPend = s.partPend := rfl
@[simp] theorem State.setBucket_threads (s : State) (x : Bucket) : (s.setBucket x).threads = s.threads := rfl
@[simp] theorem State.setBucket_grids (s : State) (x : Bucket) : (s.setBucket x).grids = s.grids := rfl
@[simp] theorem State.setBucket_blocks (s : State) (x : Bucket) : (s.setBucket x).blocks = s.blocks := rfl
@[simp] theorem State.setBucket_groups (s : State) (x : Bucket) : (s.setBucket x).groups = s.groups := rfl
@[simp] theorem State.setBucket_cores (s : State) (x : Bucket) : (s.setBucket x).cores = s.cores := rfl
@[simp] theorem State.setBucket_clusters (s : State) (x : Bucket) : (s.setBucket x).clusters = s.clusters := rfl
@[simp] theorem State.setBucket_ports (s : State) (x : Bucket) : (s.setBucket x).ports = s.ports := rfl
@[simp] theorem State.setBucket_txns (s : State) (x : Bucket) : (s.setBucket x).txns = s.txns := rfl
@[simp] theorem State.setBucket_bist (s : State) (x : Bucket) : (s.setBucket x).bist = s.bist := rfl
@[simp] theorem State.setBucket_margin (s : State) (x : Bucket) : (s.setBucket x).margin = s.margin := rfl
@[simp] theorem State.setBucket_out (s : State) (x : Bucket) : (s.setBucket x).out = s.out := rfl
@[simp] theorem State.setBucket_agenda (s : State) (x : Bucket) : (s.setBucket x).agenda = s.agenda := rfl
@[simp] theorem State.setBucket_cur (s : State) (x : Bucket) : (s.setBucket x).cur = s.cur := rfl
@[simp] theorem State.setBucket_free (s : State) (x : Bucket) : (s.setBucket x).free = s.free := rfl
@[simp] theorem State.setBucket_nextId (s : State) (x : Bucket) : (s.setBucket x).nextId = s.nextId := rfl

/-! ### setPort -/

@[simp] theorem State.setPort_timebase (s : State) (x : Port) : (s.setPort x).timebase = s.timebase := rfl
@[simp] theorem State.setPort_mfg (s : State) (x : Port) : (s.setPort x).mfg = s.mfg := rfl
@[simp] theorem State.setPort_clkFault (s : State) (x : Port) : (s.setPort x).clkFault = s.clkFault := rfl
@[simp] theorem State.setPort_recovery (s : State) (x : Port) : (s.setPort x).recovery = s.recovery := rfl
@[simp] theorem State.setPort_staging (s : State) (x : Port) : (s.setPort x).staging = s.staging := rfl
@[simp] theorem State.setPort_fusedSvn (s : State) (x : Port) : (s.setPort x).fusedSvn = s.fusedSvn := rfl
@[simp] theorem State.setPort_keyDigest (s : State) (x : Port) : (s.setPort x).keyDigest = s.keyDigest := rfl
@[simp] theorem State.setPort_image (s : State) (x : Port) : (s.setPort x).image = s.image := rfl
@[simp] theorem State.setPort_defects (s : State) (x : Port) : (s.setPort x).defects = s.defects := rfl
@[simp] theorem State.setPort_power (s : State) (x : Port) : (s.setPort x).power = s.power := rfl
@[simp] theorem State.setPort_idleAt (s : State) (x : Port) : (s.setPort x).idleAt = s.idleAt := rfl
@[simp] theorem State.setPort_clocks (s : State) (x : Port) : (s.setPort x).clocks = s.clocks := rfl
@[simp] theorem State.setPort_vfEnable (s : State) (x : Port) : (s.setPort x).vfEnable = s.vfEnable := rfl
@[simp] theorem State.setPort_window (s : State) (x : Port) : (s.setPort x).window = s.window := rfl
@[simp] theorem State.setPort_regs (s : State) (x : Port) : (s.setPort x).regs = s.regs := rfl
@[simp] theorem State.setPort_mem (s : State) (x : Port) : (s.setPort x).mem = s.mem := rfl
@[simp] theorem State.setPort_cxlBytes (s : State) (x : Port) : (s.setPort x).cxlBytes = s.cxlBytes := rfl
@[simp] theorem State.setPort_home (s : State) (x : Port) : (s.setPort x).home = s.home := rfl
@[simp] theorem State.setPort_rdc (s : State) (x : Port) : (s.setPort x).rdc = s.rdc := rfl
@[simp] theorem State.setPort_l1 (s : State) (x : Port) : (s.setPort x).l1 = s.l1 := rfl
@[simp] theorem State.setPort_walks (s : State) (x : Port) : (s.setPort x).walks = s.walks := rfl
@[simp] theorem State.setPort_atc (s : State) (x : Port) : (s.setPort x).atc = s.atc := rfl
@[simp] theorem State.setPort_flight (s : State) (x : Port) : (s.setPort x).flight = s.flight := rfl
@[simp] theorem State.setPort_reqs (s : State) (x : Port) : (s.setPort x).reqs = s.reqs := rfl
@[simp] theorem State.setPort_resps (s : State) (x : Port) : (s.setPort x).resps = s.resps := rfl
@[simp] theorem State.setPort_priReqs (s : State) (x : Port) : (s.setPort x).priReqs = s.priReqs := rfl
@[simp] theorem State.setPort_vds (s : State) (x : Port) : (s.setPort x).vds = s.vds := rfl
@[simp] theorem State.setPort_parts (s : State) (x : Port) : (s.setPort x).parts = s.parts := rfl
@[simp] theorem State.setPort_partPend (s : State) (x : Port) : (s.setPort x).partPend = s.partPend := rfl
@[simp] theorem State.setPort_threads (s : State) (x : Port) : (s.setPort x).threads = s.threads := rfl
@[simp] theorem State.setPort_grids (s : State) (x : Port) : (s.setPort x).grids = s.grids := rfl
@[simp] theorem State.setPort_blocks (s : State) (x : Port) : (s.setPort x).blocks = s.blocks := rfl
@[simp] theorem State.setPort_groups (s : State) (x : Port) : (s.setPort x).groups = s.groups := rfl
@[simp] theorem State.setPort_cores (s : State) (x : Port) : (s.setPort x).cores = s.cores := rfl
@[simp] theorem State.setPort_clusters (s : State) (x : Port) : (s.setPort x).clusters = s.clusters := rfl
@[simp] theorem State.setPort_buckets (s : State) (x : Port) : (s.setPort x).buckets = s.buckets := rfl
@[simp] theorem State.setPort_txns (s : State) (x : Port) : (s.setPort x).txns = s.txns := rfl
@[simp] theorem State.setPort_bist (s : State) (x : Port) : (s.setPort x).bist = s.bist := rfl
@[simp] theorem State.setPort_margin (s : State) (x : Port) : (s.setPort x).margin = s.margin := rfl
@[simp] theorem State.setPort_out (s : State) (x : Port) : (s.setPort x).out = s.out := rfl
@[simp] theorem State.setPort_agenda (s : State) (x : Port) : (s.setPort x).agenda = s.agenda := rfl
@[simp] theorem State.setPort_cur (s : State) (x : Port) : (s.setPort x).cur = s.cur := rfl
@[simp] theorem State.setPort_free (s : State) (x : Port) : (s.setPort x).free = s.free := rfl
@[simp] theorem State.setPort_nextId (s : State) (x : Port) : (s.setPort x).nextId = s.nextId := rfl

/-! ### setL1, setRdc, writeBack, setHome -/

/-- What each step of a fold leaves alone, the fold leaves alone. -/
theorem foldl_keeps {σ α β : Type} (p : σ → β) (f : σ → α → σ) (h : ∀ s a, p (f s a) = p s) (l : List α) (s : σ) :
    p (l.foldl f s) = p s := by
  induction l generalizing s with
  | nil => rfl
  | cons a t ih => rw [List.foldl_cons, ih, h]

@[simp] theorem State.setL1_timebase (s : State) (x : L1Line) : (s.setL1 x).timebase = s.timebase := by
  unfold State.setL1; dsimp only; split
  · rfl
  · split <;> rfl
@[simp] theorem State.setL1_mfg (s : State) (x : L1Line) : (s.setL1 x).mfg = s.mfg := by
  unfold State.setL1; dsimp only; split
  · rfl
  · split <;> rfl
@[simp] theorem State.setL1_clkFault (s : State) (x : L1Line) : (s.setL1 x).clkFault = s.clkFault := by
  unfold State.setL1; dsimp only; split
  · rfl
  · split <;> rfl
@[simp] theorem State.setL1_recovery (s : State) (x : L1Line) : (s.setL1 x).recovery = s.recovery := by
  unfold State.setL1; dsimp only; split
  · rfl
  · split <;> rfl
@[simp] theorem State.setL1_staging (s : State) (x : L1Line) : (s.setL1 x).staging = s.staging := by
  unfold State.setL1; dsimp only; split
  · rfl
  · split <;> rfl
@[simp] theorem State.setL1_fusedSvn (s : State) (x : L1Line) : (s.setL1 x).fusedSvn = s.fusedSvn := by
  unfold State.setL1; dsimp only; split
  · rfl
  · split <;> rfl
@[simp] theorem State.setL1_keyDigest (s : State) (x : L1Line) : (s.setL1 x).keyDigest = s.keyDigest := by
  unfold State.setL1; dsimp only; split
  · rfl
  · split <;> rfl
@[simp] theorem State.setL1_image (s : State) (x : L1Line) : (s.setL1 x).image = s.image := by
  unfold State.setL1; dsimp only; split
  · rfl
  · split <;> rfl
@[simp] theorem State.setL1_defects (s : State) (x : L1Line) : (s.setL1 x).defects = s.defects := by
  unfold State.setL1; dsimp only; split
  · rfl
  · split <;> rfl
@[simp] theorem State.setL1_power (s : State) (x : L1Line) : (s.setL1 x).power = s.power := by
  unfold State.setL1; dsimp only; split
  · rfl
  · split <;> rfl
@[simp] theorem State.setL1_idleAt (s : State) (x : L1Line) : (s.setL1 x).idleAt = s.idleAt := by
  unfold State.setL1; dsimp only; split
  · rfl
  · split <;> rfl
@[simp] theorem State.setL1_clocks (s : State) (x : L1Line) : (s.setL1 x).clocks = s.clocks := by
  unfold State.setL1; dsimp only; split
  · rfl
  · split <;> rfl
@[simp] theorem State.setL1_vfEnable (s : State) (x : L1Line) : (s.setL1 x).vfEnable = s.vfEnable := by
  unfold State.setL1; dsimp only; split
  · rfl
  · split <;> rfl
@[simp] theorem State.setL1_window (s : State) (x : L1Line) : (s.setL1 x).window = s.window := by
  unfold State.setL1; dsimp only; split
  · rfl
  · split <;> rfl
@[simp] theorem State.setL1_regs (s : State) (x : L1Line) : (s.setL1 x).regs = s.regs := by
  unfold State.setL1; dsimp only; split
  · rfl
  · split <;> rfl
@[simp] theorem State.setL1_mem (s : State) (x : L1Line) : (s.setL1 x).mem = s.mem := by
  unfold State.setL1; dsimp only; split
  · rfl
  · split <;> rfl
@[simp] theorem State.setL1_cxlBytes (s : State) (x : L1Line) : (s.setL1 x).cxlBytes = s.cxlBytes := by
  unfold State.setL1; dsimp only; split
  · rfl
  · split <;> rfl
@[simp] theorem State.setL1_home (s : State) (x : L1Line) : (s.setL1 x).home = s.home := by
  unfold State.setL1; dsimp only; split
  · rfl
  · split <;> rfl
@[simp] theorem State.setL1_rdc (s : State) (x : L1Line) : (s.setL1 x).rdc = s.rdc := by
  unfold State.setL1; dsimp only; split
  · rfl
  · split <;> rfl
@[simp] theorem State.setL1_walks (s : State) (x : L1Line) : (s.setL1 x).walks = s.walks := by
  unfold State.setL1; dsimp only; split
  · rfl
  · split <;> rfl
@[simp] theorem State.setL1_atc (s : State) (x : L1Line) : (s.setL1 x).atc = s.atc := by
  unfold State.setL1; dsimp only; split
  · rfl
  · split <;> rfl
@[simp] theorem State.setL1_flight (s : State) (x : L1Line) : (s.setL1 x).flight = s.flight := by
  unfold State.setL1; dsimp only; split
  · rfl
  · split <;> rfl
@[simp] theorem State.setL1_reqs (s : State) (x : L1Line) : (s.setL1 x).reqs = s.reqs := by
  unfold State.setL1; dsimp only; split
  · rfl
  · split <;> rfl
@[simp] theorem State.setL1_resps (s : State) (x : L1Line) : (s.setL1 x).resps = s.resps := by
  unfold State.setL1; dsimp only; split
  · rfl
  · split <;> rfl
@[simp] theorem State.setL1_priReqs (s : State) (x : L1Line) : (s.setL1 x).priReqs = s.priReqs := by
  unfold State.setL1; dsimp only; split
  · rfl
  · split <;> rfl
@[simp] theorem State.setL1_vds (s : State) (x : L1Line) : (s.setL1 x).vds = s.vds := by
  unfold State.setL1; dsimp only; split
  · rfl
  · split <;> rfl
@[simp] theorem State.setL1_parts (s : State) (x : L1Line) : (s.setL1 x).parts = s.parts := by
  unfold State.setL1; dsimp only; split
  · rfl
  · split <;> rfl
@[simp] theorem State.setL1_partPend (s : State) (x : L1Line) : (s.setL1 x).partPend = s.partPend := by
  unfold State.setL1; dsimp only; split
  · rfl
  · split <;> rfl
@[simp] theorem State.setL1_threads (s : State) (x : L1Line) : (s.setL1 x).threads = s.threads := by
  unfold State.setL1; dsimp only; split
  · rfl
  · split <;> rfl
@[simp] theorem State.setL1_grids (s : State) (x : L1Line) : (s.setL1 x).grids = s.grids := by
  unfold State.setL1; dsimp only; split
  · rfl
  · split <;> rfl
@[simp] theorem State.setL1_blocks (s : State) (x : L1Line) : (s.setL1 x).blocks = s.blocks := by
  unfold State.setL1; dsimp only; split
  · rfl
  · split <;> rfl
@[simp] theorem State.setL1_groups (s : State) (x : L1Line) : (s.setL1 x).groups = s.groups := by
  unfold State.setL1; dsimp only; split
  · rfl
  · split <;> rfl
@[simp] theorem State.setL1_cores (s : State) (x : L1Line) : (s.setL1 x).cores = s.cores := by
  unfold State.setL1; dsimp only; split
  · rfl
  · split <;> rfl
@[simp] theorem State.setL1_clusters (s : State) (x : L1Line) : (s.setL1 x).clusters = s.clusters := by
  unfold State.setL1; dsimp only; split
  · rfl
  · split <;> rfl
@[simp] theorem State.setL1_buckets (s : State) (x : L1Line) : (s.setL1 x).buckets = s.buckets := by
  unfold State.setL1; dsimp only; split
  · rfl
  · split <;> rfl
@[simp] theorem State.setL1_ports (s : State) (x : L1Line) : (s.setL1 x).ports = s.ports := by
  unfold State.setL1; dsimp only; split
  · rfl
  · split <;> rfl
@[simp] theorem State.setL1_txns (s : State) (x : L1Line) : (s.setL1 x).txns = s.txns := by
  unfold State.setL1; dsimp only; split
  · rfl
  · split <;> rfl
@[simp] theorem State.setL1_bist (s : State) (x : L1Line) : (s.setL1 x).bist = s.bist := by
  unfold State.setL1; dsimp only; split
  · rfl
  · split <;> rfl
@[simp] theorem State.setL1_margin (s : State) (x : L1Line) : (s.setL1 x).margin = s.margin := by
  unfold State.setL1; dsimp only; split
  · rfl
  · split <;> rfl
@[simp] theorem State.setL1_out (s : State) (x : L1Line) : (s.setL1 x).out = s.out := by
  unfold State.setL1; dsimp only; split
  · rfl
  · split <;> rfl
@[simp] theorem State.setL1_agenda (s : State) (x : L1Line) : (s.setL1 x).agenda = s.agenda := by
  unfold State.setL1; dsimp only; split
  · rfl
  · split <;> rfl
@[simp] theorem State.setL1_cur (s : State) (x : L1Line) : (s.setL1 x).cur = s.cur := by
  unfold State.setL1; dsimp only; split
  · rfl
  · split <;> rfl
@[simp] theorem State.setL1_free (s : State) (x : L1Line) : (s.setL1 x).free = s.free := by
  unfold State.setL1; dsimp only; split
  · rfl
  · split <;> rfl
@[simp] theorem State.setL1_nextId (s : State) (x : L1Line) : (s.setL1 x).nextId = s.nextId := by
  unfold State.setL1; dsimp only; split
  · rfl
  · split <;> rfl

@[simp] theorem State.setRdc_timebase (s : State) (x : RdcLine) : (s.setRdc x).timebase = s.timebase := by
  unfold State.setRdc; dsimp only; split
  · rfl
  · split
    · rfl
    · split <;> rfl
@[simp] theorem State.setRdc_mfg (s : State) (x : RdcLine) : (s.setRdc x).mfg = s.mfg := by
  unfold State.setRdc; dsimp only; split
  · rfl
  · split
    · rfl
    · split <;> rfl
@[simp] theorem State.setRdc_clkFault (s : State) (x : RdcLine) : (s.setRdc x).clkFault = s.clkFault := by
  unfold State.setRdc; dsimp only; split
  · rfl
  · split
    · rfl
    · split <;> rfl
@[simp] theorem State.setRdc_recovery (s : State) (x : RdcLine) : (s.setRdc x).recovery = s.recovery := by
  unfold State.setRdc; dsimp only; split
  · rfl
  · split
    · rfl
    · split <;> rfl
@[simp] theorem State.setRdc_staging (s : State) (x : RdcLine) : (s.setRdc x).staging = s.staging := by
  unfold State.setRdc; dsimp only; split
  · rfl
  · split
    · rfl
    · split <;> rfl
@[simp] theorem State.setRdc_fusedSvn (s : State) (x : RdcLine) : (s.setRdc x).fusedSvn = s.fusedSvn := by
  unfold State.setRdc; dsimp only; split
  · rfl
  · split
    · rfl
    · split <;> rfl
@[simp] theorem State.setRdc_keyDigest (s : State) (x : RdcLine) : (s.setRdc x).keyDigest = s.keyDigest := by
  unfold State.setRdc; dsimp only; split
  · rfl
  · split
    · rfl
    · split <;> rfl
@[simp] theorem State.setRdc_image (s : State) (x : RdcLine) : (s.setRdc x).image = s.image := by
  unfold State.setRdc; dsimp only; split
  · rfl
  · split
    · rfl
    · split <;> rfl
@[simp] theorem State.setRdc_defects (s : State) (x : RdcLine) : (s.setRdc x).defects = s.defects := by
  unfold State.setRdc; dsimp only; split
  · rfl
  · split
    · rfl
    · split <;> rfl
@[simp] theorem State.setRdc_power (s : State) (x : RdcLine) : (s.setRdc x).power = s.power := by
  unfold State.setRdc; dsimp only; split
  · rfl
  · split
    · rfl
    · split <;> rfl
@[simp] theorem State.setRdc_idleAt (s : State) (x : RdcLine) : (s.setRdc x).idleAt = s.idleAt := by
  unfold State.setRdc; dsimp only; split
  · rfl
  · split
    · rfl
    · split <;> rfl
@[simp] theorem State.setRdc_clocks (s : State) (x : RdcLine) : (s.setRdc x).clocks = s.clocks := by
  unfold State.setRdc; dsimp only; split
  · rfl
  · split
    · rfl
    · split <;> rfl
@[simp] theorem State.setRdc_vfEnable (s : State) (x : RdcLine) : (s.setRdc x).vfEnable = s.vfEnable := by
  unfold State.setRdc; dsimp only; split
  · rfl
  · split
    · rfl
    · split <;> rfl
@[simp] theorem State.setRdc_window (s : State) (x : RdcLine) : (s.setRdc x).window = s.window := by
  unfold State.setRdc; dsimp only; split
  · rfl
  · split
    · rfl
    · split <;> rfl
@[simp] theorem State.setRdc_regs (s : State) (x : RdcLine) : (s.setRdc x).regs = s.regs := by
  unfold State.setRdc; dsimp only; split
  · rfl
  · split
    · rfl
    · split <;> rfl
@[simp] theorem State.setRdc_mem (s : State) (x : RdcLine) : (s.setRdc x).mem = s.mem := by
  unfold State.setRdc; dsimp only; split
  · rfl
  · split
    · rfl
    · split <;> rfl
@[simp] theorem State.setRdc_cxlBytes (s : State) (x : RdcLine) : (s.setRdc x).cxlBytes = s.cxlBytes := by
  unfold State.setRdc; dsimp only; split
  · rfl
  · split
    · rfl
    · split <;> rfl
@[simp] theorem State.setRdc_home (s : State) (x : RdcLine) : (s.setRdc x).home = s.home := by
  unfold State.setRdc; dsimp only; split
  · rfl
  · split
    · rfl
    · split <;> rfl
@[simp] theorem State.setRdc_l1 (s : State) (x : RdcLine) : (s.setRdc x).l1 = s.l1 := by
  unfold State.setRdc; dsimp only; split
  · rfl
  · split
    · rfl
    · split <;> rfl
@[simp] theorem State.setRdc_walks (s : State) (x : RdcLine) : (s.setRdc x).walks = s.walks := by
  unfold State.setRdc; dsimp only; split
  · rfl
  · split
    · rfl
    · split <;> rfl
@[simp] theorem State.setRdc_atc (s : State) (x : RdcLine) : (s.setRdc x).atc = s.atc := by
  unfold State.setRdc; dsimp only; split
  · rfl
  · split
    · rfl
    · split <;> rfl
@[simp] theorem State.setRdc_flight (s : State) (x : RdcLine) : (s.setRdc x).flight = s.flight := by
  unfold State.setRdc; dsimp only; split
  · rfl
  · split
    · rfl
    · split <;> rfl
@[simp] theorem State.setRdc_reqs (s : State) (x : RdcLine) : (s.setRdc x).reqs = s.reqs := by
  unfold State.setRdc; dsimp only; split
  · rfl
  · split
    · rfl
    · split <;> rfl
@[simp] theorem State.setRdc_resps (s : State) (x : RdcLine) : (s.setRdc x).resps = s.resps := by
  unfold State.setRdc; dsimp only; split
  · rfl
  · split
    · rfl
    · split <;> rfl
@[simp] theorem State.setRdc_priReqs (s : State) (x : RdcLine) : (s.setRdc x).priReqs = s.priReqs := by
  unfold State.setRdc; dsimp only; split
  · rfl
  · split
    · rfl
    · split <;> rfl
@[simp] theorem State.setRdc_vds (s : State) (x : RdcLine) : (s.setRdc x).vds = s.vds := by
  unfold State.setRdc; dsimp only; split
  · rfl
  · split
    · rfl
    · split <;> rfl
@[simp] theorem State.setRdc_parts (s : State) (x : RdcLine) : (s.setRdc x).parts = s.parts := by
  unfold State.setRdc; dsimp only; split
  · rfl
  · split
    · rfl
    · split <;> rfl
@[simp] theorem State.setRdc_partPend (s : State) (x : RdcLine) : (s.setRdc x).partPend = s.partPend := by
  unfold State.setRdc; dsimp only; split
  · rfl
  · split
    · rfl
    · split <;> rfl
@[simp] theorem State.setRdc_threads (s : State) (x : RdcLine) : (s.setRdc x).threads = s.threads := by
  unfold State.setRdc; dsimp only; split
  · rfl
  · split
    · rfl
    · split <;> rfl
@[simp] theorem State.setRdc_grids (s : State) (x : RdcLine) : (s.setRdc x).grids = s.grids := by
  unfold State.setRdc; dsimp only; split
  · rfl
  · split
    · rfl
    · split <;> rfl
@[simp] theorem State.setRdc_blocks (s : State) (x : RdcLine) : (s.setRdc x).blocks = s.blocks := by
  unfold State.setRdc; dsimp only; split
  · rfl
  · split
    · rfl
    · split <;> rfl
@[simp] theorem State.setRdc_groups (s : State) (x : RdcLine) : (s.setRdc x).groups = s.groups := by
  unfold State.setRdc; dsimp only; split
  · rfl
  · split
    · rfl
    · split <;> rfl
@[simp] theorem State.setRdc_cores (s : State) (x : RdcLine) : (s.setRdc x).cores = s.cores := by
  unfold State.setRdc; dsimp only; split
  · rfl
  · split
    · rfl
    · split <;> rfl
@[simp] theorem State.setRdc_clusters (s : State) (x : RdcLine) : (s.setRdc x).clusters = s.clusters := by
  unfold State.setRdc; dsimp only; split
  · rfl
  · split
    · rfl
    · split <;> rfl
@[simp] theorem State.setRdc_buckets (s : State) (x : RdcLine) : (s.setRdc x).buckets = s.buckets := by
  unfold State.setRdc; dsimp only; split
  · rfl
  · split
    · rfl
    · split <;> rfl
@[simp] theorem State.setRdc_ports (s : State) (x : RdcLine) : (s.setRdc x).ports = s.ports := by
  unfold State.setRdc; dsimp only; split
  · rfl
  · split
    · rfl
    · split <;> rfl
@[simp] theorem State.setRdc_txns (s : State) (x : RdcLine) : (s.setRdc x).txns = s.txns := by
  unfold State.setRdc; dsimp only; split
  · rfl
  · split
    · rfl
    · split <;> rfl
@[simp] theorem State.setRdc_bist (s : State) (x : RdcLine) : (s.setRdc x).bist = s.bist := by
  unfold State.setRdc; dsimp only; split
  · rfl
  · split
    · rfl
    · split <;> rfl
@[simp] theorem State.setRdc_margin (s : State) (x : RdcLine) : (s.setRdc x).margin = s.margin := by
  unfold State.setRdc; dsimp only; split
  · rfl
  · split
    · rfl
    · split <;> rfl
@[simp] theorem State.setRdc_out (s : State) (x : RdcLine) : (s.setRdc x).out = s.out := by
  unfold State.setRdc; dsimp only; split
  · rfl
  · split
    · rfl
    · split <;> rfl
@[simp] theorem State.setRdc_agenda (s : State) (x : RdcLine) : (s.setRdc x).agenda = s.agenda := by
  unfold State.setRdc; dsimp only; split
  · rfl
  · split
    · rfl
    · split <;> rfl
@[simp] theorem State.setRdc_cur (s : State) (x : RdcLine) : (s.setRdc x).cur = s.cur := by
  unfold State.setRdc; dsimp only; split
  · rfl
  · split
    · rfl
    · split <;> rfl
@[simp] theorem State.setRdc_free (s : State) (x : RdcLine) : (s.setRdc x).free = s.free := by
  unfold State.setRdc; dsimp only; split
  · rfl
  · split
    · rfl
    · split <;> rfl
@[simp] theorem State.setRdc_nextId (s : State) (x : RdcLine) : (s.setRdc x).nextId = s.nextId := by
  unfold State.setRdc; dsimp only; split
  · rfl
  · split
    · rfl
    · split <;> rfl

@[simp] theorem State.writeBack_timebase (s : State) (x : HomeLine) : (s.writeBack x).timebase = s.timebase := by
  unfold State.writeBack; dsimp only; split
  · rfl
  · exact foldl_keeps (fun (t : State) => t.timebase) _ (fun t i => by split <;> rfl) _ _
@[simp] theorem State.writeBack_mfg (s : State) (x : HomeLine) : (s.writeBack x).mfg = s.mfg := by
  unfold State.writeBack; dsimp only; split
  · rfl
  · exact foldl_keeps (fun (t : State) => t.mfg) _ (fun t i => by split <;> rfl) _ _
@[simp] theorem State.writeBack_clkFault (s : State) (x : HomeLine) : (s.writeBack x).clkFault = s.clkFault := by
  unfold State.writeBack; dsimp only; split
  · rfl
  · exact foldl_keeps (fun (t : State) => t.clkFault) _ (fun t i => by split <;> rfl) _ _
@[simp] theorem State.writeBack_recovery (s : State) (x : HomeLine) : (s.writeBack x).recovery = s.recovery := by
  unfold State.writeBack; dsimp only; split
  · rfl
  · exact foldl_keeps (fun (t : State) => t.recovery) _ (fun t i => by split <;> rfl) _ _
@[simp] theorem State.writeBack_staging (s : State) (x : HomeLine) : (s.writeBack x).staging = s.staging := by
  unfold State.writeBack; dsimp only; split
  · rfl
  · exact foldl_keeps (fun (t : State) => t.staging) _ (fun t i => by split <;> rfl) _ _
@[simp] theorem State.writeBack_fusedSvn (s : State) (x : HomeLine) : (s.writeBack x).fusedSvn = s.fusedSvn := by
  unfold State.writeBack; dsimp only; split
  · rfl
  · exact foldl_keeps (fun (t : State) => t.fusedSvn) _ (fun t i => by split <;> rfl) _ _
@[simp] theorem State.writeBack_keyDigest (s : State) (x : HomeLine) : (s.writeBack x).keyDigest = s.keyDigest := by
  unfold State.writeBack; dsimp only; split
  · rfl
  · exact foldl_keeps (fun (t : State) => t.keyDigest) _ (fun t i => by split <;> rfl) _ _
@[simp] theorem State.writeBack_image (s : State) (x : HomeLine) : (s.writeBack x).image = s.image := by
  unfold State.writeBack; dsimp only; split
  · rfl
  · exact foldl_keeps (fun (t : State) => t.image) _ (fun t i => by split <;> rfl) _ _
@[simp] theorem State.writeBack_defects (s : State) (x : HomeLine) : (s.writeBack x).defects = s.defects := by
  unfold State.writeBack; dsimp only; split
  · rfl
  · exact foldl_keeps (fun (t : State) => t.defects) _ (fun t i => by split <;> rfl) _ _
@[simp] theorem State.writeBack_power (s : State) (x : HomeLine) : (s.writeBack x).power = s.power := by
  unfold State.writeBack; dsimp only; split
  · rfl
  · exact foldl_keeps (fun (t : State) => t.power) _ (fun t i => by split <;> rfl) _ _
@[simp] theorem State.writeBack_idleAt (s : State) (x : HomeLine) : (s.writeBack x).idleAt = s.idleAt := by
  unfold State.writeBack; dsimp only; split
  · rfl
  · exact foldl_keeps (fun (t : State) => t.idleAt) _ (fun t i => by split <;> rfl) _ _
@[simp] theorem State.writeBack_clocks (s : State) (x : HomeLine) : (s.writeBack x).clocks = s.clocks := by
  unfold State.writeBack; dsimp only; split
  · rfl
  · exact foldl_keeps (fun (t : State) => t.clocks) _ (fun t i => by split <;> rfl) _ _
@[simp] theorem State.writeBack_vfEnable (s : State) (x : HomeLine) : (s.writeBack x).vfEnable = s.vfEnable := by
  unfold State.writeBack; dsimp only; split
  · rfl
  · exact foldl_keeps (fun (t : State) => t.vfEnable) _ (fun t i => by split <;> rfl) _ _
@[simp] theorem State.writeBack_window (s : State) (x : HomeLine) : (s.writeBack x).window = s.window := by
  unfold State.writeBack; dsimp only; split
  · rfl
  · exact foldl_keeps (fun (t : State) => t.window) _ (fun t i => by split <;> rfl) _ _
@[simp] theorem State.writeBack_regs (s : State) (x : HomeLine) : (s.writeBack x).regs = s.regs := by
  unfold State.writeBack; dsimp only; split
  · rfl
  · exact foldl_keeps (fun (t : State) => t.regs) _ (fun t i => by split <;> rfl) _ _
@[simp] theorem State.writeBack_cxlBytes (s : State) (x : HomeLine) : (s.writeBack x).cxlBytes = s.cxlBytes := by
  unfold State.writeBack; dsimp only; split
  · rfl
  · exact foldl_keeps (fun (t : State) => t.cxlBytes) _ (fun t i => by split <;> rfl) _ _
@[simp] theorem State.writeBack_home (s : State) (x : HomeLine) : (s.writeBack x).home = s.home := by
  unfold State.writeBack; dsimp only; split
  · rfl
  · exact foldl_keeps (fun (t : State) => t.home) _ (fun t i => by split <;> rfl) _ _
@[simp] theorem State.writeBack_rdc (s : State) (x : HomeLine) : (s.writeBack x).rdc = s.rdc := by
  unfold State.writeBack; dsimp only; split
  · rfl
  · exact foldl_keeps (fun (t : State) => t.rdc) _ (fun t i => by split <;> rfl) _ _
@[simp] theorem State.writeBack_l1 (s : State) (x : HomeLine) : (s.writeBack x).l1 = s.l1 := by
  unfold State.writeBack; dsimp only; split
  · rfl
  · exact foldl_keeps (fun (t : State) => t.l1) _ (fun t i => by split <;> rfl) _ _
@[simp] theorem State.writeBack_walks (s : State) (x : HomeLine) : (s.writeBack x).walks = s.walks := by
  unfold State.writeBack; dsimp only; split
  · rfl
  · exact foldl_keeps (fun (t : State) => t.walks) _ (fun t i => by split <;> rfl) _ _
@[simp] theorem State.writeBack_atc (s : State) (x : HomeLine) : (s.writeBack x).atc = s.atc := by
  unfold State.writeBack; dsimp only; split
  · rfl
  · exact foldl_keeps (fun (t : State) => t.atc) _ (fun t i => by split <;> rfl) _ _
@[simp] theorem State.writeBack_flight (s : State) (x : HomeLine) : (s.writeBack x).flight = s.flight := by
  unfold State.writeBack; dsimp only; split
  · rfl
  · exact foldl_keeps (fun (t : State) => t.flight) _ (fun t i => by split <;> rfl) _ _
@[simp] theorem State.writeBack_reqs (s : State) (x : HomeLine) : (s.writeBack x).reqs = s.reqs := by
  unfold State.writeBack; dsimp only; split
  · rfl
  · exact foldl_keeps (fun (t : State) => t.reqs) _ (fun t i => by split <;> rfl) _ _
@[simp] theorem State.writeBack_resps (s : State) (x : HomeLine) : (s.writeBack x).resps = s.resps := by
  unfold State.writeBack; dsimp only; split
  · rfl
  · exact foldl_keeps (fun (t : State) => t.resps) _ (fun t i => by split <;> rfl) _ _
@[simp] theorem State.writeBack_priReqs (s : State) (x : HomeLine) : (s.writeBack x).priReqs = s.priReqs := by
  unfold State.writeBack; dsimp only; split
  · rfl
  · exact foldl_keeps (fun (t : State) => t.priReqs) _ (fun t i => by split <;> rfl) _ _
@[simp] theorem State.writeBack_vds (s : State) (x : HomeLine) : (s.writeBack x).vds = s.vds := by
  unfold State.writeBack; dsimp only; split
  · rfl
  · exact foldl_keeps (fun (t : State) => t.vds) _ (fun t i => by split <;> rfl) _ _
@[simp] theorem State.writeBack_parts (s : State) (x : HomeLine) : (s.writeBack x).parts = s.parts := by
  unfold State.writeBack; dsimp only; split
  · rfl
  · exact foldl_keeps (fun (t : State) => t.parts) _ (fun t i => by split <;> rfl) _ _
@[simp] theorem State.writeBack_partPend (s : State) (x : HomeLine) : (s.writeBack x).partPend = s.partPend := by
  unfold State.writeBack; dsimp only; split
  · rfl
  · exact foldl_keeps (fun (t : State) => t.partPend) _ (fun t i => by split <;> rfl) _ _
@[simp] theorem State.writeBack_threads (s : State) (x : HomeLine) : (s.writeBack x).threads = s.threads := by
  unfold State.writeBack; dsimp only; split
  · rfl
  · exact foldl_keeps (fun (t : State) => t.threads) _ (fun t i => by split <;> rfl) _ _
@[simp] theorem State.writeBack_grids (s : State) (x : HomeLine) : (s.writeBack x).grids = s.grids := by
  unfold State.writeBack; dsimp only; split
  · rfl
  · exact foldl_keeps (fun (t : State) => t.grids) _ (fun t i => by split <;> rfl) _ _
@[simp] theorem State.writeBack_blocks (s : State) (x : HomeLine) : (s.writeBack x).blocks = s.blocks := by
  unfold State.writeBack; dsimp only; split
  · rfl
  · exact foldl_keeps (fun (t : State) => t.blocks) _ (fun t i => by split <;> rfl) _ _
@[simp] theorem State.writeBack_groups (s : State) (x : HomeLine) : (s.writeBack x).groups = s.groups := by
  unfold State.writeBack; dsimp only; split
  · rfl
  · exact foldl_keeps (fun (t : State) => t.groups) _ (fun t i => by split <;> rfl) _ _
@[simp] theorem State.writeBack_cores (s : State) (x : HomeLine) : (s.writeBack x).cores = s.cores := by
  unfold State.writeBack; dsimp only; split
  · rfl
  · exact foldl_keeps (fun (t : State) => t.cores) _ (fun t i => by split <;> rfl) _ _
@[simp] theorem State.writeBack_clusters (s : State) (x : HomeLine) : (s.writeBack x).clusters = s.clusters := by
  unfold State.writeBack; dsimp only; split
  · rfl
  · exact foldl_keeps (fun (t : State) => t.clusters) _ (fun t i => by split <;> rfl) _ _
@[simp] theorem State.writeBack_buckets (s : State) (x : HomeLine) : (s.writeBack x).buckets = s.buckets := by
  unfold State.writeBack; dsimp only; split
  · rfl
  · exact foldl_keeps (fun (t : State) => t.buckets) _ (fun t i => by split <;> rfl) _ _
@[simp] theorem State.writeBack_ports (s : State) (x : HomeLine) : (s.writeBack x).ports = s.ports := by
  unfold State.writeBack; dsimp only; split
  · rfl
  · exact foldl_keeps (fun (t : State) => t.ports) _ (fun t i => by split <;> rfl) _ _
@[simp] theorem State.writeBack_txns (s : State) (x : HomeLine) : (s.writeBack x).txns = s.txns := by
  unfold State.writeBack; dsimp only; split
  · rfl
  · exact foldl_keeps (fun (t : State) => t.txns) _ (fun t i => by split <;> rfl) _ _
@[simp] theorem State.writeBack_bist (s : State) (x : HomeLine) : (s.writeBack x).bist = s.bist := by
  unfold State.writeBack; dsimp only; split
  · rfl
  · exact foldl_keeps (fun (t : State) => t.bist) _ (fun t i => by split <;> rfl) _ _
@[simp] theorem State.writeBack_margin (s : State) (x : HomeLine) : (s.writeBack x).margin = s.margin := by
  unfold State.writeBack; dsimp only; split
  · rfl
  · exact foldl_keeps (fun (t : State) => t.margin) _ (fun t i => by split <;> rfl) _ _
@[simp] theorem State.writeBack_out (s : State) (x : HomeLine) : (s.writeBack x).out = s.out := by
  unfold State.writeBack; dsimp only; split
  · rfl
  · exact foldl_keeps (fun (t : State) => t.out) _ (fun t i => by split <;> rfl) _ _
@[simp] theorem State.writeBack_agenda (s : State) (x : HomeLine) : (s.writeBack x).agenda = s.agenda := by
  unfold State.writeBack; dsimp only; split
  · rfl
  · exact foldl_keeps (fun (t : State) => t.agenda) _ (fun t i => by split <;> rfl) _ _
@[simp] theorem State.writeBack_cur (s : State) (x : HomeLine) : (s.writeBack x).cur = s.cur := by
  unfold State.writeBack; dsimp only; split
  · rfl
  · exact foldl_keeps (fun (t : State) => t.cur) _ (fun t i => by split <;> rfl) _ _
@[simp] theorem State.writeBack_free (s : State) (x : HomeLine) : (s.writeBack x).free = s.free := by
  unfold State.writeBack; dsimp only; split
  · rfl
  · exact foldl_keeps (fun (t : State) => t.free) _ (fun t i => by split <;> rfl) _ _
@[simp] theorem State.writeBack_nextId (s : State) (x : HomeLine) : (s.writeBack x).nextId = s.nextId := by
  unfold State.writeBack; dsimp only; split
  · rfl
  · exact foldl_keeps (fun (t : State) => t.nextId) _ (fun t i => by split <;> rfl) _ _

@[simp] theorem State.enterL2_timebase (s : State) (x : HomeLine) : (s.enterL2 x).timebase = s.timebase := by
  unfold State.enterL2; dsimp only; split
  · rfl
  · split <;> rfl
@[simp] theorem State.enterL2_mfg (s : State) (x : HomeLine) : (s.enterL2 x).mfg = s.mfg := by
  unfold State.enterL2; dsimp only; split
  · rfl
  · split <;> rfl
@[simp] theorem State.enterL2_clkFault (s : State) (x : HomeLine) : (s.enterL2 x).clkFault = s.clkFault := by
  unfold State.enterL2; dsimp only; split
  · rfl
  · split <;> rfl
@[simp] theorem State.enterL2_recovery (s : State) (x : HomeLine) : (s.enterL2 x).recovery = s.recovery := by
  unfold State.enterL2; dsimp only; split
  · rfl
  · split <;> rfl
@[simp] theorem State.enterL2_staging (s : State) (x : HomeLine) : (s.enterL2 x).staging = s.staging := by
  unfold State.enterL2; dsimp only; split
  · rfl
  · split <;> rfl
@[simp] theorem State.enterL2_fusedSvn (s : State) (x : HomeLine) : (s.enterL2 x).fusedSvn = s.fusedSvn := by
  unfold State.enterL2; dsimp only; split
  · rfl
  · split <;> rfl
@[simp] theorem State.enterL2_keyDigest (s : State) (x : HomeLine) : (s.enterL2 x).keyDigest = s.keyDigest := by
  unfold State.enterL2; dsimp only; split
  · rfl
  · split <;> rfl
@[simp] theorem State.enterL2_image (s : State) (x : HomeLine) : (s.enterL2 x).image = s.image := by
  unfold State.enterL2; dsimp only; split
  · rfl
  · split <;> rfl
@[simp] theorem State.enterL2_defects (s : State) (x : HomeLine) : (s.enterL2 x).defects = s.defects := by
  unfold State.enterL2; dsimp only; split
  · rfl
  · split <;> rfl
@[simp] theorem State.enterL2_power (s : State) (x : HomeLine) : (s.enterL2 x).power = s.power := by
  unfold State.enterL2; dsimp only; split
  · rfl
  · split <;> rfl
@[simp] theorem State.enterL2_idleAt (s : State) (x : HomeLine) : (s.enterL2 x).idleAt = s.idleAt := by
  unfold State.enterL2; dsimp only; split
  · rfl
  · split <;> rfl
@[simp] theorem State.enterL2_clocks (s : State) (x : HomeLine) : (s.enterL2 x).clocks = s.clocks := by
  unfold State.enterL2; dsimp only; split
  · rfl
  · split <;> rfl
@[simp] theorem State.enterL2_vfEnable (s : State) (x : HomeLine) : (s.enterL2 x).vfEnable = s.vfEnable := by
  unfold State.enterL2; dsimp only; split
  · rfl
  · split <;> rfl
@[simp] theorem State.enterL2_window (s : State) (x : HomeLine) : (s.enterL2 x).window = s.window := by
  unfold State.enterL2; dsimp only; split
  · rfl
  · split <;> rfl
@[simp] theorem State.enterL2_regs (s : State) (x : HomeLine) : (s.enterL2 x).regs = s.regs := by
  unfold State.enterL2; dsimp only; split
  · rfl
  · split <;> rfl
@[simp] theorem State.enterL2_mem (s : State) (x : HomeLine) : (s.enterL2 x).mem = s.mem := by
  unfold State.enterL2; dsimp only; split
  · rfl
  · split <;> rfl
@[simp] theorem State.enterL2_cxlBytes (s : State) (x : HomeLine) : (s.enterL2 x).cxlBytes = s.cxlBytes := by
  unfold State.enterL2; dsimp only; split
  · rfl
  · split <;> rfl
@[simp] theorem State.enterL2_rdc (s : State) (x : HomeLine) : (s.enterL2 x).rdc = s.rdc := by
  unfold State.enterL2; dsimp only; split
  · rfl
  · split <;> rfl
@[simp] theorem State.enterL2_l1 (s : State) (x : HomeLine) : (s.enterL2 x).l1 = s.l1 := by
  unfold State.enterL2; dsimp only; split
  · rfl
  · split <;> rfl
@[simp] theorem State.enterL2_walks (s : State) (x : HomeLine) : (s.enterL2 x).walks = s.walks := by
  unfold State.enterL2; dsimp only; split
  · rfl
  · split <;> rfl
@[simp] theorem State.enterL2_atc (s : State) (x : HomeLine) : (s.enterL2 x).atc = s.atc := by
  unfold State.enterL2; dsimp only; split
  · rfl
  · split <;> rfl
@[simp] theorem State.enterL2_flight (s : State) (x : HomeLine) : (s.enterL2 x).flight = s.flight := by
  unfold State.enterL2; dsimp only; split
  · rfl
  · split <;> rfl
@[simp] theorem State.enterL2_reqs (s : State) (x : HomeLine) : (s.enterL2 x).reqs = s.reqs := by
  unfold State.enterL2; dsimp only; split
  · rfl
  · split <;> rfl
@[simp] theorem State.enterL2_resps (s : State) (x : HomeLine) : (s.enterL2 x).resps = s.resps := by
  unfold State.enterL2; dsimp only; split
  · rfl
  · split <;> rfl
@[simp] theorem State.enterL2_priReqs (s : State) (x : HomeLine) : (s.enterL2 x).priReqs = s.priReqs := by
  unfold State.enterL2; dsimp only; split
  · rfl
  · split <;> rfl
@[simp] theorem State.enterL2_vds (s : State) (x : HomeLine) : (s.enterL2 x).vds = s.vds := by
  unfold State.enterL2; dsimp only; split
  · rfl
  · split <;> rfl
@[simp] theorem State.enterL2_parts (s : State) (x : HomeLine) : (s.enterL2 x).parts = s.parts := by
  unfold State.enterL2; dsimp only; split
  · rfl
  · split <;> rfl
@[simp] theorem State.enterL2_partPend (s : State) (x : HomeLine) : (s.enterL2 x).partPend = s.partPend := by
  unfold State.enterL2; dsimp only; split
  · rfl
  · split <;> rfl
@[simp] theorem State.enterL2_threads (s : State) (x : HomeLine) : (s.enterL2 x).threads = s.threads := by
  unfold State.enterL2; dsimp only; split
  · rfl
  · split <;> rfl
@[simp] theorem State.enterL2_grids (s : State) (x : HomeLine) : (s.enterL2 x).grids = s.grids := by
  unfold State.enterL2; dsimp only; split
  · rfl
  · split <;> rfl
@[simp] theorem State.enterL2_blocks (s : State) (x : HomeLine) : (s.enterL2 x).blocks = s.blocks := by
  unfold State.enterL2; dsimp only; split
  · rfl
  · split <;> rfl
@[simp] theorem State.enterL2_groups (s : State) (x : HomeLine) : (s.enterL2 x).groups = s.groups := by
  unfold State.enterL2; dsimp only; split
  · rfl
  · split <;> rfl
@[simp] theorem State.enterL2_cores (s : State) (x : HomeLine) : (s.enterL2 x).cores = s.cores := by
  unfold State.enterL2; dsimp only; split
  · rfl
  · split <;> rfl
@[simp] theorem State.enterL2_clusters (s : State) (x : HomeLine) : (s.enterL2 x).clusters = s.clusters := by
  unfold State.enterL2; dsimp only; split
  · rfl
  · split <;> rfl
@[simp] theorem State.enterL2_buckets (s : State) (x : HomeLine) : (s.enterL2 x).buckets = s.buckets := by
  unfold State.enterL2; dsimp only; split
  · rfl
  · split <;> rfl
@[simp] theorem State.enterL2_ports (s : State) (x : HomeLine) : (s.enterL2 x).ports = s.ports := by
  unfold State.enterL2; dsimp only; split
  · rfl
  · split <;> rfl
@[simp] theorem State.enterL2_txns (s : State) (x : HomeLine) : (s.enterL2 x).txns = s.txns := by
  unfold State.enterL2; dsimp only; split
  · rfl
  · split <;> rfl
@[simp] theorem State.enterL2_bist (s : State) (x : HomeLine) : (s.enterL2 x).bist = s.bist := by
  unfold State.enterL2; dsimp only; split
  · rfl
  · split <;> rfl
@[simp] theorem State.enterL2_margin (s : State) (x : HomeLine) : (s.enterL2 x).margin = s.margin := by
  unfold State.enterL2; dsimp only; split
  · rfl
  · split <;> rfl
@[simp] theorem State.enterL2_out (s : State) (x : HomeLine) : (s.enterL2 x).out = s.out := by
  unfold State.enterL2; dsimp only; split
  · rfl
  · split <;> rfl
@[simp] theorem State.enterL2_agenda (s : State) (x : HomeLine) : (s.enterL2 x).agenda = s.agenda := by
  unfold State.enterL2; dsimp only; split
  · rfl
  · split <;> rfl
@[simp] theorem State.enterL2_cur (s : State) (x : HomeLine) : (s.enterL2 x).cur = s.cur := by
  unfold State.enterL2; dsimp only; split
  · rfl
  · split <;> rfl
@[simp] theorem State.enterL2_free (s : State) (x : HomeLine) : (s.enterL2 x).free = s.free := by
  unfold State.enterL2; dsimp only; split
  · rfl
  · split <;> rfl
@[simp] theorem State.enterL2_nextId (s : State) (x : HomeLine) : (s.enterL2 x).nextId = s.nextId := by
  unfold State.enterL2; dsimp only; split
  · rfl
  · split <;> rfl

@[simp] theorem State.setHome_timebase (s : State) (x : HomeLine) : (s.setHome x).timebase = s.timebase := by
  unfold State.setHome; split
  · split <;> simp
  · dsimp only; split
    · simp
    · split <;> simp
@[simp] theorem State.setHome_mfg (s : State) (x : HomeLine) : (s.setHome x).mfg = s.mfg := by
  unfold State.setHome; split
  · split <;> simp
  · dsimp only; split
    · simp
    · split <;> simp
@[simp] theorem State.setHome_clkFault (s : State) (x : HomeLine) : (s.setHome x).clkFault = s.clkFault := by
  unfold State.setHome; split
  · split <;> simp
  · dsimp only; split
    · simp
    · split <;> simp
@[simp] theorem State.setHome_recovery (s : State) (x : HomeLine) : (s.setHome x).recovery = s.recovery := by
  unfold State.setHome; split
  · split <;> simp
  · dsimp only; split
    · simp
    · split <;> simp
@[simp] theorem State.setHome_staging (s : State) (x : HomeLine) : (s.setHome x).staging = s.staging := by
  unfold State.setHome; split
  · split <;> simp
  · dsimp only; split
    · simp
    · split <;> simp
@[simp] theorem State.setHome_fusedSvn (s : State) (x : HomeLine) : (s.setHome x).fusedSvn = s.fusedSvn := by
  unfold State.setHome; split
  · split <;> simp
  · dsimp only; split
    · simp
    · split <;> simp
@[simp] theorem State.setHome_keyDigest (s : State) (x : HomeLine) : (s.setHome x).keyDigest = s.keyDigest := by
  unfold State.setHome; split
  · split <;> simp
  · dsimp only; split
    · simp
    · split <;> simp
@[simp] theorem State.setHome_image (s : State) (x : HomeLine) : (s.setHome x).image = s.image := by
  unfold State.setHome; split
  · split <;> simp
  · dsimp only; split
    · simp
    · split <;> simp
@[simp] theorem State.setHome_defects (s : State) (x : HomeLine) : (s.setHome x).defects = s.defects := by
  unfold State.setHome; split
  · split <;> simp
  · dsimp only; split
    · simp
    · split <;> simp
@[simp] theorem State.setHome_power (s : State) (x : HomeLine) : (s.setHome x).power = s.power := by
  unfold State.setHome; split
  · split <;> simp
  · dsimp only; split
    · simp
    · split <;> simp
@[simp] theorem State.setHome_idleAt (s : State) (x : HomeLine) : (s.setHome x).idleAt = s.idleAt := by
  unfold State.setHome; split
  · split <;> simp
  · dsimp only; split
    · simp
    · split <;> simp
@[simp] theorem State.setHome_clocks (s : State) (x : HomeLine) : (s.setHome x).clocks = s.clocks := by
  unfold State.setHome; split
  · split <;> simp
  · dsimp only; split
    · simp
    · split <;> simp
@[simp] theorem State.setHome_vfEnable (s : State) (x : HomeLine) : (s.setHome x).vfEnable = s.vfEnable := by
  unfold State.setHome; split
  · split <;> simp
  · dsimp only; split
    · simp
    · split <;> simp
@[simp] theorem State.setHome_window (s : State) (x : HomeLine) : (s.setHome x).window = s.window := by
  unfold State.setHome; split
  · split <;> simp
  · dsimp only; split
    · simp
    · split <;> simp
@[simp] theorem State.setHome_regs (s : State) (x : HomeLine) : (s.setHome x).regs = s.regs := by
  unfold State.setHome; split
  · split <;> simp
  · dsimp only; split
    · simp
    · split <;> simp
@[simp] theorem State.setHome_cxlBytes (s : State) (x : HomeLine) : (s.setHome x).cxlBytes = s.cxlBytes := by
  unfold State.setHome; split
  · split <;> simp
  · dsimp only; split
    · simp
    · split <;> simp
@[simp] theorem State.setHome_rdc (s : State) (x : HomeLine) : (s.setHome x).rdc = s.rdc := by
  unfold State.setHome; split
  · split <;> simp
  · dsimp only; split
    · simp
    · split <;> simp
@[simp] theorem State.setHome_l1 (s : State) (x : HomeLine) : (s.setHome x).l1 = s.l1 := by
  unfold State.setHome; split
  · split <;> simp
  · dsimp only; split
    · simp
    · split <;> simp
@[simp] theorem State.setHome_walks (s : State) (x : HomeLine) : (s.setHome x).walks = s.walks := by
  unfold State.setHome; split
  · split <;> simp
  · dsimp only; split
    · simp
    · split <;> simp
@[simp] theorem State.setHome_atc (s : State) (x : HomeLine) : (s.setHome x).atc = s.atc := by
  unfold State.setHome; split
  · split <;> simp
  · dsimp only; split
    · simp
    · split <;> simp
@[simp] theorem State.setHome_flight (s : State) (x : HomeLine) : (s.setHome x).flight = s.flight := by
  unfold State.setHome; split
  · split <;> simp
  · dsimp only; split
    · simp
    · split <;> simp
@[simp] theorem State.setHome_reqs (s : State) (x : HomeLine) : (s.setHome x).reqs = s.reqs := by
  unfold State.setHome; split
  · split <;> simp
  · dsimp only; split
    · simp
    · split <;> simp
@[simp] theorem State.setHome_resps (s : State) (x : HomeLine) : (s.setHome x).resps = s.resps := by
  unfold State.setHome; split
  · split <;> simp
  · dsimp only; split
    · simp
    · split <;> simp
@[simp] theorem State.setHome_priReqs (s : State) (x : HomeLine) : (s.setHome x).priReqs = s.priReqs := by
  unfold State.setHome; split
  · split <;> simp
  · dsimp only; split
    · simp
    · split <;> simp
@[simp] theorem State.setHome_vds (s : State) (x : HomeLine) : (s.setHome x).vds = s.vds := by
  unfold State.setHome; split
  · split <;> simp
  · dsimp only; split
    · simp
    · split <;> simp
@[simp] theorem State.setHome_parts (s : State) (x : HomeLine) : (s.setHome x).parts = s.parts := by
  unfold State.setHome; split
  · split <;> simp
  · dsimp only; split
    · simp
    · split <;> simp
@[simp] theorem State.setHome_partPend (s : State) (x : HomeLine) : (s.setHome x).partPend = s.partPend := by
  unfold State.setHome; split
  · split <;> simp
  · dsimp only; split
    · simp
    · split <;> simp
@[simp] theorem State.setHome_threads (s : State) (x : HomeLine) : (s.setHome x).threads = s.threads := by
  unfold State.setHome; split
  · split <;> simp
  · dsimp only; split
    · simp
    · split <;> simp
@[simp] theorem State.setHome_grids (s : State) (x : HomeLine) : (s.setHome x).grids = s.grids := by
  unfold State.setHome; split
  · split <;> simp
  · dsimp only; split
    · simp
    · split <;> simp
@[simp] theorem State.setHome_blocks (s : State) (x : HomeLine) : (s.setHome x).blocks = s.blocks := by
  unfold State.setHome; split
  · split <;> simp
  · dsimp only; split
    · simp
    · split <;> simp
@[simp] theorem State.setHome_groups (s : State) (x : HomeLine) : (s.setHome x).groups = s.groups := by
  unfold State.setHome; split
  · split <;> simp
  · dsimp only; split
    · simp
    · split <;> simp
@[simp] theorem State.setHome_cores (s : State) (x : HomeLine) : (s.setHome x).cores = s.cores := by
  unfold State.setHome; split
  · split <;> simp
  · dsimp only; split
    · simp
    · split <;> simp
@[simp] theorem State.setHome_clusters (s : State) (x : HomeLine) : (s.setHome x).clusters = s.clusters := by
  unfold State.setHome; split
  · split <;> simp
  · dsimp only; split
    · simp
    · split <;> simp
@[simp] theorem State.setHome_buckets (s : State) (x : HomeLine) : (s.setHome x).buckets = s.buckets := by
  unfold State.setHome; split
  · split <;> simp
  · dsimp only; split
    · simp
    · split <;> simp
@[simp] theorem State.setHome_ports (s : State) (x : HomeLine) : (s.setHome x).ports = s.ports := by
  unfold State.setHome; split
  · split <;> simp
  · dsimp only; split
    · simp
    · split <;> simp
@[simp] theorem State.setHome_txns (s : State) (x : HomeLine) : (s.setHome x).txns = s.txns := by
  unfold State.setHome; split
  · split <;> simp
  · dsimp only; split
    · simp
    · split <;> simp
@[simp] theorem State.setHome_bist (s : State) (x : HomeLine) : (s.setHome x).bist = s.bist := by
  unfold State.setHome; split
  · split <;> simp
  · dsimp only; split
    · simp
    · split <;> simp
@[simp] theorem State.setHome_margin (s : State) (x : HomeLine) : (s.setHome x).margin = s.margin := by
  unfold State.setHome; split
  · split <;> simp
  · dsimp only; split
    · simp
    · split <;> simp
@[simp] theorem State.setHome_out (s : State) (x : HomeLine) : (s.setHome x).out = s.out := by
  unfold State.setHome; split
  · split <;> simp
  · dsimp only; split
    · simp
    · split <;> simp
@[simp] theorem State.setHome_agenda (s : State) (x : HomeLine) : (s.setHome x).agenda = s.agenda := by
  unfold State.setHome; split
  · split <;> simp
  · dsimp only; split
    · simp
    · split <;> simp
@[simp] theorem State.setHome_cur (s : State) (x : HomeLine) : (s.setHome x).cur = s.cur := by
  unfold State.setHome; split
  · split <;> simp
  · dsimp only; split
    · simp
    · split <;> simp
@[simp] theorem State.setHome_free (s : State) (x : HomeLine) : (s.setHome x).free = s.free := by
  unfold State.setHome; split
  · split <;> simp
  · dsimp only; split
    · simp
    · split <;> simp
@[simp] theorem State.setHome_nextId (s : State) (x : HomeLine) : (s.setHome x).nextId = s.nextId := by
  unfold State.setHome; split
  · split <;> simp
  · dsimp only; split
    · simp
    · split <;> simp

/-! ### setReg -/

@[simp] theorem State.setReg_timebase (s : State) (k : Nat) (v : DWord) : (s.setReg k v).timebase = s.timebase := rfl
@[simp] theorem State.setReg_mfg (s : State) (k : Nat) (v : DWord) : (s.setReg k v).mfg = s.mfg := rfl
@[simp] theorem State.setReg_clkFault (s : State) (k : Nat) (v : DWord) : (s.setReg k v).clkFault = s.clkFault := rfl
@[simp] theorem State.setReg_recovery (s : State) (k : Nat) (v : DWord) : (s.setReg k v).recovery = s.recovery := rfl
@[simp] theorem State.setReg_staging (s : State) (k : Nat) (v : DWord) : (s.setReg k v).staging = s.staging := rfl
@[simp] theorem State.setReg_fusedSvn (s : State) (k : Nat) (v : DWord) : (s.setReg k v).fusedSvn = s.fusedSvn := rfl
@[simp] theorem State.setReg_keyDigest (s : State) (k : Nat) (v : DWord) : (s.setReg k v).keyDigest = s.keyDigest := rfl
@[simp] theorem State.setReg_image (s : State) (k : Nat) (v : DWord) : (s.setReg k v).image = s.image := rfl
@[simp] theorem State.setReg_defects (s : State) (k : Nat) (v : DWord) : (s.setReg k v).defects = s.defects := rfl
@[simp] theorem State.setReg_power (s : State) (k : Nat) (v : DWord) : (s.setReg k v).power = s.power := rfl
@[simp] theorem State.setReg_idleAt (s : State) (k : Nat) (v : DWord) : (s.setReg k v).idleAt = s.idleAt := rfl
@[simp] theorem State.setReg_clocks (s : State) (k : Nat) (v : DWord) : (s.setReg k v).clocks = s.clocks := rfl
@[simp] theorem State.setReg_vfEnable (s : State) (k : Nat) (v : DWord) : (s.setReg k v).vfEnable = s.vfEnable := rfl
@[simp] theorem State.setReg_window (s : State) (k : Nat) (v : DWord) : (s.setReg k v).window = s.window := rfl
@[simp] theorem State.setReg_mem (s : State) (k : Nat) (v : DWord) : (s.setReg k v).mem = s.mem := rfl
@[simp] theorem State.setReg_cxlBytes (s : State) (k : Nat) (v : DWord) : (s.setReg k v).cxlBytes = s.cxlBytes := rfl
@[simp] theorem State.setReg_home (s : State) (k : Nat) (v : DWord) : (s.setReg k v).home = s.home := rfl
@[simp] theorem State.setReg_rdc (s : State) (k : Nat) (v : DWord) : (s.setReg k v).rdc = s.rdc := rfl
@[simp] theorem State.setReg_l1 (s : State) (k : Nat) (v : DWord) : (s.setReg k v).l1 = s.l1 := rfl
@[simp] theorem State.setReg_walks (s : State) (k : Nat) (v : DWord) : (s.setReg k v).walks = s.walks := rfl
@[simp] theorem State.setReg_atc (s : State) (k : Nat) (v : DWord) : (s.setReg k v).atc = s.atc := rfl
@[simp] theorem State.setReg_flight (s : State) (k : Nat) (v : DWord) : (s.setReg k v).flight = s.flight := rfl
@[simp] theorem State.setReg_reqs (s : State) (k : Nat) (v : DWord) : (s.setReg k v).reqs = s.reqs := rfl
@[simp] theorem State.setReg_resps (s : State) (k : Nat) (v : DWord) : (s.setReg k v).resps = s.resps := rfl
@[simp] theorem State.setReg_priReqs (s : State) (k : Nat) (v : DWord) : (s.setReg k v).priReqs = s.priReqs := rfl
@[simp] theorem State.setReg_vds (s : State) (k : Nat) (v : DWord) : (s.setReg k v).vds = s.vds := rfl
@[simp] theorem State.setReg_parts (s : State) (k : Nat) (v : DWord) : (s.setReg k v).parts = s.parts := rfl
@[simp] theorem State.setReg_partPend (s : State) (k : Nat) (v : DWord) : (s.setReg k v).partPend = s.partPend := rfl
@[simp] theorem State.setReg_threads (s : State) (k : Nat) (v : DWord) : (s.setReg k v).threads = s.threads := rfl
@[simp] theorem State.setReg_grids (s : State) (k : Nat) (v : DWord) : (s.setReg k v).grids = s.grids := rfl
@[simp] theorem State.setReg_blocks (s : State) (k : Nat) (v : DWord) : (s.setReg k v).blocks = s.blocks := rfl
@[simp] theorem State.setReg_groups (s : State) (k : Nat) (v : DWord) : (s.setReg k v).groups = s.groups := rfl
@[simp] theorem State.setReg_cores (s : State) (k : Nat) (v : DWord) : (s.setReg k v).cores = s.cores := rfl
@[simp] theorem State.setReg_clusters (s : State) (k : Nat) (v : DWord) : (s.setReg k v).clusters = s.clusters := rfl
@[simp] theorem State.setReg_buckets (s : State) (k : Nat) (v : DWord) : (s.setReg k v).buckets = s.buckets := rfl
@[simp] theorem State.setReg_ports (s : State) (k : Nat) (v : DWord) : (s.setReg k v).ports = s.ports := rfl
@[simp] theorem State.setReg_txns (s : State) (k : Nat) (v : DWord) : (s.setReg k v).txns = s.txns := rfl
@[simp] theorem State.setReg_bist (s : State) (k : Nat) (v : DWord) : (s.setReg k v).bist = s.bist := rfl
@[simp] theorem State.setReg_margin (s : State) (k : Nat) (v : DWord) : (s.setReg k v).margin = s.margin := rfl
@[simp] theorem State.setReg_out (s : State) (k : Nat) (v : DWord) : (s.setReg k v).out = s.out := rfl
@[simp] theorem State.setReg_agenda (s : State) (k : Nat) (v : DWord) : (s.setReg k v).agenda = s.agenda := rfl
@[simp] theorem State.setReg_cur (s : State) (k : Nat) (v : DWord) : (s.setReg k v).cur = s.cur := rfl
@[simp] theorem State.setReg_free (s : State) (k : Nat) (v : DWord) : (s.setReg k v).free = s.free := rfl
@[simp] theorem State.setReg_nextId (s : State) (k : Nat) (v : DWord) : (s.setReg k v).nextId = s.nextId := rfl

/-! ### newId -/

@[simp] theorem State.newId_timebase (s : State) : s.newId.2.timebase = s.timebase := rfl
@[simp] theorem State.newId_mfg (s : State) : s.newId.2.mfg = s.mfg := rfl
@[simp] theorem State.newId_clkFault (s : State) : s.newId.2.clkFault = s.clkFault := rfl
@[simp] theorem State.newId_recovery (s : State) : s.newId.2.recovery = s.recovery := rfl
@[simp] theorem State.newId_staging (s : State) : s.newId.2.staging = s.staging := rfl
@[simp] theorem State.newId_fusedSvn (s : State) : s.newId.2.fusedSvn = s.fusedSvn := rfl
@[simp] theorem State.newId_keyDigest (s : State) : s.newId.2.keyDigest = s.keyDigest := rfl
@[simp] theorem State.newId_image (s : State) : s.newId.2.image = s.image := rfl
@[simp] theorem State.newId_defects (s : State) : s.newId.2.defects = s.defects := rfl
@[simp] theorem State.newId_power (s : State) : s.newId.2.power = s.power := rfl
@[simp] theorem State.newId_idleAt (s : State) : s.newId.2.idleAt = s.idleAt := rfl
@[simp] theorem State.newId_clocks (s : State) : s.newId.2.clocks = s.clocks := rfl
@[simp] theorem State.newId_vfEnable (s : State) : s.newId.2.vfEnable = s.vfEnable := rfl
@[simp] theorem State.newId_window (s : State) : s.newId.2.window = s.window := rfl
@[simp] theorem State.newId_regs (s : State) : s.newId.2.regs = s.regs := rfl
@[simp] theorem State.newId_mem (s : State) : s.newId.2.mem = s.mem := rfl
@[simp] theorem State.newId_cxlBytes (s : State) : s.newId.2.cxlBytes = s.cxlBytes := rfl
@[simp] theorem State.newId_home (s : State) : s.newId.2.home = s.home := rfl
@[simp] theorem State.newId_rdc (s : State) : s.newId.2.rdc = s.rdc := rfl
@[simp] theorem State.newId_l1 (s : State) : s.newId.2.l1 = s.l1 := rfl
@[simp] theorem State.newId_walks (s : State) : s.newId.2.walks = s.walks := rfl
@[simp] theorem State.newId_atc (s : State) : s.newId.2.atc = s.atc := rfl
@[simp] theorem State.newId_flight (s : State) : s.newId.2.flight = s.flight := rfl
@[simp] theorem State.newId_reqs (s : State) : s.newId.2.reqs = s.reqs := rfl
@[simp] theorem State.newId_resps (s : State) : s.newId.2.resps = s.resps := rfl
@[simp] theorem State.newId_priReqs (s : State) : s.newId.2.priReqs = s.priReqs := rfl
@[simp] theorem State.newId_vds (s : State) : s.newId.2.vds = s.vds := rfl
@[simp] theorem State.newId_parts (s : State) : s.newId.2.parts = s.parts := rfl
@[simp] theorem State.newId_partPend (s : State) : s.newId.2.partPend = s.partPend := rfl
@[simp] theorem State.newId_threads (s : State) : s.newId.2.threads = s.threads := rfl
@[simp] theorem State.newId_grids (s : State) : s.newId.2.grids = s.grids := rfl
@[simp] theorem State.newId_blocks (s : State) : s.newId.2.blocks = s.blocks := rfl
@[simp] theorem State.newId_groups (s : State) : s.newId.2.groups = s.groups := rfl
@[simp] theorem State.newId_cores (s : State) : s.newId.2.cores = s.cores := rfl
@[simp] theorem State.newId_clusters (s : State) : s.newId.2.clusters = s.clusters := rfl
@[simp] theorem State.newId_buckets (s : State) : s.newId.2.buckets = s.buckets := rfl
@[simp] theorem State.newId_ports (s : State) : s.newId.2.ports = s.ports := rfl
@[simp] theorem State.newId_txns (s : State) : s.newId.2.txns = s.txns := rfl
@[simp] theorem State.newId_bist (s : State) : s.newId.2.bist = s.bist := rfl
@[simp] theorem State.newId_margin (s : State) : s.newId.2.margin = s.margin := rfl
@[simp] theorem State.newId_out (s : State) : s.newId.2.out = s.out := rfl
@[simp] theorem State.newId_agenda (s : State) : s.newId.2.agenda = s.agenda := rfl
@[simp] theorem State.newId_cur (s : State) : s.newId.2.cur = s.cur := rfl
@[simp] theorem State.newId_free (s : State) : s.newId.2.free = s.free := rfl

/-! ### withdraw, raiseHalt -/

@[simp] theorem State.withdraw_timebase (s : State) (n : Nat) : (s.withdraw n).timebase = s.timebase := rfl
@[simp] theorem State.withdraw_mfg (s : State) (n : Nat) : (s.withdraw n).mfg = s.mfg := rfl
@[simp] theorem State.withdraw_clkFault (s : State) (n : Nat) : (s.withdraw n).clkFault = s.clkFault := rfl
@[simp] theorem State.withdraw_recovery (s : State) (n : Nat) : (s.withdraw n).recovery = s.recovery := rfl
@[simp] theorem State.withdraw_staging (s : State) (n : Nat) : (s.withdraw n).staging = s.staging := rfl
@[simp] theorem State.withdraw_fusedSvn (s : State) (n : Nat) : (s.withdraw n).fusedSvn = s.fusedSvn := rfl
@[simp] theorem State.withdraw_keyDigest (s : State) (n : Nat) : (s.withdraw n).keyDigest = s.keyDigest := rfl
@[simp] theorem State.withdraw_image (s : State) (n : Nat) : (s.withdraw n).image = s.image := rfl
@[simp] theorem State.withdraw_defects (s : State) (n : Nat) : (s.withdraw n).defects = s.defects := rfl
@[simp] theorem State.withdraw_power (s : State) (n : Nat) : (s.withdraw n).power = s.power := rfl
@[simp] theorem State.withdraw_idleAt (s : State) (n : Nat) : (s.withdraw n).idleAt = s.idleAt := rfl
@[simp] theorem State.withdraw_clocks (s : State) (n : Nat) : (s.withdraw n).clocks = s.clocks := rfl
@[simp] theorem State.withdraw_vfEnable (s : State) (n : Nat) : (s.withdraw n).vfEnable = s.vfEnable := rfl
@[simp] theorem State.withdraw_window (s : State) (n : Nat) : (s.withdraw n).window = s.window := rfl
@[simp] theorem State.withdraw_regs (s : State) (n : Nat) : (s.withdraw n).regs = s.regs := rfl
@[simp] theorem State.withdraw_mem (s : State) (n : Nat) : (s.withdraw n).mem = s.mem := rfl
@[simp] theorem State.withdraw_cxlBytes (s : State) (n : Nat) : (s.withdraw n).cxlBytes = s.cxlBytes := rfl
@[simp] theorem State.withdraw_home (s : State) (n : Nat) : (s.withdraw n).home = s.home := rfl
@[simp] theorem State.withdraw_rdc (s : State) (n : Nat) : (s.withdraw n).rdc = s.rdc := rfl
@[simp] theorem State.withdraw_l1 (s : State) (n : Nat) : (s.withdraw n).l1 = s.l1 := rfl
@[simp] theorem State.withdraw_walks (s : State) (n : Nat) : (s.withdraw n).walks = s.walks := rfl
@[simp] theorem State.withdraw_atc (s : State) (n : Nat) : (s.withdraw n).atc = s.atc := rfl
@[simp] theorem State.withdraw_flight (s : State) (n : Nat) : (s.withdraw n).flight = s.flight := rfl
@[simp] theorem State.withdraw_reqs (s : State) (n : Nat) : (s.withdraw n).reqs = s.reqs := rfl
@[simp] theorem State.withdraw_resps (s : State) (n : Nat) : (s.withdraw n).resps = s.resps := rfl
@[simp] theorem State.withdraw_priReqs (s : State) (n : Nat) : (s.withdraw n).priReqs = s.priReqs := rfl
@[simp] theorem State.withdraw_vds (s : State) (n : Nat) : (s.withdraw n).vds = s.vds := rfl
@[simp] theorem State.withdraw_parts (s : State) (n : Nat) : (s.withdraw n).parts = s.parts := rfl
@[simp] theorem State.withdraw_partPend (s : State) (n : Nat) : (s.withdraw n).partPend = s.partPend := rfl
@[simp] theorem State.withdraw_threads (s : State) (n : Nat) : (s.withdraw n).threads = s.threads := rfl
@[simp] theorem State.withdraw_grids (s : State) (n : Nat) : (s.withdraw n).grids = s.grids := rfl
@[simp] theorem State.withdraw_blocks (s : State) (n : Nat) : (s.withdraw n).blocks = s.blocks := rfl
@[simp] theorem State.withdraw_groups (s : State) (n : Nat) : (s.withdraw n).groups = s.groups := rfl
@[simp] theorem State.withdraw_cores (s : State) (n : Nat) : (s.withdraw n).cores = s.cores := rfl
@[simp] theorem State.withdraw_buckets (s : State) (n : Nat) : (s.withdraw n).buckets = s.buckets := rfl
@[simp] theorem State.withdraw_ports (s : State) (n : Nat) : (s.withdraw n).ports = s.ports := rfl
@[simp] theorem State.withdraw_txns (s : State) (n : Nat) : (s.withdraw n).txns = s.txns := rfl
@[simp] theorem State.withdraw_bist (s : State) (n : Nat) : (s.withdraw n).bist = s.bist := rfl
@[simp] theorem State.withdraw_margin (s : State) (n : Nat) : (s.withdraw n).margin = s.margin := rfl
@[simp] theorem State.withdraw_out (s : State) (n : Nat) : (s.withdraw n).out = s.out := rfl
@[simp] theorem State.withdraw_agenda (s : State) (n : Nat) : (s.withdraw n).agenda = s.agenda := rfl
@[simp] theorem State.withdraw_cur (s : State) (n : Nat) : (s.withdraw n).cur = s.cur := rfl
@[simp] theorem State.withdraw_free (s : State) (n : Nat) : (s.withdraw n).free = s.free := rfl
@[simp] theorem State.withdraw_nextId (s : State) (n : Nat) : (s.withdraw n).nextId = s.nextId := rfl
@[simp] theorem State.raiseHalt_timebase (s : State) (v : BitVec 8) (f : BitVec 16) (a b : Bool) :
    (s.raiseHalt v f a b).timebase = s.timebase := by
  unfold State.raiseHalt; dsimp only; split
  · rfl
  · split <;> rfl
@[simp] theorem State.raiseHalt_mfg (s : State) (v : BitVec 8) (f : BitVec 16) (a b : Bool) :
    (s.raiseHalt v f a b).mfg = s.mfg := by
  unfold State.raiseHalt; dsimp only; split
  · rfl
  · split <;> rfl
@[simp] theorem State.raiseHalt_clkFault (s : State) (v : BitVec 8) (f : BitVec 16) (a b : Bool) :
    (s.raiseHalt v f a b).clkFault = s.clkFault := by
  unfold State.raiseHalt; dsimp only; split
  · rfl
  · split <;> rfl
@[simp] theorem State.raiseHalt_recovery (s : State) (v : BitVec 8) (f : BitVec 16) (a b : Bool) :
    (s.raiseHalt v f a b).recovery = s.recovery := by
  unfold State.raiseHalt; dsimp only; split
  · rfl
  · split <;> rfl
@[simp] theorem State.raiseHalt_staging (s : State) (v : BitVec 8) (f : BitVec 16) (a b : Bool) :
    (s.raiseHalt v f a b).staging = s.staging := by
  unfold State.raiseHalt; dsimp only; split
  · rfl
  · split <;> rfl
@[simp] theorem State.raiseHalt_fusedSvn (s : State) (v : BitVec 8) (f : BitVec 16) (a b : Bool) :
    (s.raiseHalt v f a b).fusedSvn = s.fusedSvn := by
  unfold State.raiseHalt; dsimp only; split
  · rfl
  · split <;> rfl
@[simp] theorem State.raiseHalt_keyDigest (s : State) (v : BitVec 8) (f : BitVec 16) (a b : Bool) :
    (s.raiseHalt v f a b).keyDigest = s.keyDigest := by
  unfold State.raiseHalt; dsimp only; split
  · rfl
  · split <;> rfl
@[simp] theorem State.raiseHalt_image (s : State) (v : BitVec 8) (f : BitVec 16) (a b : Bool) :
    (s.raiseHalt v f a b).image = s.image := by
  unfold State.raiseHalt; dsimp only; split
  · rfl
  · split <;> rfl
@[simp] theorem State.raiseHalt_defects (s : State) (v : BitVec 8) (f : BitVec 16) (a b : Bool) :
    (s.raiseHalt v f a b).defects = s.defects := by
  unfold State.raiseHalt; dsimp only; split
  · rfl
  · split <;> rfl
@[simp] theorem State.raiseHalt_power (s : State) (v : BitVec 8) (f : BitVec 16) (a b : Bool) :
    (s.raiseHalt v f a b).power = s.power := by
  unfold State.raiseHalt; dsimp only; split
  · rfl
  · split <;> rfl
@[simp] theorem State.raiseHalt_idleAt (s : State) (v : BitVec 8) (f : BitVec 16) (a b : Bool) :
    (s.raiseHalt v f a b).idleAt = s.idleAt := by
  unfold State.raiseHalt; dsimp only; split
  · rfl
  · split <;> rfl
@[simp] theorem State.raiseHalt_clocks (s : State) (v : BitVec 8) (f : BitVec 16) (a b : Bool) :
    (s.raiseHalt v f a b).clocks = s.clocks := by
  unfold State.raiseHalt; dsimp only; split
  · rfl
  · split <;> rfl
@[simp] theorem State.raiseHalt_vfEnable (s : State) (v : BitVec 8) (f : BitVec 16) (a b : Bool) :
    (s.raiseHalt v f a b).vfEnable = s.vfEnable := by
  unfold State.raiseHalt; dsimp only; split
  · rfl
  · split <;> rfl
@[simp] theorem State.raiseHalt_window (s : State) (v : BitVec 8) (f : BitVec 16) (a b : Bool) :
    (s.raiseHalt v f a b).window = s.window := by
  unfold State.raiseHalt; dsimp only; split
  · rfl
  · split <;> rfl
@[simp] theorem State.raiseHalt_regs (s : State) (v : BitVec 8) (f : BitVec 16) (a b : Bool) :
    (s.raiseHalt v f a b).regs = s.regs := by
  unfold State.raiseHalt; dsimp only; split
  · rfl
  · split <;> rfl
@[simp] theorem State.raiseHalt_mem (s : State) (v : BitVec 8) (f : BitVec 16) (a b : Bool) :
    (s.raiseHalt v f a b).mem = s.mem := by
  unfold State.raiseHalt; dsimp only; split
  · rfl
  · split <;> rfl
@[simp] theorem State.raiseHalt_cxlBytes (s : State) (v : BitVec 8) (f : BitVec 16) (a b : Bool) :
    (s.raiseHalt v f a b).cxlBytes = s.cxlBytes := by
  unfold State.raiseHalt; dsimp only; split
  · rfl
  · split <;> rfl
@[simp] theorem State.raiseHalt_home (s : State) (v : BitVec 8) (f : BitVec 16) (a b : Bool) :
    (s.raiseHalt v f a b).home = s.home := by
  unfold State.raiseHalt; dsimp only; split
  · rfl
  · split <;> rfl
@[simp] theorem State.raiseHalt_rdc (s : State) (v : BitVec 8) (f : BitVec 16) (a b : Bool) :
    (s.raiseHalt v f a b).rdc = s.rdc := by
  unfold State.raiseHalt; dsimp only; split
  · rfl
  · split <;> rfl
@[simp] theorem State.raiseHalt_l1 (s : State) (v : BitVec 8) (f : BitVec 16) (a b : Bool) :
    (s.raiseHalt v f a b).l1 = s.l1 := by
  unfold State.raiseHalt; dsimp only; split
  · rfl
  · split <;> rfl
@[simp] theorem State.raiseHalt_walks (s : State) (v : BitVec 8) (f : BitVec 16) (a b : Bool) :
    (s.raiseHalt v f a b).walks = s.walks := by
  unfold State.raiseHalt; dsimp only; split
  · rfl
  · split <;> rfl
@[simp] theorem State.raiseHalt_atc (s : State) (v : BitVec 8) (f : BitVec 16) (a b : Bool) :
    (s.raiseHalt v f a b).atc = s.atc := by
  unfold State.raiseHalt; dsimp only; split
  · rfl
  · split <;> rfl
@[simp] theorem State.raiseHalt_flight (s : State) (v : BitVec 8) (f : BitVec 16) (a b : Bool) :
    (s.raiseHalt v f a b).flight = s.flight := by
  unfold State.raiseHalt; dsimp only; split
  · rfl
  · split <;> rfl
@[simp] theorem State.raiseHalt_reqs (s : State) (v : BitVec 8) (f : BitVec 16) (a b : Bool) :
    (s.raiseHalt v f a b).reqs = s.reqs := by
  unfold State.raiseHalt; dsimp only; split
  · rfl
  · split <;> rfl
@[simp] theorem State.raiseHalt_resps (s : State) (v : BitVec 8) (f : BitVec 16) (a b : Bool) :
    (s.raiseHalt v f a b).resps = s.resps := by
  unfold State.raiseHalt; dsimp only; split
  · rfl
  · split <;> rfl
@[simp] theorem State.raiseHalt_priReqs (s : State) (v : BitVec 8) (f : BitVec 16) (a b : Bool) :
    (s.raiseHalt v f a b).priReqs = s.priReqs := by
  unfold State.raiseHalt; dsimp only; split
  · rfl
  · split <;> rfl
@[simp] theorem State.raiseHalt_parts (s : State) (v : BitVec 8) (f : BitVec 16) (a b : Bool) :
    (s.raiseHalt v f a b).parts = s.parts := by
  unfold State.raiseHalt; dsimp only; split
  · rfl
  · split <;> rfl
@[simp] theorem State.raiseHalt_partPend (s : State) (v : BitVec 8) (f : BitVec 16) (a b : Bool) :
    (s.raiseHalt v f a b).partPend = s.partPend := by
  unfold State.raiseHalt; dsimp only; split
  · rfl
  · split <;> rfl
@[simp] theorem State.raiseHalt_threads (s : State) (v : BitVec 8) (f : BitVec 16) (a b : Bool) :
    (s.raiseHalt v f a b).threads = s.threads := by
  unfold State.raiseHalt; dsimp only; split
  · rfl
  · split <;> rfl
@[simp] theorem State.raiseHalt_grids (s : State) (v : BitVec 8) (f : BitVec 16) (a b : Bool) :
    (s.raiseHalt v f a b).grids = s.grids := by
  unfold State.raiseHalt; dsimp only; split
  · rfl
  · split <;> rfl
@[simp] theorem State.raiseHalt_blocks (s : State) (v : BitVec 8) (f : BitVec 16) (a b : Bool) :
    (s.raiseHalt v f a b).blocks = s.blocks := by
  unfold State.raiseHalt; dsimp only; split
  · rfl
  · split <;> rfl
@[simp] theorem State.raiseHalt_groups (s : State) (v : BitVec 8) (f : BitVec 16) (a b : Bool) :
    (s.raiseHalt v f a b).groups = s.groups := by
  unfold State.raiseHalt; dsimp only; split
  · rfl
  · split <;> rfl
@[simp] theorem State.raiseHalt_cores (s : State) (v : BitVec 8) (f : BitVec 16) (a b : Bool) :
    (s.raiseHalt v f a b).cores = s.cores := by
  unfold State.raiseHalt; dsimp only; split
  · rfl
  · split <;> rfl
@[simp] theorem State.raiseHalt_clusters (s : State) (v : BitVec 8) (f : BitVec 16) (a b : Bool) :
    (s.raiseHalt v f a b).clusters = s.clusters := by
  unfold State.raiseHalt; dsimp only; split
  · rfl
  · split <;> rfl
@[simp] theorem State.raiseHalt_buckets (s : State) (v : BitVec 8) (f : BitVec 16) (a b : Bool) :
    (s.raiseHalt v f a b).buckets = s.buckets := by
  unfold State.raiseHalt; dsimp only; split
  · rfl
  · split <;> rfl
@[simp] theorem State.raiseHalt_ports (s : State) (v : BitVec 8) (f : BitVec 16) (a b : Bool) :
    (s.raiseHalt v f a b).ports = s.ports := by
  unfold State.raiseHalt; dsimp only; split
  · rfl
  · split <;> rfl
@[simp] theorem State.raiseHalt_txns (s : State) (v : BitVec 8) (f : BitVec 16) (a b : Bool) :
    (s.raiseHalt v f a b).txns = s.txns := by
  unfold State.raiseHalt; dsimp only; split
  · rfl
  · split <;> rfl
@[simp] theorem State.raiseHalt_bist (s : State) (v : BitVec 8) (f : BitVec 16) (a b : Bool) :
    (s.raiseHalt v f a b).bist = s.bist := by
  unfold State.raiseHalt; dsimp only; split
  · rfl
  · split <;> rfl
@[simp] theorem State.raiseHalt_margin (s : State) (v : BitVec 8) (f : BitVec 16) (a b : Bool) :
    (s.raiseHalt v f a b).margin = s.margin := by
  unfold State.raiseHalt; dsimp only; split
  · rfl
  · split <;> rfl
@[simp] theorem State.raiseHalt_out (s : State) (v : BitVec 8) (f : BitVec 16) (a b : Bool) :
    (s.raiseHalt v f a b).out = s.out := by
  unfold State.raiseHalt; dsimp only; split
  · rfl
  · split <;> rfl
@[simp] theorem State.raiseHalt_agenda (s : State) (v : BitVec 8) (f : BitVec 16) (a b : Bool) :
    (s.raiseHalt v f a b).agenda = s.agenda := by
  unfold State.raiseHalt; dsimp only; split
  · rfl
  · split <;> rfl
@[simp] theorem State.raiseHalt_cur (s : State) (v : BitVec 8) (f : BitVec 16) (a b : Bool) :
    (s.raiseHalt v f a b).cur = s.cur := by
  unfold State.raiseHalt; dsimp only; split
  · rfl
  · split <;> rfl
@[simp] theorem State.raiseHalt_free (s : State) (v : BitVec 8) (f : BitVec 16) (a b : Bool) :
    (s.raiseHalt v f a b).free = s.free := by
  unfold State.raiseHalt; dsimp only; split
  · rfl
  · split <;> rfl
@[simp] theorem State.raiseHalt_nextId (s : State) (v : BitVec 8) (f : BitVec 16) (a b : Bool) :
    (s.raiseHalt v f a b).nextId = s.nextId := by
  unfold State.raiseHalt; dsimp only; split
  · rfl
  · split <;> rfl

/-! ### Groups -/

@[simp] theorem Group.setPath_id (g : Group) (b : Bool) (p : Option Path) : (g.setPath b p).id = g.id := by
  cases b <;> rfl
@[simp] theorem Group.setPath_blk (g : Group) (b : Bool) (p : Option Path) : (g.setPath b p).blk = g.blk := by
  cases b <;> rfl
@[simp] theorem Group.setPath_idx (g : Group) (b : Bool) (p : Option Path) : (g.setPath b p).idx = g.idx := by
  cases b <;> rfl
@[simp] theorem Group.setPath_place (g : Group) (b : Bool) (p : Option Path) : (g.setPath b p).place = g.place := by
  cases b <;> rfl
@[simp] theorem Group.setPath_phase (g : Group) (b : Bool) (p : Option Path) : (g.setPath b p).phase = g.phase := by
  cases b <;> rfl
@[simp] theorem Group.setPath_regn (g : Group) (b : Bool) (p : Option Path) : (g.setPath b p).regn = g.regn := by
  cases b <;> rfl
@[simp] theorem Group.setPath_sregs (g : Group) (b : Bool) (p : Option Path) : (g.setPath b p).sregs = g.sregs := by
  cases b <;> rfl
@[simp] theorem Group.setPath_preds (g : Group) (b : Bool) (p : Option Path) : (g.setPath b p).preds = g.preds := by
  cases b <;> rfl
@[simp] theorem Group.setPath_m0 (g : Group) (b : Bool) (p : Option Path) : (g.setPath b p).m0 = g.m0 := by
  cases b <;> rfl
@[simp] theorem Group.setPath_m1 (g : Group) (b : Bool) (p : Option Path) : (g.setPath b p).m1 = g.m1 := by
  cases b <;> rfl
@[simp] theorem Group.setPath_phys (g : Group) (b : Bool) (p : Option Path) : (g.setPath b p).phys = g.phys := by
  cases b <;> rfl
@[simp] theorem Group.setPath_stack (g : Group) (b : Bool) (p : Option Path) : (g.setPath b p).stack = g.stack := by
  cases b <;> rfl
@[simp] theorem Group.setPath_fstat (g : Group) (b : Bool) (p : Option Path) : (g.setPath b p).fstat = g.fstat := by
  cases b <;> rfl
@[simp] theorem Group.setPath_stall (g : Group) (b : Bool) (p : Option Path) : (g.setPath b p).stall = g.stall := by
  cases b <;> rfl
@[simp] theorem Group.setPath_trap (g : Group) (b : Bool) (p : Option Path) : (g.setPath b p).trap = g.trap := by
  cases b <;> rfl
@[simp] theorem Group.setPath_sb (g : Group) (b : Bool) (p : Option Path) : (g.setPath b p).sb = g.sb := by
  cases b <;> rfl
@[simp] theorem Group.setPath_sbRest (g : Group) (b : Bool) (p : Option Path) : (g.setPath b p).sbRest = g.sbRest := by
  cases b <;> rfl
@[simp] theorem Group.setPath_cnt (g : Group) (b : Bool) (p : Option Path) : (g.setPath b p).cnt = g.cnt := by
  cases b <;> rfl
@[simp] theorem Group.setPath_rels (g : Group) (b : Bool) (p : Option Path) : (g.setPath b p).rels = g.rels := by
  cases b <;> rfl
@[simp] theorem Group.setPath_replay (g : Group) (b : Bool) (p : Option Path) : (g.setPath b p).replay = g.replay := by
  cases b <;> rfl
@[simp] theorem Group.setPath_bars (g : Group) (b : Bool) (p : Option Path) : (g.setPath b p).bars = g.bars := by
  cases b <;> rfl
@[simp] theorem Group.setPath_batch (g : Group) (b : Bool) (p : Option Path) : (g.setPath b p).batch = g.batch := by
  cases b <;> rfl
@[simp] theorem Group.setPath_openOps (g : Group) (b : Bool) (p : Option Path) : (g.setPath b p).openOps = g.openOps := by
  cases b <;> rfl
@[simp] theorem Group.setPath_batches (g : Group) (b : Bool) (p : Option Path) : (g.setPath b p).batches = g.batches := by
  cases b <;> rfl
@[simp] theorem Group.setPath_copies (g : Group) (b : Bool) (p : Option Path) : (g.setPath b p).copies = g.copies := by
  cases b <;> rfl
@[simp] theorem Group.setPath_lastOp (g : Group) (b : Bool) (p : Option Path) : (g.setPath b p).lastOp = g.lastOp := by
  cases b <;> rfl
@[simp] theorem Group.setPath_done (g : Group) (b : Bool) (p : Option Path) : (g.setPath b p).done = g.done := by
  cases b <;> rfl
@[simp] theorem Group.setPath_mst (g : Group) (b : Bool) (p : Option Path) : (g.setPath b p).mst = g.mst := by
  cases b <;> rfl
@[simp] theorem Group.setPath_obs (g : Group) (b : Bool) (p : Option Path) : (g.setPath b p).obs = g.obs := by
  cases b <;> rfl
@[simp] theorem Group.setPath_spills (g : Group) (b : Bool) (p : Option Path) : (g.setPath b p).spills = g.spills := by
  cases b <;> rfl
@[simp] theorem Group.setPath_folds (g : Group) (b : Bool) (p : Option Path) : (g.setPath b p).folds = g.folds := by
  cases b <;> rfl
@[simp] theorem Group.setPath_merges (g : Group) (b : Bool) (p : Option Path) : (g.setPath b p).merges = g.merges := by
  cases b <;> rfl
@[simp] theorem Group.setPath_mq (g : Group) (b : Bool) (p : Option Path) : (g.setPath b p).mq = g.mq := by
  cases b <;> rfl
@[simp] theorem Group.setPath_halved (g : Group) (b : Bool) (p : Option Path) : (g.setPath b p).halved = g.halved := by
  cases b <;> rfl
@[simp] theorem Group.setPath_note (g : Group) (b : Bool) (p : Option Path) : (g.setPath b p).note = g.note := by
  cases b <;> rfl

@[simp] theorem Group.setSreg_id (g : Group) (r : BitVec 6) (v : DWord) : (g.setSreg r v).id = g.id := by
  unfold Group.setSreg; split <;> rfl
@[simp] theorem Group.setSreg_blk (g : Group) (r : BitVec 6) (v : DWord) : (g.setSreg r v).blk = g.blk := by
  unfold Group.setSreg; split <;> rfl
@[simp] theorem Group.setSreg_idx (g : Group) (r : BitVec 6) (v : DWord) : (g.setSreg r v).idx = g.idx := by
  unfold Group.setSreg; split <;> rfl
@[simp] theorem Group.setSreg_place (g : Group) (r : BitVec 6) (v : DWord) : (g.setSreg r v).place = g.place := by
  unfold Group.setSreg; split <;> rfl
@[simp] theorem Group.setSreg_phase (g : Group) (r : BitVec 6) (v : DWord) : (g.setSreg r v).phase = g.phase := by
  unfold Group.setSreg; split <;> rfl
@[simp] theorem Group.setSreg_regn (g : Group) (r : BitVec 6) (v : DWord) : (g.setSreg r v).regn = g.regn := by
  unfold Group.setSreg; split <;> rfl
@[simp] theorem Group.setSreg_preds (g : Group) (r : BitVec 6) (v : DWord) : (g.setSreg r v).preds = g.preds := by
  unfold Group.setSreg; split <;> rfl
@[simp] theorem Group.setSreg_m0 (g : Group) (r : BitVec 6) (v : DWord) : (g.setSreg r v).m0 = g.m0 := by
  unfold Group.setSreg; split <;> rfl
@[simp] theorem Group.setSreg_m1 (g : Group) (r : BitVec 6) (v : DWord) : (g.setSreg r v).m1 = g.m1 := by
  unfold Group.setSreg; split <;> rfl
@[simp] theorem Group.setSreg_phys (g : Group) (r : BitVec 6) (v : DWord) : (g.setSreg r v).phys = g.phys := by
  unfold Group.setSreg; split <;> rfl
@[simp] theorem Group.setSreg_slot0 (g : Group) (r : BitVec 6) (v : DWord) : (g.setSreg r v).slot0 = g.slot0 := by
  unfold Group.setSreg; split <;> rfl
@[simp] theorem Group.setSreg_slot1 (g : Group) (r : BitVec 6) (v : DWord) : (g.setSreg r v).slot1 = g.slot1 := by
  unfold Group.setSreg; split <;> rfl
@[simp] theorem Group.setSreg_stack (g : Group) (r : BitVec 6) (v : DWord) : (g.setSreg r v).stack = g.stack := by
  unfold Group.setSreg; split <;> rfl
@[simp] theorem Group.setSreg_fstat (g : Group) (r : BitVec 6) (v : DWord) : (g.setSreg r v).fstat = g.fstat := by
  unfold Group.setSreg; split <;> rfl
@[simp] theorem Group.setSreg_stall (g : Group) (r : BitVec 6) (v : DWord) : (g.setSreg r v).stall = g.stall := by
  unfold Group.setSreg; split <;> rfl
@[simp] theorem Group.setSreg_trap (g : Group) (r : BitVec 6) (v : DWord) : (g.setSreg r v).trap = g.trap := by
  unfold Group.setSreg; split <;> rfl
@[simp] theorem Group.setSreg_sb (g : Group) (r : BitVec 6) (v : DWord) : (g.setSreg r v).sb = g.sb := by
  unfold Group.setSreg; split <;> rfl
@[simp] theorem Group.setSreg_sbRest (g : Group) (r : BitVec 6) (v : DWord) : (g.setSreg r v).sbRest = g.sbRest := by
  unfold Group.setSreg; split <;> rfl
@[simp] theorem Group.setSreg_cnt (g : Group) (r : BitVec 6) (v : DWord) : (g.setSreg r v).cnt = g.cnt := by
  unfold Group.setSreg; split <;> rfl
@[simp] theorem Group.setSreg_rels (g : Group) (r : BitVec 6) (v : DWord) : (g.setSreg r v).rels = g.rels := by
  unfold Group.setSreg; split <;> rfl
@[simp] theorem Group.setSreg_replay (g : Group) (r : BitVec 6) (v : DWord) : (g.setSreg r v).replay = g.replay := by
  unfold Group.setSreg; split <;> rfl
@[simp] theorem Group.setSreg_bars (g : Group) (r : BitVec 6) (v : DWord) : (g.setSreg r v).bars = g.bars := by
  unfold Group.setSreg; split <;> rfl
@[simp] theorem Group.setSreg_batch (g : Group) (r : BitVec 6) (v : DWord) : (g.setSreg r v).batch = g.batch := by
  unfold Group.setSreg; split <;> rfl
@[simp] theorem Group.setSreg_openOps (g : Group) (r : BitVec 6) (v : DWord) : (g.setSreg r v).openOps = g.openOps := by
  unfold Group.setSreg; split <;> rfl
@[simp] theorem Group.setSreg_batches (g : Group) (r : BitVec 6) (v : DWord) : (g.setSreg r v).batches = g.batches := by
  unfold Group.setSreg; split <;> rfl
@[simp] theorem Group.setSreg_copies (g : Group) (r : BitVec 6) (v : DWord) : (g.setSreg r v).copies = g.copies := by
  unfold Group.setSreg; split <;> rfl
@[simp] theorem Group.setSreg_lastOp (g : Group) (r : BitVec 6) (v : DWord) : (g.setSreg r v).lastOp = g.lastOp := by
  unfold Group.setSreg; split <;> rfl
@[simp] theorem Group.setSreg_done (g : Group) (r : BitVec 6) (v : DWord) : (g.setSreg r v).done = g.done := by
  unfold Group.setSreg; split <;> rfl
@[simp] theorem Group.setSreg_mst (g : Group) (r : BitVec 6) (v : DWord) : (g.setSreg r v).mst = g.mst := by
  unfold Group.setSreg; split <;> rfl
@[simp] theorem Group.setSreg_obs (g : Group) (r : BitVec 6) (v : DWord) : (g.setSreg r v).obs = g.obs := by
  unfold Group.setSreg; split <;> rfl
@[simp] theorem Group.setSreg_spills (g : Group) (r : BitVec 6) (v : DWord) : (g.setSreg r v).spills = g.spills := by
  unfold Group.setSreg; split <;> rfl
@[simp] theorem Group.setSreg_folds (g : Group) (r : BitVec 6) (v : DWord) : (g.setSreg r v).folds = g.folds := by
  unfold Group.setSreg; split <;> rfl
@[simp] theorem Group.setSreg_merges (g : Group) (r : BitVec 6) (v : DWord) : (g.setSreg r v).merges = g.merges := by
  unfold Group.setSreg; split <;> rfl
@[simp] theorem Group.setSreg_mq (g : Group) (r : BitVec 6) (v : DWord) : (g.setSreg r v).mq = g.mq := by
  unfold Group.setSreg; split <;> rfl
@[simp] theorem Group.setSreg_halved (g : Group) (r : BitVec 6) (v : DWord) : (g.setSreg r v).halved = g.halved := by
  unfold Group.setSreg; split <;> rfl
@[simp] theorem Group.setSreg_note (g : Group) (r : BitVec 6) (v : DWord) : (g.setSreg r v).note = g.note := by
  unfold Group.setSreg; split <;> rfl

@[simp] theorem Group.setPred_id (g : Group) (r : BitVec 6) (e v : Word) : (g.setPred r e v).id = g.id := by
  unfold Group.setPred; split <;> rfl
@[simp] theorem Group.setPred_blk (g : Group) (r : BitVec 6) (e v : Word) : (g.setPred r e v).blk = g.blk := by
  unfold Group.setPred; split <;> rfl
@[simp] theorem Group.setPred_idx (g : Group) (r : BitVec 6) (e v : Word) : (g.setPred r e v).idx = g.idx := by
  unfold Group.setPred; split <;> rfl
@[simp] theorem Group.setPred_place (g : Group) (r : BitVec 6) (e v : Word) : (g.setPred r e v).place = g.place := by
  unfold Group.setPred; split <;> rfl
@[simp] theorem Group.setPred_phase (g : Group) (r : BitVec 6) (e v : Word) : (g.setPred r e v).phase = g.phase := by
  unfold Group.setPred; split <;> rfl
@[simp] theorem Group.setPred_regn (g : Group) (r : BitVec 6) (e v : Word) : (g.setPred r e v).regn = g.regn := by
  unfold Group.setPred; split <;> rfl
@[simp] theorem Group.setPred_sregs (g : Group) (r : BitVec 6) (e v : Word) : (g.setPred r e v).sregs = g.sregs := by
  unfold Group.setPred; split <;> rfl
@[simp] theorem Group.setPred_m0 (g : Group) (r : BitVec 6) (e v : Word) : (g.setPred r e v).m0 = g.m0 := by
  unfold Group.setPred; split <;> rfl
@[simp] theorem Group.setPred_m1 (g : Group) (r : BitVec 6) (e v : Word) : (g.setPred r e v).m1 = g.m1 := by
  unfold Group.setPred; split <;> rfl
@[simp] theorem Group.setPred_phys (g : Group) (r : BitVec 6) (e v : Word) : (g.setPred r e v).phys = g.phys := by
  unfold Group.setPred; split <;> rfl
@[simp] theorem Group.setPred_slot0 (g : Group) (r : BitVec 6) (e v : Word) : (g.setPred r e v).slot0 = g.slot0 := by
  unfold Group.setPred; split <;> rfl
@[simp] theorem Group.setPred_slot1 (g : Group) (r : BitVec 6) (e v : Word) : (g.setPred r e v).slot1 = g.slot1 := by
  unfold Group.setPred; split <;> rfl
@[simp] theorem Group.setPred_stack (g : Group) (r : BitVec 6) (e v : Word) : (g.setPred r e v).stack = g.stack := by
  unfold Group.setPred; split <;> rfl
@[simp] theorem Group.setPred_fstat (g : Group) (r : BitVec 6) (e v : Word) : (g.setPred r e v).fstat = g.fstat := by
  unfold Group.setPred; split <;> rfl
@[simp] theorem Group.setPred_stall (g : Group) (r : BitVec 6) (e v : Word) : (g.setPred r e v).stall = g.stall := by
  unfold Group.setPred; split <;> rfl
@[simp] theorem Group.setPred_trap (g : Group) (r : BitVec 6) (e v : Word) : (g.setPred r e v).trap = g.trap := by
  unfold Group.setPred; split <;> rfl
@[simp] theorem Group.setPred_sb (g : Group) (r : BitVec 6) (e v : Word) : (g.setPred r e v).sb = g.sb := by
  unfold Group.setPred; split <;> rfl
@[simp] theorem Group.setPred_sbRest (g : Group) (r : BitVec 6) (e v : Word) : (g.setPred r e v).sbRest = g.sbRest := by
  unfold Group.setPred; split <;> rfl
@[simp] theorem Group.setPred_cnt (g : Group) (r : BitVec 6) (e v : Word) : (g.setPred r e v).cnt = g.cnt := by
  unfold Group.setPred; split <;> rfl
@[simp] theorem Group.setPred_rels (g : Group) (r : BitVec 6) (e v : Word) : (g.setPred r e v).rels = g.rels := by
  unfold Group.setPred; split <;> rfl
@[simp] theorem Group.setPred_replay (g : Group) (r : BitVec 6) (e v : Word) : (g.setPred r e v).replay = g.replay := by
  unfold Group.setPred; split <;> rfl
@[simp] theorem Group.setPred_bars (g : Group) (r : BitVec 6) (e v : Word) : (g.setPred r e v).bars = g.bars := by
  unfold Group.setPred; split <;> rfl
@[simp] theorem Group.setPred_batch (g : Group) (r : BitVec 6) (e v : Word) : (g.setPred r e v).batch = g.batch := by
  unfold Group.setPred; split <;> rfl
@[simp] theorem Group.setPred_openOps (g : Group) (r : BitVec 6) (e v : Word) : (g.setPred r e v).openOps = g.openOps := by
  unfold Group.setPred; split <;> rfl
@[simp] theorem Group.setPred_batches (g : Group) (r : BitVec 6) (e v : Word) : (g.setPred r e v).batches = g.batches := by
  unfold Group.setPred; split <;> rfl
@[simp] theorem Group.setPred_copies (g : Group) (r : BitVec 6) (e v : Word) : (g.setPred r e v).copies = g.copies := by
  unfold Group.setPred; split <;> rfl
@[simp] theorem Group.setPred_lastOp (g : Group) (r : BitVec 6) (e v : Word) : (g.setPred r e v).lastOp = g.lastOp := by
  unfold Group.setPred; split <;> rfl
@[simp] theorem Group.setPred_done (g : Group) (r : BitVec 6) (e v : Word) : (g.setPred r e v).done = g.done := by
  unfold Group.setPred; split <;> rfl
@[simp] theorem Group.setPred_mst (g : Group) (r : BitVec 6) (e v : Word) : (g.setPred r e v).mst = g.mst := by
  unfold Group.setPred; split <;> rfl
@[simp] theorem Group.setPred_obs (g : Group) (r : BitVec 6) (e v : Word) : (g.setPred r e v).obs = g.obs := by
  unfold Group.setPred; split <;> rfl
@[simp] theorem Group.setPred_spills (g : Group) (r : BitVec 6) (e v : Word) : (g.setPred r e v).spills = g.spills := by
  unfold Group.setPred; split <;> rfl
@[simp] theorem Group.setPred_folds (g : Group) (r : BitVec 6) (e v : Word) : (g.setPred r e v).folds = g.folds := by
  unfold Group.setPred; split <;> rfl
@[simp] theorem Group.setPred_merges (g : Group) (r : BitVec 6) (e v : Word) : (g.setPred r e v).merges = g.merges := by
  unfold Group.setPred; split <;> rfl
@[simp] theorem Group.setPred_mq (g : Group) (r : BitVec 6) (e v : Word) : (g.setPred r e v).mq = g.mq := by
  unfold Group.setPred; split <;> rfl
@[simp] theorem Group.setPred_halved (g : Group) (r : BitVec 6) (e v : Word) : (g.setPred r e v).halved = g.halved := by
  unfold Group.setPred; split <;> rfl
@[simp] theorem Group.setPred_note (g : Group) (r : BitVec 6) (e v : Word) : (g.setPred r e v).note = g.note := by
  unfold Group.setPred; split <;> rfl

@[simp] theorem Group.setFlags_id (g : Group) (f : Word) : (g.setFlags f).id = g.id := rfl
@[simp] theorem Group.setFlags_blk (g : Group) (f : Word) : (g.setFlags f).blk = g.blk := rfl
@[simp] theorem Group.setFlags_idx (g : Group) (f : Word) : (g.setFlags f).idx = g.idx := rfl
@[simp] theorem Group.setFlags_place (g : Group) (f : Word) : (g.setFlags f).place = g.place := rfl
@[simp] theorem Group.setFlags_phase (g : Group) (f : Word) : (g.setFlags f).phase = g.phase := rfl
@[simp] theorem Group.setFlags_regn (g : Group) (f : Word) : (g.setFlags f).regn = g.regn := rfl
@[simp] theorem Group.setFlags_sregs (g : Group) (f : Word) : (g.setFlags f).sregs = g.sregs := rfl
@[simp] theorem Group.setFlags_preds (g : Group) (f : Word) : (g.setFlags f).preds = g.preds := rfl
@[simp] theorem Group.setFlags_m0 (g : Group) (f : Word) : (g.setFlags f).m0 = g.m0 := rfl
@[simp] theorem Group.setFlags_m1 (g : Group) (f : Word) : (g.setFlags f).m1 = g.m1 := rfl
@[simp] theorem Group.setFlags_phys (g : Group) (f : Word) : (g.setFlags f).phys = g.phys := rfl
@[simp] theorem Group.setFlags_slot0 (g : Group) (f : Word) : (g.setFlags f).slot0 = g.slot0 := rfl
@[simp] theorem Group.setFlags_slot1 (g : Group) (f : Word) : (g.setFlags f).slot1 = g.slot1 := rfl
@[simp] theorem Group.setFlags_stack (g : Group) (f : Word) : (g.setFlags f).stack = g.stack := rfl
@[simp] theorem Group.setFlags_stall (g : Group) (f : Word) : (g.setFlags f).stall = g.stall := rfl
@[simp] theorem Group.setFlags_trap (g : Group) (f : Word) : (g.setFlags f).trap = g.trap := rfl
@[simp] theorem Group.setFlags_sb (g : Group) (f : Word) : (g.setFlags f).sb = g.sb := rfl
@[simp] theorem Group.setFlags_sbRest (g : Group) (f : Word) : (g.setFlags f).sbRest = g.sbRest := rfl
@[simp] theorem Group.setFlags_cnt (g : Group) (f : Word) : (g.setFlags f).cnt = g.cnt := rfl
@[simp] theorem Group.setFlags_rels (g : Group) (f : Word) : (g.setFlags f).rels = g.rels := rfl
@[simp] theorem Group.setFlags_replay (g : Group) (f : Word) : (g.setFlags f).replay = g.replay := rfl
@[simp] theorem Group.setFlags_bars (g : Group) (f : Word) : (g.setFlags f).bars = g.bars := rfl
@[simp] theorem Group.setFlags_batch (g : Group) (f : Word) : (g.setFlags f).batch = g.batch := rfl
@[simp] theorem Group.setFlags_openOps (g : Group) (f : Word) : (g.setFlags f).openOps = g.openOps := rfl
@[simp] theorem Group.setFlags_batches (g : Group) (f : Word) : (g.setFlags f).batches = g.batches := rfl
@[simp] theorem Group.setFlags_copies (g : Group) (f : Word) : (g.setFlags f).copies = g.copies := rfl
@[simp] theorem Group.setFlags_lastOp (g : Group) (f : Word) : (g.setFlags f).lastOp = g.lastOp := rfl
@[simp] theorem Group.setFlags_done (g : Group) (f : Word) : (g.setFlags f).done = g.done := rfl
@[simp] theorem Group.setFlags_mst (g : Group) (f : Word) : (g.setFlags f).mst = g.mst := rfl
@[simp] theorem Group.setFlags_obs (g : Group) (f : Word) : (g.setFlags f).obs = g.obs := rfl
@[simp] theorem Group.setFlags_spills (g : Group) (f : Word) : (g.setFlags f).spills = g.spills := rfl
@[simp] theorem Group.setFlags_folds (g : Group) (f : Word) : (g.setFlags f).folds = g.folds := rfl
@[simp] theorem Group.setFlags_merges (g : Group) (f : Word) : (g.setFlags f).merges = g.merges := rfl
@[simp] theorem Group.setFlags_mq (g : Group) (f : Word) : (g.setFlags f).mq = g.mq := rfl
@[simp] theorem Group.setFlags_halved (g : Group) (f : Word) : (g.setFlags f).halved = g.halved := rfl
@[simp] theorem Group.setFlags_note (g : Group) (f : Word) : (g.setFlags f).note = g.note := rfl

@[simp] theorem Group.setMap_id (g : Group) (b : Bool) (m : List MapEntry) : (g.setMap b m).id = g.id := by
  cases b <;> rfl
@[simp] theorem Group.setMap_blk (g : Group) (b : Bool) (m : List MapEntry) : (g.setMap b m).blk = g.blk := by
  cases b <;> rfl
@[simp] theorem Group.setMap_idx (g : Group) (b : Bool) (m : List MapEntry) : (g.setMap b m).idx = g.idx := by
  cases b <;> rfl
@[simp] theorem Group.setMap_place (g : Group) (b : Bool) (m : List MapEntry) : (g.setMap b m).place = g.place := by
  cases b <;> rfl
@[simp] theorem Group.setMap_phase (g : Group) (b : Bool) (m : List MapEntry) : (g.setMap b m).phase = g.phase := by
  cases b <;> rfl
@[simp] theorem Group.setMap_regn (g : Group) (b : Bool) (m : List MapEntry) : (g.setMap b m).regn = g.regn := by
  cases b <;> rfl
@[simp] theorem Group.setMap_sregs (g : Group) (b : Bool) (m : List MapEntry) : (g.setMap b m).sregs = g.sregs := by
  cases b <;> rfl
@[simp] theorem Group.setMap_preds (g : Group) (b : Bool) (m : List MapEntry) : (g.setMap b m).preds = g.preds := by
  cases b <;> rfl
@[simp] theorem Group.setMap_phys (g : Group) (b : Bool) (m : List MapEntry) : (g.setMap b m).phys = g.phys := by
  cases b <;> rfl
@[simp] theorem Group.setMap_slot0 (g : Group) (b : Bool) (m : List MapEntry) : (g.setMap b m).slot0 = g.slot0 := by
  cases b <;> rfl
@[simp] theorem Group.setMap_slot1 (g : Group) (b : Bool) (m : List MapEntry) : (g.setMap b m).slot1 = g.slot1 := by
  cases b <;> rfl
@[simp] theorem Group.setMap_stack (g : Group) (b : Bool) (m : List MapEntry) : (g.setMap b m).stack = g.stack := by
  cases b <;> rfl
@[simp] theorem Group.setMap_fstat (g : Group) (b : Bool) (m : List MapEntry) : (g.setMap b m).fstat = g.fstat := by
  cases b <;> rfl
@[simp] theorem Group.setMap_stall (g : Group) (b : Bool) (m : List MapEntry) : (g.setMap b m).stall = g.stall := by
  cases b <;> rfl
@[simp] theorem Group.setMap_trap (g : Group) (b : Bool) (m : List MapEntry) : (g.setMap b m).trap = g.trap := by
  cases b <;> rfl
@[simp] theorem Group.setMap_sb (g : Group) (b : Bool) (m : List MapEntry) : (g.setMap b m).sb = g.sb := by
  cases b <;> rfl
@[simp] theorem Group.setMap_sbRest (g : Group) (b : Bool) (m : List MapEntry) : (g.setMap b m).sbRest = g.sbRest := by
  cases b <;> rfl
@[simp] theorem Group.setMap_cnt (g : Group) (b : Bool) (m : List MapEntry) : (g.setMap b m).cnt = g.cnt := by
  cases b <;> rfl
@[simp] theorem Group.setMap_rels (g : Group) (b : Bool) (m : List MapEntry) : (g.setMap b m).rels = g.rels := by
  cases b <;> rfl
@[simp] theorem Group.setMap_replay (g : Group) (b : Bool) (m : List MapEntry) : (g.setMap b m).replay = g.replay := by
  cases b <;> rfl
@[simp] theorem Group.setMap_bars (g : Group) (b : Bool) (m : List MapEntry) : (g.setMap b m).bars = g.bars := by
  cases b <;> rfl
@[simp] theorem Group.setMap_batch (g : Group) (b : Bool) (m : List MapEntry) : (g.setMap b m).batch = g.batch := by
  cases b <;> rfl
@[simp] theorem Group.setMap_openOps (g : Group) (b : Bool) (m : List MapEntry) : (g.setMap b m).openOps = g.openOps := by
  cases b <;> rfl
@[simp] theorem Group.setMap_batches (g : Group) (b : Bool) (m : List MapEntry) : (g.setMap b m).batches = g.batches := by
  cases b <;> rfl
@[simp] theorem Group.setMap_copies (g : Group) (b : Bool) (m : List MapEntry) : (g.setMap b m).copies = g.copies := by
  cases b <;> rfl
@[simp] theorem Group.setMap_lastOp (g : Group) (b : Bool) (m : List MapEntry) : (g.setMap b m).lastOp = g.lastOp := by
  cases b <;> rfl
@[simp] theorem Group.setMap_done (g : Group) (b : Bool) (m : List MapEntry) : (g.setMap b m).done = g.done := by
  cases b <;> rfl
@[simp] theorem Group.setMap_mst (g : Group) (b : Bool) (m : List MapEntry) : (g.setMap b m).mst = g.mst := by
  cases b <;> rfl
@[simp] theorem Group.setMap_obs (g : Group) (b : Bool) (m : List MapEntry) : (g.setMap b m).obs = g.obs := by
  cases b <;> rfl
@[simp] theorem Group.setMap_spills (g : Group) (b : Bool) (m : List MapEntry) : (g.setMap b m).spills = g.spills := by
  cases b <;> rfl
@[simp] theorem Group.setMap_folds (g : Group) (b : Bool) (m : List MapEntry) : (g.setMap b m).folds = g.folds := by
  cases b <;> rfl
@[simp] theorem Group.setMap_merges (g : Group) (b : Bool) (m : List MapEntry) : (g.setMap b m).merges = g.merges := by
  cases b <;> rfl
@[simp] theorem Group.setMap_mq (g : Group) (b : Bool) (m : List MapEntry) : (g.setMap b m).mq = g.mq := by
  cases b <;> rfl
@[simp] theorem Group.setMap_halved (g : Group) (b : Bool) (m : List MapEntry) : (g.setMap b m).halved = g.halved := by
  cases b <;> rfl
@[simp] theorem Group.setMap_note (g : Group) (b : Bool) (m : List MapEntry) : (g.setMap b m).note = g.note := by
  cases b <;> rfl

@[simp] theorem Group.freePhys_id (g : Group)  : (g.freePhys).id = g.id := rfl
@[simp] theorem Group.freePhys_blk (g : Group)  : (g.freePhys).blk = g.blk := rfl
@[simp] theorem Group.freePhys_idx (g : Group)  : (g.freePhys).idx = g.idx := rfl
@[simp] theorem Group.freePhys_place (g : Group)  : (g.freePhys).place = g.place := rfl
@[simp] theorem Group.freePhys_phase (g : Group)  : (g.freePhys).phase = g.phase := rfl
@[simp] theorem Group.freePhys_regn (g : Group)  : (g.freePhys).regn = g.regn := rfl
@[simp] theorem Group.freePhys_sregs (g : Group)  : (g.freePhys).sregs = g.sregs := rfl
@[simp] theorem Group.freePhys_preds (g : Group)  : (g.freePhys).preds = g.preds := rfl
@[simp] theorem Group.freePhys_m0 (g : Group)  : (g.freePhys).m0 = g.m0 := rfl
@[simp] theorem Group.freePhys_m1 (g : Group)  : (g.freePhys).m1 = g.m1 := rfl
@[simp] theorem Group.freePhys_slot0 (g : Group)  : (g.freePhys).slot0 = g.slot0 := rfl
@[simp] theorem Group.freePhys_slot1 (g : Group)  : (g.freePhys).slot1 = g.slot1 := rfl
@[simp] theorem Group.freePhys_stack (g : Group)  : (g.freePhys).stack = g.stack := rfl
@[simp] theorem Group.freePhys_fstat (g : Group)  : (g.freePhys).fstat = g.fstat := rfl
@[simp] theorem Group.freePhys_stall (g : Group)  : (g.freePhys).stall = g.stall := rfl
@[simp] theorem Group.freePhys_trap (g : Group)  : (g.freePhys).trap = g.trap := rfl
@[simp] theorem Group.freePhys_sb (g : Group)  : (g.freePhys).sb = g.sb := rfl
@[simp] theorem Group.freePhys_sbRest (g : Group)  : (g.freePhys).sbRest = g.sbRest := rfl
@[simp] theorem Group.freePhys_cnt (g : Group)  : (g.freePhys).cnt = g.cnt := rfl
@[simp] theorem Group.freePhys_rels (g : Group)  : (g.freePhys).rels = g.rels := rfl
@[simp] theorem Group.freePhys_replay (g : Group)  : (g.freePhys).replay = g.replay := rfl
@[simp] theorem Group.freePhys_bars (g : Group)  : (g.freePhys).bars = g.bars := rfl
@[simp] theorem Group.freePhys_batch (g : Group)  : (g.freePhys).batch = g.batch := rfl
@[simp] theorem Group.freePhys_openOps (g : Group)  : (g.freePhys).openOps = g.openOps := rfl
@[simp] theorem Group.freePhys_batches (g : Group)  : (g.freePhys).batches = g.batches := rfl
@[simp] theorem Group.freePhys_copies (g : Group)  : (g.freePhys).copies = g.copies := rfl
@[simp] theorem Group.freePhys_lastOp (g : Group)  : (g.freePhys).lastOp = g.lastOp := rfl
@[simp] theorem Group.freePhys_done (g : Group)  : (g.freePhys).done = g.done := rfl
@[simp] theorem Group.freePhys_mst (g : Group)  : (g.freePhys).mst = g.mst := rfl
@[simp] theorem Group.freePhys_obs (g : Group)  : (g.freePhys).obs = g.obs := rfl
@[simp] theorem Group.freePhys_spills (g : Group)  : (g.freePhys).spills = g.spills := rfl
@[simp] theorem Group.freePhys_folds (g : Group)  : (g.freePhys).folds = g.folds := rfl
@[simp] theorem Group.freePhys_merges (g : Group)  : (g.freePhys).merges = g.merges := rfl
@[simp] theorem Group.freePhys_mq (g : Group)  : (g.freePhys).mq = g.mq := rfl
@[simp] theorem Group.freePhys_halved (g : Group)  : (g.freePhys).halved = g.halved := rfl
@[simp] theorem Group.freePhys_note (g : Group)  : (g.freePhys).note = g.note := rfl

@[simp] theorem Group.nameV_id (g : Group) (b : Bool) (r : Nat) (v : Lanes) : (g.nameV b r v).id = g.id := by
  cases b <;> rfl
@[simp] theorem Group.nameV_blk (g : Group) (b : Bool) (r : Nat) (v : Lanes) : (g.nameV b r v).blk = g.blk := by
  cases b <;> rfl
@[simp] theorem Group.nameV_idx (g : Group) (b : Bool) (r : Nat) (v : Lanes) : (g.nameV b r v).idx = g.idx := by
  cases b <;> rfl
@[simp] theorem Group.nameV_place (g : Group) (b : Bool) (r : Nat) (v : Lanes) : (g.nameV b r v).place = g.place := by
  cases b <;> rfl
@[simp] theorem Group.nameV_phase (g : Group) (b : Bool) (r : Nat) (v : Lanes) : (g.nameV b r v).phase = g.phase := by
  cases b <;> rfl
@[simp] theorem Group.nameV_regn (g : Group) (b : Bool) (r : Nat) (v : Lanes) : (g.nameV b r v).regn = g.regn := by
  cases b <;> rfl
@[simp] theorem Group.nameV_sregs (g : Group) (b : Bool) (r : Nat) (v : Lanes) : (g.nameV b r v).sregs = g.sregs := by
  cases b <;> rfl
@[simp] theorem Group.nameV_preds (g : Group) (b : Bool) (r : Nat) (v : Lanes) : (g.nameV b r v).preds = g.preds := by
  cases b <;> rfl
@[simp] theorem Group.nameV_slot0 (g : Group) (b : Bool) (r : Nat) (v : Lanes) : (g.nameV b r v).slot0 = g.slot0 := by
  cases b <;> rfl
@[simp] theorem Group.nameV_slot1 (g : Group) (b : Bool) (r : Nat) (v : Lanes) : (g.nameV b r v).slot1 = g.slot1 := by
  cases b <;> rfl
@[simp] theorem Group.nameV_stack (g : Group) (b : Bool) (r : Nat) (v : Lanes) : (g.nameV b r v).stack = g.stack := by
  cases b <;> rfl
@[simp] theorem Group.nameV_fstat (g : Group) (b : Bool) (r : Nat) (v : Lanes) : (g.nameV b r v).fstat = g.fstat := by
  cases b <;> rfl
@[simp] theorem Group.nameV_stall (g : Group) (b : Bool) (r : Nat) (v : Lanes) : (g.nameV b r v).stall = g.stall := by
  cases b <;> rfl
@[simp] theorem Group.nameV_trap (g : Group) (b : Bool) (r : Nat) (v : Lanes) : (g.nameV b r v).trap = g.trap := by
  cases b <;> rfl
@[simp] theorem Group.nameV_sb (g : Group) (b : Bool) (r : Nat) (v : Lanes) : (g.nameV b r v).sb = g.sb := by
  cases b <;> rfl
@[simp] theorem Group.nameV_sbRest (g : Group) (b : Bool) (r : Nat) (v : Lanes) : (g.nameV b r v).sbRest = g.sbRest := by
  cases b <;> rfl
@[simp] theorem Group.nameV_cnt (g : Group) (b : Bool) (r : Nat) (v : Lanes) : (g.nameV b r v).cnt = g.cnt := by
  cases b <;> rfl
@[simp] theorem Group.nameV_rels (g : Group) (b : Bool) (r : Nat) (v : Lanes) : (g.nameV b r v).rels = g.rels := by
  cases b <;> rfl
@[simp] theorem Group.nameV_replay (g : Group) (b : Bool) (r : Nat) (v : Lanes) : (g.nameV b r v).replay = g.replay := by
  cases b <;> rfl
@[simp] theorem Group.nameV_bars (g : Group) (b : Bool) (r : Nat) (v : Lanes) : (g.nameV b r v).bars = g.bars := by
  cases b <;> rfl
@[simp] theorem Group.nameV_batch (g : Group) (b : Bool) (r : Nat) (v : Lanes) : (g.nameV b r v).batch = g.batch := by
  cases b <;> rfl
@[simp] theorem Group.nameV_openOps (g : Group) (b : Bool) (r : Nat) (v : Lanes) : (g.nameV b r v).openOps = g.openOps := by
  cases b <;> rfl
@[simp] theorem Group.nameV_batches (g : Group) (b : Bool) (r : Nat) (v : Lanes) : (g.nameV b r v).batches = g.batches := by
  cases b <;> rfl
@[simp] theorem Group.nameV_copies (g : Group) (b : Bool) (r : Nat) (v : Lanes) : (g.nameV b r v).copies = g.copies := by
  cases b <;> rfl
@[simp] theorem Group.nameV_lastOp (g : Group) (b : Bool) (r : Nat) (v : Lanes) : (g.nameV b r v).lastOp = g.lastOp := by
  cases b <;> rfl
@[simp] theorem Group.nameV_done (g : Group) (b : Bool) (r : Nat) (v : Lanes) : (g.nameV b r v).done = g.done := by
  cases b <;> rfl
@[simp] theorem Group.nameV_mst (g : Group) (b : Bool) (r : Nat) (v : Lanes) : (g.nameV b r v).mst = g.mst := by
  cases b <;> rfl
@[simp] theorem Group.nameV_obs (g : Group) (b : Bool) (r : Nat) (v : Lanes) : (g.nameV b r v).obs = g.obs := by
  cases b <;> rfl
@[simp] theorem Group.nameV_spills (g : Group) (b : Bool) (r : Nat) (v : Lanes) : (g.nameV b r v).spills = g.spills := by
  cases b <;> rfl
@[simp] theorem Group.nameV_folds (g : Group) (b : Bool) (r : Nat) (v : Lanes) : (g.nameV b r v).folds = g.folds := by
  cases b <;> rfl
@[simp] theorem Group.nameV_merges (g : Group) (b : Bool) (r : Nat) (v : Lanes) : (g.nameV b r v).merges = g.merges := by
  cases b <;> rfl
@[simp] theorem Group.nameV_mq (g : Group) (b : Bool) (r : Nat) (v : Lanes) : (g.nameV b r v).mq = g.mq := by
  cases b <;> rfl
@[simp] theorem Group.nameV_halved (g : Group) (b : Bool) (r : Nat) (v : Lanes) : (g.nameV b r v).halved = g.halved := by
  cases b <;> rfl
@[simp] theorem Group.nameV_note (g : Group) (b : Bool) (r : Nat) (v : Lanes) : (g.nameV b r v).note = g.note := by
  cases b <;> rfl

@[simp] theorem Group.setV_id (g : Group) (b : Bool) (r : Nat) (e : Word) (v : Lanes) : (g.setV b r e v).id = g.id := by
  cases b <;> rfl
@[simp] theorem Group.setV_blk (g : Group) (b : Bool) (r : Nat) (e : Word) (v : Lanes) : (g.setV b r e v).blk = g.blk := by
  cases b <;> rfl
@[simp] theorem Group.setV_idx (g : Group) (b : Bool) (r : Nat) (e : Word) (v : Lanes) : (g.setV b r e v).idx = g.idx := by
  cases b <;> rfl
@[simp] theorem Group.setV_place (g : Group) (b : Bool) (r : Nat) (e : Word) (v : Lanes) : (g.setV b r e v).place = g.place := by
  cases b <;> rfl
@[simp] theorem Group.setV_phase (g : Group) (b : Bool) (r : Nat) (e : Word) (v : Lanes) : (g.setV b r e v).phase = g.phase := by
  cases b <;> rfl
@[simp] theorem Group.setV_regn (g : Group) (b : Bool) (r : Nat) (e : Word) (v : Lanes) : (g.setV b r e v).regn = g.regn := by
  cases b <;> rfl
@[simp] theorem Group.setV_sregs (g : Group) (b : Bool) (r : Nat) (e : Word) (v : Lanes) : (g.setV b r e v).sregs = g.sregs := by
  cases b <;> rfl
@[simp] theorem Group.setV_preds (g : Group) (b : Bool) (r : Nat) (e : Word) (v : Lanes) : (g.setV b r e v).preds = g.preds := by
  cases b <;> rfl
@[simp] theorem Group.setV_slot0 (g : Group) (b : Bool) (r : Nat) (e : Word) (v : Lanes) : (g.setV b r e v).slot0 = g.slot0 := by
  cases b <;> rfl
@[simp] theorem Group.setV_slot1 (g : Group) (b : Bool) (r : Nat) (e : Word) (v : Lanes) : (g.setV b r e v).slot1 = g.slot1 := by
  cases b <;> rfl
@[simp] theorem Group.setV_stack (g : Group) (b : Bool) (r : Nat) (e : Word) (v : Lanes) : (g.setV b r e v).stack = g.stack := by
  cases b <;> rfl
@[simp] theorem Group.setV_fstat (g : Group) (b : Bool) (r : Nat) (e : Word) (v : Lanes) : (g.setV b r e v).fstat = g.fstat := by
  cases b <;> rfl
@[simp] theorem Group.setV_stall (g : Group) (b : Bool) (r : Nat) (e : Word) (v : Lanes) : (g.setV b r e v).stall = g.stall := by
  cases b <;> rfl
@[simp] theorem Group.setV_trap (g : Group) (b : Bool) (r : Nat) (e : Word) (v : Lanes) : (g.setV b r e v).trap = g.trap := by
  cases b <;> rfl
@[simp] theorem Group.setV_sb (g : Group) (b : Bool) (r : Nat) (e : Word) (v : Lanes) : (g.setV b r e v).sb = g.sb := by
  cases b <;> rfl
@[simp] theorem Group.setV_sbRest (g : Group) (b : Bool) (r : Nat) (e : Word) (v : Lanes) : (g.setV b r e v).sbRest = g.sbRest := by
  cases b <;> rfl
@[simp] theorem Group.setV_cnt (g : Group) (b : Bool) (r : Nat) (e : Word) (v : Lanes) : (g.setV b r e v).cnt = g.cnt := by
  cases b <;> rfl
@[simp] theorem Group.setV_rels (g : Group) (b : Bool) (r : Nat) (e : Word) (v : Lanes) : (g.setV b r e v).rels = g.rels := by
  cases b <;> rfl
@[simp] theorem Group.setV_replay (g : Group) (b : Bool) (r : Nat) (e : Word) (v : Lanes) : (g.setV b r e v).replay = g.replay := by
  cases b <;> rfl
@[simp] theorem Group.setV_bars (g : Group) (b : Bool) (r : Nat) (e : Word) (v : Lanes) : (g.setV b r e v).bars = g.bars := by
  cases b <;> rfl
@[simp] theorem Group.setV_batch (g : Group) (b : Bool) (r : Nat) (e : Word) (v : Lanes) : (g.setV b r e v).batch = g.batch := by
  cases b <;> rfl
@[simp] theorem Group.setV_openOps (g : Group) (b : Bool) (r : Nat) (e : Word) (v : Lanes) : (g.setV b r e v).openOps = g.openOps := by
  cases b <;> rfl
@[simp] theorem Group.setV_batches (g : Group) (b : Bool) (r : Nat) (e : Word) (v : Lanes) : (g.setV b r e v).batches = g.batches := by
  cases b <;> rfl
@[simp] theorem Group.setV_copies (g : Group) (b : Bool) (r : Nat) (e : Word) (v : Lanes) : (g.setV b r e v).copies = g.copies := by
  cases b <;> rfl
@[simp] theorem Group.setV_lastOp (g : Group) (b : Bool) (r : Nat) (e : Word) (v : Lanes) : (g.setV b r e v).lastOp = g.lastOp := by
  cases b <;> rfl
@[simp] theorem Group.setV_done (g : Group) (b : Bool) (r : Nat) (e : Word) (v : Lanes) : (g.setV b r e v).done = g.done := by
  cases b <;> rfl
@[simp] theorem Group.setV_mst (g : Group) (b : Bool) (r : Nat) (e : Word) (v : Lanes) : (g.setV b r e v).mst = g.mst := by
  cases b <;> rfl
@[simp] theorem Group.setV_obs (g : Group) (b : Bool) (r : Nat) (e : Word) (v : Lanes) : (g.setV b r e v).obs = g.obs := by
  cases b <;> rfl
@[simp] theorem Group.setV_spills (g : Group) (b : Bool) (r : Nat) (e : Word) (v : Lanes) : (g.setV b r e v).spills = g.spills := by
  cases b <;> rfl
@[simp] theorem Group.setV_folds (g : Group) (b : Bool) (r : Nat) (e : Word) (v : Lanes) : (g.setV b r e v).folds = g.folds := by
  cases b <;> rfl
@[simp] theorem Group.setV_merges (g : Group) (b : Bool) (r : Nat) (e : Word) (v : Lanes) : (g.setV b r e v).merges = g.merges := by
  cases b <;> rfl
@[simp] theorem Group.setV_mq (g : Group) (b : Bool) (r : Nat) (e : Word) (v : Lanes) : (g.setV b r e v).mq = g.mq := by
  cases b <;> rfl
@[simp] theorem Group.setV_halved (g : Group) (b : Bool) (r : Nat) (e : Word) (v : Lanes) : (g.setV b r e v).halved = g.halved := by
  cases b <;> rfl
@[simp] theorem Group.setV_note (g : Group) (b : Bool) (r : Nat) (e : Word) (v : Lanes) : (g.setV b r e v).note = g.note := by
  cases b <;> rfl

@[simp] theorem Group.freeReplay_id (g : Group) (p : Path) : (g.freeReplay p).id = g.id := by
  unfold Group.freeReplay; split <;> rfl
@[simp] theorem Group.freeReplay_blk (g : Group) (p : Path) : (g.freeReplay p).blk = g.blk := by
  unfold Group.freeReplay; split <;> rfl
@[simp] theorem Group.freeReplay_idx (g : Group) (p : Path) : (g.freeReplay p).idx = g.idx := by
  unfold Group.freeReplay; split <;> rfl
@[simp] theorem Group.freeReplay_place (g : Group) (p : Path) : (g.freeReplay p).place = g.place := by
  unfold Group.freeReplay; split <;> rfl
@[simp] theorem Group.freeReplay_phase (g : Group) (p : Path) : (g.freeReplay p).phase = g.phase := by
  unfold Group.freeReplay; split <;> rfl
@[simp] theorem Group.freeReplay_regn (g : Group) (p : Path) : (g.freeReplay p).regn = g.regn := by
  unfold Group.freeReplay; split <;> rfl
@[simp] theorem Group.freeReplay_sregs (g : Group) (p : Path) : (g.freeReplay p).sregs = g.sregs := by
  unfold Group.freeReplay; split <;> rfl
@[simp] theorem Group.freeReplay_preds (g : Group) (p : Path) : (g.freeReplay p).preds = g.preds := by
  unfold Group.freeReplay; split <;> rfl
@[simp] theorem Group.freeReplay_m0 (g : Group) (p : Path) : (g.freeReplay p).m0 = g.m0 := by
  unfold Group.freeReplay; split <;> rfl
@[simp] theorem Group.freeReplay_m1 (g : Group) (p : Path) : (g.freeReplay p).m1 = g.m1 := by
  unfold Group.freeReplay; split <;> rfl
@[simp] theorem Group.freeReplay_phys (g : Group) (p : Path) : (g.freeReplay p).phys = g.phys := by
  unfold Group.freeReplay; split <;> rfl
@[simp] theorem Group.freeReplay_slot0 (g : Group) (p : Path) : (g.freeReplay p).slot0 = g.slot0 := by
  unfold Group.freeReplay; split <;> rfl
@[simp] theorem Group.freeReplay_slot1 (g : Group) (p : Path) : (g.freeReplay p).slot1 = g.slot1 := by
  unfold Group.freeReplay; split <;> rfl
@[simp] theorem Group.freeReplay_stack (g : Group) (p : Path) : (g.freeReplay p).stack = g.stack := by
  unfold Group.freeReplay; split <;> rfl
@[simp] theorem Group.freeReplay_fstat (g : Group) (p : Path) : (g.freeReplay p).fstat = g.fstat := by
  unfold Group.freeReplay; split <;> rfl
@[simp] theorem Group.freeReplay_stall (g : Group) (p : Path) : (g.freeReplay p).stall = g.stall := by
  unfold Group.freeReplay; split <;> rfl
@[simp] theorem Group.freeReplay_trap (g : Group) (p : Path) : (g.freeReplay p).trap = g.trap := by
  unfold Group.freeReplay; split <;> rfl
@[simp] theorem Group.freeReplay_sb (g : Group) (p : Path) : (g.freeReplay p).sb = g.sb := by
  unfold Group.freeReplay; split <;> rfl
@[simp] theorem Group.freeReplay_sbRest (g : Group) (p : Path) : (g.freeReplay p).sbRest = g.sbRest := by
  unfold Group.freeReplay; split <;> rfl
@[simp] theorem Group.freeReplay_cnt (g : Group) (p : Path) : (g.freeReplay p).cnt = g.cnt := by
  unfold Group.freeReplay; split <;> rfl
@[simp] theorem Group.freeReplay_rels (g : Group) (p : Path) : (g.freeReplay p).rels = g.rels := by
  unfold Group.freeReplay; split <;> rfl
@[simp] theorem Group.freeReplay_bars (g : Group) (p : Path) : (g.freeReplay p).bars = g.bars := by
  unfold Group.freeReplay; split <;> rfl
@[simp] theorem Group.freeReplay_batch (g : Group) (p : Path) : (g.freeReplay p).batch = g.batch := by
  unfold Group.freeReplay; split <;> rfl
@[simp] theorem Group.freeReplay_openOps (g : Group) (p : Path) : (g.freeReplay p).openOps = g.openOps := by
  unfold Group.freeReplay; split <;> rfl
@[simp] theorem Group.freeReplay_batches (g : Group) (p : Path) : (g.freeReplay p).batches = g.batches := by
  unfold Group.freeReplay; split <;> rfl
@[simp] theorem Group.freeReplay_copies (g : Group) (p : Path) : (g.freeReplay p).copies = g.copies := by
  unfold Group.freeReplay; split <;> rfl
@[simp] theorem Group.freeReplay_lastOp (g : Group) (p : Path) : (g.freeReplay p).lastOp = g.lastOp := by
  unfold Group.freeReplay; split <;> rfl
@[simp] theorem Group.freeReplay_done (g : Group) (p : Path) : (g.freeReplay p).done = g.done := by
  unfold Group.freeReplay; split <;> rfl
@[simp] theorem Group.freeReplay_mst (g : Group) (p : Path) : (g.freeReplay p).mst = g.mst := by
  unfold Group.freeReplay; split <;> rfl
@[simp] theorem Group.freeReplay_obs (g : Group) (p : Path) : (g.freeReplay p).obs = g.obs := by
  unfold Group.freeReplay; split <;> rfl
@[simp] theorem Group.freeReplay_spills (g : Group) (p : Path) : (g.freeReplay p).spills = g.spills := by
  unfold Group.freeReplay; split <;> rfl
@[simp] theorem Group.freeReplay_folds (g : Group) (p : Path) : (g.freeReplay p).folds = g.folds := by
  unfold Group.freeReplay; split <;> rfl
@[simp] theorem Group.freeReplay_merges (g : Group) (p : Path) : (g.freeReplay p).merges = g.merges := by
  unfold Group.freeReplay; split <;> rfl
@[simp] theorem Group.freeReplay_mq (g : Group) (p : Path) : (g.freeReplay p).mq = g.mq := by
  unfold Group.freeReplay; split <;> rfl
@[simp] theorem Group.freeReplay_halved (g : Group) (p : Path) : (g.freeReplay p).halved = g.halved := by
  unfold Group.freeReplay; split <;> rfl
@[simp] theorem Group.freeReplay_note (g : Group) (p : Path) : (g.freeReplay p).note = g.note := by
  unfold Group.freeReplay; split <;> rfl

@[simp] theorem Group.markV_id (g : Group) (b : Bool) (m : Word) (r : Nat) : (g.markV b m r).id = g.id := by
  unfold Group.markV; dsimp only; split
  · simp
  · split <;> simp
@[simp] theorem Group.markV_blk (g : Group) (b : Bool) (m : Word) (r : Nat) : (g.markV b m r).blk = g.blk := by
  unfold Group.markV; dsimp only; split
  · simp
  · split <;> simp
@[simp] theorem Group.markV_idx (g : Group) (b : Bool) (m : Word) (r : Nat) : (g.markV b m r).idx = g.idx := by
  unfold Group.markV; dsimp only; split
  · simp
  · split <;> simp
@[simp] theorem Group.markV_place (g : Group) (b : Bool) (m : Word) (r : Nat) : (g.markV b m r).place = g.place := by
  unfold Group.markV; dsimp only; split
  · simp
  · split <;> simp
@[simp] theorem Group.markV_phase (g : Group) (b : Bool) (m : Word) (r : Nat) : (g.markV b m r).phase = g.phase := by
  unfold Group.markV; dsimp only; split
  · simp
  · split <;> simp
@[simp] theorem Group.markV_regn (g : Group) (b : Bool) (m : Word) (r : Nat) : (g.markV b m r).regn = g.regn := by
  unfold Group.markV; dsimp only; split
  · simp
  · split <;> simp
@[simp] theorem Group.markV_sregs (g : Group) (b : Bool) (m : Word) (r : Nat) : (g.markV b m r).sregs = g.sregs := by
  unfold Group.markV; dsimp only; split
  · simp
  · split <;> simp
@[simp] theorem Group.markV_preds (g : Group) (b : Bool) (m : Word) (r : Nat) : (g.markV b m r).preds = g.preds := by
  unfold Group.markV; dsimp only; split
  · simp
  · split <;> simp
@[simp] theorem Group.markV_slot0 (g : Group) (b : Bool) (m : Word) (r : Nat) : (g.markV b m r).slot0 = g.slot0 := by
  unfold Group.markV; dsimp only; split
  · simp
  · split <;> simp
@[simp] theorem Group.markV_slot1 (g : Group) (b : Bool) (m : Word) (r : Nat) : (g.markV b m r).slot1 = g.slot1 := by
  unfold Group.markV; dsimp only; split
  · simp
  · split <;> simp
@[simp] theorem Group.markV_stack (g : Group) (b : Bool) (m : Word) (r : Nat) : (g.markV b m r).stack = g.stack := by
  unfold Group.markV; dsimp only; split
  · simp
  · split <;> simp
@[simp] theorem Group.markV_fstat (g : Group) (b : Bool) (m : Word) (r : Nat) : (g.markV b m r).fstat = g.fstat := by
  unfold Group.markV; dsimp only; split
  · simp
  · split <;> simp
@[simp] theorem Group.markV_stall (g : Group) (b : Bool) (m : Word) (r : Nat) : (g.markV b m r).stall = g.stall := by
  unfold Group.markV; dsimp only; split
  · simp
  · split <;> simp
@[simp] theorem Group.markV_trap (g : Group) (b : Bool) (m : Word) (r : Nat) : (g.markV b m r).trap = g.trap := by
  unfold Group.markV; dsimp only; split
  · simp
  · split <;> simp
@[simp] theorem Group.markV_sb (g : Group) (b : Bool) (m : Word) (r : Nat) : (g.markV b m r).sb = g.sb := by
  unfold Group.markV; dsimp only; split
  · simp
  · split <;> simp
@[simp] theorem Group.markV_sbRest (g : Group) (b : Bool) (m : Word) (r : Nat) : (g.markV b m r).sbRest = g.sbRest := by
  unfold Group.markV; dsimp only; split
  · simp
  · split <;> simp
@[simp] theorem Group.markV_cnt (g : Group) (b : Bool) (m : Word) (r : Nat) : (g.markV b m r).cnt = g.cnt := by
  unfold Group.markV; dsimp only; split
  · simp
  · split <;> simp
@[simp] theorem Group.markV_rels (g : Group) (b : Bool) (m : Word) (r : Nat) : (g.markV b m r).rels = g.rels := by
  unfold Group.markV; dsimp only; split
  · simp
  · split <;> simp
@[simp] theorem Group.markV_replay (g : Group) (b : Bool) (m : Word) (r : Nat) : (g.markV b m r).replay = g.replay := by
  unfold Group.markV; dsimp only; split
  · simp
  · split <;> simp
@[simp] theorem Group.markV_bars (g : Group) (b : Bool) (m : Word) (r : Nat) : (g.markV b m r).bars = g.bars := by
  unfold Group.markV; dsimp only; split
  · simp
  · split <;> simp
@[simp] theorem Group.markV_batch (g : Group) (b : Bool) (m : Word) (r : Nat) : (g.markV b m r).batch = g.batch := by
  unfold Group.markV; dsimp only; split
  · simp
  · split <;> simp
@[simp] theorem Group.markV_openOps (g : Group) (b : Bool) (m : Word) (r : Nat) : (g.markV b m r).openOps = g.openOps := by
  unfold Group.markV; dsimp only; split
  · simp
  · split <;> simp
@[simp] theorem Group.markV_batches (g : Group) (b : Bool) (m : Word) (r : Nat) : (g.markV b m r).batches = g.batches := by
  unfold Group.markV; dsimp only; split
  · simp
  · split <;> simp
@[simp] theorem Group.markV_copies (g : Group) (b : Bool) (m : Word) (r : Nat) : (g.markV b m r).copies = g.copies := by
  unfold Group.markV; dsimp only; split
  · simp
  · split <;> simp
@[simp] theorem Group.markV_lastOp (g : Group) (b : Bool) (m : Word) (r : Nat) : (g.markV b m r).lastOp = g.lastOp := by
  unfold Group.markV; dsimp only; split
  · simp
  · split <;> simp
@[simp] theorem Group.markV_done (g : Group) (b : Bool) (m : Word) (r : Nat) : (g.markV b m r).done = g.done := by
  unfold Group.markV; dsimp only; split
  · simp
  · split <;> simp
@[simp] theorem Group.markV_mst (g : Group) (b : Bool) (m : Word) (r : Nat) : (g.markV b m r).mst = g.mst := by
  unfold Group.markV; dsimp only; split
  · simp
  · split <;> simp
@[simp] theorem Group.markV_obs (g : Group) (b : Bool) (m : Word) (r : Nat) : (g.markV b m r).obs = g.obs := by
  unfold Group.markV; dsimp only; split
  · simp
  · split <;> simp
@[simp] theorem Group.markV_spills (g : Group) (b : Bool) (m : Word) (r : Nat) : (g.markV b m r).spills = g.spills := by
  unfold Group.markV; dsimp only; split
  · simp
  · split <;> simp
@[simp] theorem Group.markV_folds (g : Group) (b : Bool) (m : Word) (r : Nat) : (g.markV b m r).folds = g.folds := by
  unfold Group.markV; dsimp only; split
  · simp
  · split <;> simp
@[simp] theorem Group.markV_merges (g : Group) (b : Bool) (m : Word) (r : Nat) : (g.markV b m r).merges = g.merges := by
  unfold Group.markV; dsimp only; split
  · simp
  · split <;> simp
@[simp] theorem Group.markV_mq (g : Group) (b : Bool) (m : Word) (r : Nat) : (g.markV b m r).mq = g.mq := by
  unfold Group.markV; dsimp only; split
  · simp
  · split <;> simp
@[simp] theorem Group.markV_halved (g : Group) (b : Bool) (m : Word) (r : Nat) : (g.markV b m r).halved = g.halved := by
  unfold Group.markV; dsimp only; split
  · simp
  · split <;> simp
@[simp] theorem Group.markV_note (g : Group) (b : Bool) (m : Word) (r : Nat) : (g.markV b m r).note = g.note := by
  unfold Group.markV; dsimp only; split
  · simp
  · split <;> simp

/-! ### Paths -/

@[simp] theorem Path.advance_mask (p : Path) (c : Cur) : (p.advance c).mask = p.mask := rfl
@[simp] theorem Path.goto_mask (p : Path) (t : Va) : (p.goto t).mask = p.mask := rfl
@[simp] theorem Path.advance_handler (p : Path) (c : Cur) : (p.advance c).handler = p.handler := rfl
@[simp] theorem Path.goto_handler (p : Path) (t : Va) : (p.goto t).handler = p.handler := rfl
@[simp] theorem Path.advance_backoff (p : Path) (c : Cur) : (p.advance c).backoff = p.backoff := rfl
@[simp] theorem Path.goto_backoff (p : Path) (t : Va) : (p.goto t).backoff = p.backoff := rfl
@[simp] theorem Path.advance_starved (p : Path) (c : Cur) : (p.advance c).starved = p.starved := rfl
@[simp] theorem Path.goto_starved (p : Path) (t : Va) : (p.goto t).starved = p.starved := rfl
@[simp] theorem Path.advance_pc (p : Path) (c : Cur) : (p.advance c).pc = c.next := rfl
@[simp] theorem Path.goto_pc (p : Path) (t : Va) : (p.goto t).pc = t := rfl
@[simp] theorem Path.goto_hdr (p : Path) (t : Va) : (p.goto t).hdr = t := rfl

/-! ### Looking up what was put -/

theorem replaceFirst_find {α : Type} (p : α → Bool) (x y : α) (l : List α) (h : l.find? p = some y)
    (hx : p x = true) : (replaceFirst p (fun _ => x) l).find? p = some x := by
  induction l with
  | nil => simp at h
  | cons a t ih =>
    simp only [replaceFirst]
    by_cases ha : p a = true
    · simp [ha, hx]
    · simp only [ha, if_false, List.find?_cons, Bool.false_eq_true] at h ⊢
      exact ih h

theorem replaceFirst_find_other {α : Type} (p q : α → Bool) (x : α) (l : List α)
    (hq : ∀ a, p a = true → q a = false) (hx : q x = false) :
    (replaceFirst p (fun _ => x) l).find? q = l.find? q := by
  induction l with
  | nil => rfl
  | cons a t ih =>
    simp only [replaceFirst]
    by_cases ha : p a = true
    · simp [ha, hq a ha, hx]
    · simp only [ha, if_false, List.find?_cons, Bool.false_eq_true, ih]

theorem upsert_find {α : Type} (p : α → Bool) (x : α) (l : List α) (hx : p x = true) :
    (upsert p x l).find? p = some x := by
  induction l with
  | nil => simp [upsert, hx]
  | cons a t ih =>
    simp only [upsert]
    by_cases ha : p a = true
    · simp [ha, hx]
    · simp only [ha, if_false, List.find?_cons, Bool.false_eq_true, ih]

theorem upsert_find_other {α : Type} (p q : α → Bool) (x : α) (l : List α)
    (hq : ∀ a, p a = true → q a = false) (hx : q x = false) :
    (upsert p x l).find? q = l.find? q := by
  induction l with
  | nil => simp [upsert, hx]
  | cons a t ih =>
    simp only [upsert]
    by_cases ha : p a = true
    · simp [ha, hq a ha, hx]
    · simp only [ha, if_false, List.find?_cons, Bool.false_eq_true, ih]

/-- A group put back is found again. -/
theorem State.group?_setGroup {s : State} {g h : Group} (hg : s.group? g.id = some h) :
    (s.setGroup g).group? g.id = some g :=
  replaceFirst_find _ _ h _ hg (by simp)

/-- Every other group is as it was. -/
theorem State.group?_setGroup_other (s : State) (g : Group) {n : Nat} (hn : n ≠ g.id) :
    (s.setGroup g).group? n = s.group? n := by
  apply replaceFirst_find_other
  · intro a ha; simp only [beq_iff_eq] at ha; simp [ha, Ne.symm hn]
  · simp [Ne.symm hn]

/-- A block put back is found again. -/
theorem State.block?_setBlock {s : State} {b h : Block} (hb : s.block? b.id = some h) :
    (s.setBlock b).block? b.id = some b :=
  replaceFirst_find _ _ h _ hb (by simp)

/-- Every other block is as it was. -/
theorem State.block?_setBlock_other (s : State) (b : Block) {n : Nat} (hn : n ≠ b.id) :
    (s.setBlock b).block? n = s.block? n := by
  apply replaceFirst_find_other
  · intro a ha; simp only [beq_iff_eq] at ha; simp [ha, Ne.symm hn]
  · simp [Ne.symm hn]

/-- A grid put back is found again. -/
theorem State.grid?_setGrid {s : State} {g h : Grid} (hg : s.grid? g.id = some h) :
    (s.setGrid g).grid? g.id = some g :=
  replaceFirst_find _ _ h _ hg (by simp)

/-- A virtual device put back is found again. -/
@[simp] theorem State.vdev_setVdev (s : State) (d : VirtDev) : (s.setVdev d).vdev d.vd = d := by
  unfold State.vdev State.setVdev; dsimp only
  rw [upsert_find _ _ _ (by simp)]

/-- Every other virtual device is as it was. -/
theorem State.vdev_setVdev_other (s : State) (d : VirtDev) {v : BitVec 8} (hv : v ≠ d.vd) :
    (s.setVdev d).vdev v = s.vdev v := by
  unfold State.vdev State.setVdev; dsimp only
  rw [upsert_find_other]
  · intro a ha; simp only [beq_iff_eq] at ha; simp [ha, Ne.symm hv]
  · simp [Ne.symm hv]

/-- A core put back is found again. -/
@[simp] theorem State.core_setCore (s : State) (k : Core) : (s.setCore k).core k.id = k := by
  unfold State.core State.setCore; dsimp only
  rw [upsert_find _ _ _ (by simp)]

/-- A cluster put back is found again. -/
@[simp] theorem State.cluster_setCluster (s : State) (k : Cluster) : (s.setCluster k).cluster k.id = k := by
  unfold State.cluster State.setCluster; dsimp only
  rw [upsert_find _ _ _ (by simp)]

/-- A thread put back is found again. -/
@[simp] theorem State.thread_setThread (s : State) (t : Thread) : (s.setThread t).thread t.q = t := by
  unfold State.thread State.setThread; dsimp only
  rw [upsert_find _ _ _ (by simp)]

/-- A port put back is found again. -/
@[simp] theorem State.port_setPort (s : State) (p : Port) : (s.setPort p).port p.num = p := by
  unfold State.port State.setPort; dsimp only
  rw [upsert_find _ _ _ (by simp)]

@[simp] theorem State.freshVd_vd (v : BitVec 8) : (freshVd v).vd = v := rfl

/-- A virtual device is found under its own number. -/
@[simp] theorem State.vdev_vd (s : State) (v : BitVec 8) : (s.vdev v).vd = v := by
  unfold State.vdev
  split
  · rename_i h; simpa using List.find?_some h
  · rfl

/-- A core is found under its own number. -/
@[simp] theorem State.core_id (s : State) (c : BitVec 9) : (s.core c).id = c := by
  unfold State.core
  split
  · rename_i h; simpa using List.find?_some h
  · rfl

/-- A cluster is found under its own number. -/
@[simp] theorem State.cluster_id (s : State) (c : BitVec 6) : (s.cluster c).id = c := by
  unfold State.cluster
  split
  · rename_i h; simpa using List.find?_some h
  · rfl

/-- A thread is found under its own queue. -/
@[simp] theorem State.thread_q (s : State) (q : BitVec 10) : (s.thread q).q = q := by
  unfold State.thread
  split
  · rename_i h; simpa using List.find?_some h
  · rfl

/-- A port is found under its own number. -/
@[simp] theorem State.port_num (s : State) (n : BitVec 4) : (s.port n).num = n := by
  unfold State.port
  split
  · rename_i h; simpa using List.find?_some h
  · rfl

/-- A group is found under its own serial number. -/
theorem State.group?_id {s : State} {n : Nat} {g : Group} (h : s.group? n = some g) : g.id = n := by
  simpa using List.find?_some h

/-- A block is found under its own serial number. -/
theorem State.block?_id {s : State} {n : Nat} {b : Block} (h : s.block? n = some b) : b.id = n := by
  simpa using List.find?_some h

/-- A path put into a slot is there. -/
@[simp] theorem Group.path_setPath (g : Group) (slot : Bool) (p : Option Path) :
    (g.setPath slot p).path slot = p := by cases slot <;> rfl

/-- The other slot's path stays. -/
@[simp] theorem Group.path_setPath_not (g : Group) (slot : Bool) (p : Option Path) :
    (g.setPath slot p).path (!slot) = g.path (!slot) := by cases slot <;> rfl

end Sys2Proof.Machine
end

