-- ==== Sys2Proof/Laws/Rename.lean ====
section
/-!
SUPPORT. What a read of a group's registers answers after a write: scalar registers, predicates, and
v-registers through the rename maps.
-/
namespace Sys2Proof.Machine

/-! ### Lanes and masks -/

theorem laneAt_lanesOf (f : Nat → Word) (l : Nat) (h : l < 32) : laneAt (lanesOf f) l = f l := by
  simp [laneAt, lanesOf, h]

theorem laneAt_lanesOf_ge (f : Nat → Word) (l : Nat) (h : 32 ≤ l) : laneAt (lanesOf f) l = 0 := by
  simp [laneAt, lanesOf, Nat.not_lt.2 h]

theorem bitAt_ge (m : Word) (l : Nat) (h : 32 ≤ l) : bitAt m l = false :=
  BitVec.getLsbD_of_ge _ _ h

/-! ### Scalar registers and predicates -/

/-- s0 reads 0 whatever was written. -/
@[simp] theorem Group.sreg_zero (g : Group) : g.sreg 0 = 0 := if_pos rfl

/-- A write to s0 is discarded. -/
@[simp] theorem Group.setSreg_zero (g : Group) (v : DWord) : g.setSreg 0 v = g := if_pos rfl

theorem Group.setSreg_of_ne (g : Group) (r : BitVec 6) (v : DWord) (h : r ≠ 0) :
    g.setSreg r v = { g with sregs := g.sregs.set r.toNat v } := if_neg h

theorem Group.sreg_of_ne (g : Group) (r : BitVec 6) (h : r ≠ 0) : g.sreg r = g.sregs.getD r.toNat 0 :=
  if_neg h

/-- A scalar register that was not written is as it was. -/
theorem Group.sreg_setSreg_other (g : Group) (r q : BitVec 6) (v : DWord) (h : q ≠ r) :
    (g.setSreg r v).sreg q = g.sreg q := by
  by_cases h0 : r = 0
  · subst h0; rw [Group.setSreg_zero]
  · by_cases h1 : q = 0
    · subst h1; rw [Group.sreg_zero, Group.sreg_zero]
    · have hn : r.toNat ≠ q.toNat := fun e => h (BitVec.eq_of_toNat_eq e).symm
      rw [Group.setSreg_of_ne _ _ _ h0, Group.sreg_of_ne _ _ h1, Group.sreg_of_ne _ _ h1]
      simp [List.getD_eq_getElem?_getD, List.getElem?_set_ne hn]

/-- A scalar register after a write of a register the group has. -/
theorem Group.sreg_setSreg (g : Group) (r q : BitVec 6) (v : DWord) (h : r.toNat < g.sregs.length) :
    (g.setSreg r v).sreg q = if q = r ∧ r ≠ 0 then v else g.sreg q := by
  by_cases h0 : r = 0
  · subst h0; rw [Group.setSreg_zero, if_neg (fun e => e.2 rfl)]
  · by_cases hq : q = r
    · subst hq
      rw [Group.setSreg_of_ne _ _ _ h0, Group.sreg_of_ne _ _ h0, if_pos ⟨rfl, h0⟩]
      simp [h]
    · rw [Group.sreg_setSreg_other _ _ _ _ hq, if_neg (fun e => hq e.1)]

/-- p0 reads all ones. -/
@[simp] theorem Group.pred_zero (g : Group) : g.pred 0 = allLanes := if_pos rfl

/-- A predicate after a write: the lanes of `e` take the value. -/
theorem Group.pred_setPred (g : Group) (r q : BitVec 6) (e v : Word) (h : r.toNat < g.preds.length) :
    (g.setPred r e v).pred q =
      if q = r ∧ r ≠ 0 then (g.pred r &&& ~~~e) ||| (v &&& e) else g.pred q := by
  by_cases h0 : r = 0
  · subst h0; rw [if_neg (fun e => e.2 rfl)]; rfl
  · have hs : g.setPred r e v = { g with preds := g.preds.set r.toNat ((g.pred r &&& ~~~e) ||| (v &&& e)) } :=
      if_neg h0
    have hp : ∀ (g : Group) (q : BitVec 6), q ≠ 0 → g.pred q = g.preds.getD q.toNat 0 := fun _ _ h => if_neg h
    by_cases hq : q = r
    · subst hq
      rw [if_pos ⟨rfl, h0⟩, hs, hp _ _ h0]
      simp [h]
    · rw [if_neg (fun e => hq e.1), hs]
      by_cases h1 : q = 0
      · subst h1; rw [Group.pred_zero, Group.pred_zero]
      · have hn : r.toNat ≠ q.toNat := fun e => hq (BitVec.eq_of_toNat_eq e).symm
        rw [hp _ _ h1, hp _ _ h1]
        simp [List.getD_eq_getElem?_getD, List.getElem?_set_ne hn]

@[simp] theorem Group.setSreg_pred (g : Group) (r : BitVec 6) (v : DWord) (q : BitVec 6) :
    (g.setSreg r v).pred q = g.pred q := by simp [Group.pred]

@[simp] theorem Group.setPred_sreg (g : Group) (r : BitVec 6) (e v : Word) (q : BitVec 6) :
    (g.setPred r e v).sreg q = g.sreg q := by simp [Group.sreg]

@[simp] theorem Group.setFlags_sreg (g : Group) (f : Word) (q : BitVec 6) :
    (g.setFlags f).sreg q = g.sreg q := rfl

@[simp] theorem Group.setFlags_pred (g : Group) (f : Word) (q : BitVec 6) :
    (g.setFlags f).pred q = g.pred q := rfl

@[simp] theorem Group.setV_sreg (g : Group) (b : Bool) (r : Nat) (e : Word) (v : Lanes) (q : BitVec 6) :
    (g.setV b r e v).sreg q = g.sreg q := by simp [Group.sreg]

@[simp] theorem Group.setV_pred (g : Group) (b : Bool) (r : Nat) (e : Word) (v : Lanes) (q : BitVec 6) :
    (g.setV b r e v).pred q = g.pred q := by simp [Group.pred]

@[simp] theorem Group.markV_sreg (g : Group) (b : Bool) (m : Word) (r : Nat) (q : BitVec 6) :
    (g.markV b m r).sreg q = g.sreg q := by simp [Group.sreg]

@[simp] theorem Group.markV_pred (g : Group) (b : Bool) (m : Word) (r : Nat) (q : BitVec 6) :
    (g.markV b m r).pred q = g.pred q := by simp [Group.pred]

/-! ### The numbers of physical registers -/

theorem nodup_range_map (base n : Nat) : ((List.range n).map (base + ·)).Nodup := by
  rw [List.nodup_iff_pairwise_ne, List.pairwise_map]
  exact List.nodup_range.imp fun h e => h (Nat.add_left_cancel e)

/-- A list with more members than another, no two alike, has one the other lacks. -/
theorem exists_not_mem (xs ys : List Nat) (hn : xs.Nodup) (hl : ys.length < xs.length) :
    ∃ x ∈ xs, x ∉ ys := by
  induction xs generalizing ys with
  | nil => simp at hl
  | cons a t ih =>
    by_cases ha : a ∈ ys
    · have hlen : (ys.erase a).length < t.length := by
        rw [List.length_erase_of_mem ha]
        have : 0 < ys.length := List.length_pos_of_mem ha
        simp only [List.length_cons] at hl; omega
      obtain ⟨x, hx, hxy⟩ := ih (ys.erase a) (List.nodup_cons.1 hn).2 hlen
      refine ⟨x, List.mem_cons_of_mem _ hx, fun hc => hxy ?_⟩
      have hne : x ≠ a := fun e => (List.nodup_cons.1 hn).1 (e ▸ hx)
      exact (List.mem_erase_of_ne hne).2 hc
    · exact ⟨a, List.mem_cons_self, ha⟩

/-- The number a write takes is no physical register's. -/
theorem Group.newPhys_fresh (g : Group) (q : PhysReg) (hq : q ∈ g.phys) : q.num ≠ g.newPhys := by
  unfold Group.newPhys
  dsimp only
  split
  · rename_i k hk
    have := List.find?_some hk
    simp only [Bool.not_eq_true', List.any_eq_false, beq_iff_eq] at this
    exact this q hq
  · rename_i hnone
    exfalso
    obtain ⟨x, hx, hxn⟩ := exists_not_mem ((List.range (g.phys.length + 1)).map (96 * g.place.toNat + ·))
      (g.phys.map (·.num)) (nodup_range_map _ _) (by simp)
    obtain ⟨k, hk, rfl⟩ := List.mem_map.1 hx
    have := List.find?_eq_none.1 hnone k hk
    simp only [Bool.not_eq_true', Bool.not_eq_false, List.any_eq_true, beq_iff_eq] at this
    obtain ⟨p, hp, he⟩ := this
    exact hxn (List.mem_map.2 ⟨p, hp, he⟩)

/-! ### v-registers -/

theorem find?_filter_keep {α : Type} (p f : α → Bool) (l : List α) (h : ∀ x, p x = true → f x = true) :
    (l.filter f).find? p = l.find? p := by
  induction l with
  | nil => rfl
  | cons a t ih =>
    by_cases hp : p a = true
    · simp [h a hp, hp]
    · by_cases hf : f a = true
      · simp [hf, hp, ih]
      · simp [hf, hp, ih]

/-- Freeing what no map names changes no register a map names. -/
theorem Group.physLanes_freePhys (g : Group) (slot : Bool) (e : MapEntry) (n : Nat)
    (he : e ∈ g.map slot) (hn : e.name = some n) : g.freePhys.physLanes n = g.physLanes n := by
  unfold Group.physLanes Group.freePhys
  dsimp only
  rw [find?_filter_keep]
  intro q hq
  simp only [beq_iff_eq] at hq
  cases slot
  · simp only [Bool.or_eq_true]; left
    exact List.any_eq_true.2 ⟨e, he, by simp [hn, hq]⟩
  · simp only [Bool.or_eq_true]; right
    exact List.any_eq_true.2 ⟨e, he, by simp [hn, hq]⟩

theorem mapEntry_mem {m : List MapEntry} {r n : Nat} (h : (mapEntry m r).name = some n) :
    mapEntry m r ∈ m := by
  unfold mapEntry at *
  by_cases hr : r < m.length
  · simp [hr]
  · simp [List.getD_eq_getElem?_getD, List.getElem?_eq_none (Nat.le_of_not_lt hr)] at h

@[simp] theorem Group.freePhys_map (g : Group) (slot : Bool) : g.freePhys.map slot = g.map slot := rfl

@[simp] theorem Group.held_freePhys (g : Group) (slot : Bool) : g.freePhys.held slot = g.held slot := rfl

/-- Freeing what no map names changes no lane. -/
@[simp] theorem Group.vlane_freePhys (g : Group) (slot : Bool) (r l : Nat) :
    g.freePhys.vlane slot r l = g.vlane slot r l := by
  unfold Group.vlane
  simp only [Group.held_freePhys, Group.freePhys_map]
  congr 1
  unfold Group.entryLane
  split
  · rfl
  · rename_i n hn
    rw [g.physLanes_freePhys slot _ n (mapEntry_mem hn) hn]

theorem mapEntry_set (m : List MapEntry) (r q : Nat) (e : MapEntry) (h : r < m.length) :
    mapEntry (m.set r e) q = if q = r then e else mapEntry m q := by
  unfold mapEntry
  by_cases hq : q = r
  · subst hq; simp [h]
  · simp [hq, List.getD_eq_getElem?_getD, List.getElem?_set_ne (Ne.symm hq)]

theorem mapEntry_set_other (m : List MapEntry) (r q : Nat) (e : MapEntry) (h : q ≠ r) :
    mapEntry (m.set r e) q = mapEntry m q := by
  simp [mapEntry, List.getD_eq_getElem?_getD, List.getElem?_set_ne (Ne.symm h)]

/-- The group before the free of a `nameV`. -/
theorem Group.nameV_eq (g : Group) (slot : Bool) (r : Nat) (v : Lanes) :
    g.nameV slot r v =
      (({ g with phys := ⟨g.newPhys, v⟩ :: g.phys } : Group).setMap slot
        ((g.map slot).set r ⟨some g.newPhys, 0⟩)).freePhys := by
  cases slot <;> rfl

/-- The lanes of a v-register that was named again. -/
theorem Group.vlane_nameV (g : Group) (slot : Bool) (r l : Nat) (v : Lanes)
    (hr : r < (g.map slot).length) :
    (g.nameV slot r v).vlane slot r l = if bitAt (g.held slot) l then laneAt v l else 0 := by
  rw [Group.nameV_eq, Group.vlane_freePhys]
  cases slot <;>
    simp only [Group.vlane, Group.setMap, Group.map, Bool.false_eq_true, if_false, if_true] at * <;>
    rw [mapEntry_set _ _ _ _ hr] <;>
    simp [Group.held, Group.entryLane, Group.physLanes, bitAt]

/-- Every other lane of every v-register is as it was. -/
theorem Group.vlane_nameV_other (g : Group) (slot slot' : Bool) (r q l : Nat) (v : Lanes)
    (hg : g.Named) (h : q ≠ r ∨ slot' ≠ slot) :
    (g.nameV slot r v).vlane slot' q l = g.vlane slot' q l := by
  rw [Group.nameV_eq, Group.vlane_freePhys]
  have key : ∀ e ∈ g.map slot', (({ g with phys := ⟨g.newPhys, v⟩ :: g.phys } : Group).setMap slot
      ((g.map slot).set r ⟨some g.newPhys, 0⟩)).entryLane e l = g.entryLane e l := by
    intro e he
    unfold Group.entryLane
    cases hn : e.name with
    | none => rfl
    | some n =>
      obtain ⟨p, hp, hpn⟩ := hg slot' e he n hn
      have hne : g.newPhys ≠ n := fun e' => g.newPhys_fresh p hp (by omega)
      dsimp only
      congr 2
      cases slot <;> simp [Group.physLanes, Group.setMap, hne]
  have hm : mapEntry ((({ g with phys := ⟨g.newPhys, v⟩ :: g.phys } : Group).setMap slot
      ((g.map slot).set r ⟨some g.newPhys, 0⟩)).map slot') q = mapEntry (g.map slot') q := by
    cases slot <;> cases slot' <;>
      simp only [Group.setMap, Group.map, Bool.false_eq_true, if_false, if_true] <;>
      simp at h <;> first | rfl | exact mapEntry_set_other _ _ _ _ h
  have hh : (({ g with phys := ⟨g.newPhys, v⟩ :: g.phys } : Group).setMap slot
      ((g.map slot).set r ⟨some g.newPhys, 0⟩)).held slot' = g.held slot' := by
    cases slot <;> rfl
  unfold Group.vlane
  rw [hm, hh]
  split
  · cases hn : (mapEntry (g.map slot') q).name with
    | none => unfold Group.entryLane; simp [hn]
    | some n => exact key _ (mapEntry_mem hn)
  · rfl

/-- A v-register after a write: the lanes of `e` that the map holds take the value (R94). -/
theorem Group.vlane_setV (g : Group) (slot : Bool) (r l : Nat) (e : Word) (v : Lanes)
    (hr : r < (g.map slot).length) :
    (g.setV slot r e v).vlane slot r l =
      if bitAt (g.held slot) l && bitAt e l then laneAt v l else g.vlane slot r l := by
  unfold Group.setV
  rw [Group.vlane_nameV _ _ _ _ _ hr]
  by_cases hl : l < 32
  · rw [laneAt_lanesOf _ _ hl]
    by_cases hh : bitAt (g.held slot) l = true
    · simp [hh]
    · simp [hh, Group.vlane]
  · simp [bitAt_ge _ _ (Nat.le_of_not_lt hl), Group.vlane]

/-- A write of a v-register leaves every other register, and the other map's, as they were (R94). -/
theorem Group.vlane_setV_other (g : Group) (slot slot' : Bool) (r q l : Nat) (e : Word) (v : Lanes)
    (hg : g.Named) (h : q ≠ r ∨ slot' ≠ slot) :
    (g.setV slot r e v).vlane slot' q l = g.vlane slot' q l :=
  Group.vlane_nameV_other _ _ _ _ _ _ _ hg h

/-- A write keeps every name held. -/
theorem Group.named_nameV (g : Group) (slot : Bool) (r : Nat) (v : Lanes) (hg : g.Named) :
    (g.nameV slot r v).Named := by
  rw [Group.nameV_eq]
  intro slot' e he n hn
  have hin : ∃ q ∈ (⟨g.newPhys, v⟩ :: g.phys : List PhysReg), q.num = n := by
    by_cases hs : slot' = slot
    · subst hs
      have hmem : e ∈ (g.map slot').set r ⟨some g.newPhys, 0⟩ := by
        cases slot' <;> simpa [Group.setMap, Group.map] using he
      rcases List.mem_or_eq_of_mem_set hmem with h1 | h1
      · obtain ⟨q, hq, hqn⟩ := hg slot' e h1 n hn
        exact ⟨q, List.mem_cons_of_mem _ hq, hqn⟩
      · subst h1; simp at hn; exact ⟨_, List.mem_cons_self, hn⟩
    · have hmem : e ∈ g.map slot' := by
        cases slot <;> cases slot' <;> simp_all [Group.setMap, Group.map]
      obtain ⟨q, hq, hqn⟩ := hg slot' e hmem n hn
      exact ⟨q, List.mem_cons_of_mem _ hq, hqn⟩
  obtain ⟨q, hq, hqn⟩ := hin
  refine ⟨q, ?_, hqn⟩
  simp only [Group.freePhys, List.mem_filter]
  refine ⟨by cases slot <;> simpa [Group.setMap] using hq, ?_⟩
  cases slot'
  · simp only [Bool.or_eq_true]; left
    exact List.any_eq_true.2 ⟨e, he, by simp [hn, hqn]⟩
  · simp only [Bool.or_eq_true]; right
    exact List.any_eq_true.2 ⟨e, he, by simp [hn, hqn]⟩

/-- A write keeps every name held. -/
theorem Group.named_setV (g : Group) (slot : Bool) (r : Nat) (e : Word) (v : Lanes) (hg : g.Named) :
    (g.setV slot r e v).Named := Group.named_nameV _ _ _ _ hg

end Sys2Proof.Machine
end

