-- ==== Sys2Proof/Laws/Ops.lean ====
section
/-!
SUPPORT. What the shared operations answer: a meaning that runs under an acting path, its guard and its
allocation check, its writes, its retirement, its waits and its faults.
-/
namespace Sys2Proof.Machine

theorem withPath_of {s : State} {c : Cur} {g : Group} {p : Path} (h : s.Acts c g p)
    (k : Cur → Group → Path → Result) : withPath s k = k c g p := by
  obtain ⟨h1, h2, h3⟩ := h
  simp [withPath, h1, h2, h3]

theorem withBlock_of {s : State} {g : Group} {b : Block} {gr : Grid} (h1 : s.block? g.blk = some b)
    (h2 : s.grid? b.grid = some gr) (k : Block → Grid → Result) : withBlock s g k = k b gr := by
  simp [withBlock, h1, h2]

/-- An instruction whose v-registers are all allocated goes on with its effective set. -/
theorem guarded_of {s : State} {c : Cur} {g : Group} {p : Path} (h : s.Acts c g p) (n : BitVec 3)
    (vs : List Nat) (k : Cur → Group → Path → Word → Result) (hv : ∀ r ∈ vs, r < g.regn) :
    guarded s n vs k = k c g p (p.eff g n) := by
  unfold guarded
  rw [withPath_of h]
  have : (vs.any fun r => decide (g.regn ≤ r)) = false := by
    rw [List.any_eq_false]
    intro r hr; simpa using Nat.not_le.2 (hv r hr)
  simp [this, Path.eff]

/-- Cause 0x04 when a v-register the instruction names is not allocated. -/
theorem guarded_unallocated {s : State} {c : Cur} {g : Group} {p : Path} (h : s.Acts c g p) (n : BitVec 3)
    (vs : List Nat) (k : Cur → Group → Path → Word → Result) {r : Nat} (hr : r ∈ vs) (hv : g.regn ≤ r) :
    guarded s n vs k = fatal s c g p 0x04 p.mask 0 := by
  unfold guarded
  rw [withPath_of h]
  have : (vs.any fun r => decide (g.regn ≤ r)) = true := List.any_eq_true.2 ⟨r, hr, by simpa using hv⟩
  simp [this]

/-- A group-level instruction with a lane goes on. -/
theorem groupLevel_of {s : State} {c : Cur} {g : Group} {p : Path} (h : s.Acts c g p) (n : BitVec 3)
    (vs : List Nat) (k : Cur → Group → Path → Word → Result) (hv : ∀ r ∈ vs, r < g.regn)
    (he : p.eff g n ≠ 0) : groupLevel s n vs k = k c g p (p.eff g n) := by
  unfold groupLevel
  rw [guarded_of h n vs _ hv, if_neg he]

/-- A group-level instruction without a lane retires and changes nothing. -/
theorem groupLevel_empty {s : State} {c : Cur} {g : Group} {p : Path} (h : s.Acts c g p) (n : BitVec 3)
    (vs : List Nat) (k : Cur → Group → Path → Word → Result) (hv : ∀ r ∈ vs, r < g.regn)
    (he : p.eff g n = 0) : groupLevel s n vs k = .next (s.retired c g p) := by
  unfold groupLevel
  rw [guarded_of h n vs _ hv, if_pos he]; rfl

theorem retire_eq (s : State) (c : Cur) (g : Group) (p : Path) :
    retire s c g p = .next (s.retired c g p) := rfl

theorem stay_eq (s : State) (c : Cur) (g : Group) (p : Path) (k : WaitKind) (reason : Nat) :
    stay s c g p k reason = .next (s.waits c g p k reason) := rfl

/-- An instruction whose writes find rename registers retires with them. -/
theorem commit_of (s : State) (c : Cur) (g : Group) (p : Path) (e : Word) (w : Writes)
    (h : g.canWrite w.vs.length = true) :
    commit s c g p e w = .next (s.retired c (g.applyWrites c.p.slot p.mask e w) p) := by
  unfold commit; rw [if_pos h]; rfl

/-- An instruction whose writes find none waits under stall reason 2. -/
theorem commit_waits (s : State) (c : Cur) (g : Group) (p : Path) (e : Word) (w : Writes)
    (h : g.canWrite w.vs.length = false) :
    commit s c g p e w = .next (s.waits c g p .retry 2) := by
  unfold commit; simp only [h]; rfl

/-- An instruction that writes no v-register never waits for one. -/
@[simp] theorem Group.canWrite_zero (g : Group) : g.canWrite 0 = true := by simp [Group.canWrite]

/-- A transfer to a word address below 2^56. -/
theorem transfer_of (s : State) (c : Cur) (g gm : Group) (p : Path) (t : Int) (h : goodTarget t = true) :
    transfer s c g gm p t = .next (s.went c gm p (BitVec.ofInt 56 t)) := by
  unfold transfer; simp only [h]; rfl

/-- A transfer elsewhere takes cause 0x01 at the instruction. -/
theorem transfer_bad (s : State) (c : Cur) (g gm : Group) (p : Path) (t : Int) (h : goodTarget t = false) :
    transfer s c g gm p t = fatal s c g p 0x01 p.mask 0 := by
  unfold transfer; simp [h]

/-- A shared operation that wants a lane: the same rule for every instruction of its shape. -/
theorem follows_groupLevel {i : Instr} {n : BitVec 3} {w : Group → Bool → Word → Word → Writes}
    (h : ∀ s, exec i s = groupLevel s n [] fun c g p e => commit s c g p e (w g c.p.slot p.mask e)) :
    Follows i ⟨n, [], true, w⟩ := by
  intro s c g p ha ⟨hv, hw, he⟩
  rw [h, groupLevel_of ha n _ _ (by simp) (he rfl)]
  exact commit_of _ _ _ _ _ _ hw

/-- The same for one that does not. -/
theorem follows_guarded {i : Instr} {n : BitVec 3} {vs : List Nat}
    {w : Group → Bool → Word → Word → Writes}
    (h : ∀ s, exec i s = guarded s n vs fun c g p e => commit s c g p e (w g c.p.slot p.mask e)) :
    Follows i ⟨n, vs, false, w⟩ := by
  intro s c g p ha ⟨hv, hw, _⟩
  rw [h, guarded_of ha n _ _ hv]
  exact commit_of _ _ _ _ _ _ hw

end Sys2Proof.Machine
end

