-- ==== Sys2Proof/Laws/Access.lean ====
section
/-!
SUPPORT. What the operations behind accesses, transfers and exceptions answer, case by case: a memory
instruction, its stages 1 and 2, a branch, a fatal fault, a trap to a handler and the return from one.
-/
namespace Sys2Proof.Machine

/-! ### Memory instructions -/

/-- A memory instruction that is not parked goes on with the registers of its group. -/
theorem memOp_of {s : State} {c : Cur} {g : Group} {p : Path} (h : s.Acts c g p) (n : BitVec 3)
    (vs : List Nat) (k : Cur → Group → Group → Path → Word → Result) (hv : ∀ r ∈ vs, r < g.regn)
    (hp : p.replay = none) : memOp s n vs k = k c g g p (p.eff g n) := by
  unfold memOp
  rw [withPath_of h]
  simp only [hp, Option.bind_none]
  exact guarded_of h n vs _ hv

/-- A parked one whose pages have all come goes on with its logged sources and lanes, whatever the group's
allocation has become. -/
theorem memOp_replayed {s : State} {c : Cur} {g : Group} {p : Path} (h : s.Acts c g p) (n : BitVec 3)
    (vs : List Nat) (k : Cur → Group → Group → Path → Word → Result)
    {m : Nat} {r : ReplayEntry} (hp : p.replay = some m)
    (hr : (g.replay.find? fun r => r.idx == m) = some r)
    (ht : (r.tags.all fun t => t.answer == some true) = true) :
    memOp s n vs k = k c g (g.logged c.p.slot r) p r.lanes := by
  unfold memOp
  rw [withPath_of h]
  simp only [hp, hr, ht, Option.bind_some, if_true]

/-- A parked one that still waits for a page changes nothing. -/
theorem memOp_parked {s : State} {c : Cur} {g : Group} {p : Path} (h : s.Acts c g p) (n : BitVec 3)
    (vs : List Nat) (k : Cur → Group → Group → Path → Word → Result)
    {m : Nat} {r : ReplayEntry} (hp : p.replay = some m)
    (hr : (g.replay.find? fun r => r.idx == m) = some r)
    (ht : (r.tags.all fun t => t.answer == some true) = false) :
    memOp s n vs k = .next s := by
  unfold memOp
  rw [withPath_of h]
  simp only [hp, hr, ht, Option.bind_some, Bool.false_eq_true, if_false]

/-- A group-level memory instruction with a lane goes on. -/
theorem memGroup_of {s : State} {c : Cur} {g : Group} {p : Path} (h : s.Acts c g p) (n : BitVec 3)
    (vs : List Nat) (k : Cur → Group → Group → Path → Word → Result) (hv : ∀ r ∈ vs, r < g.regn)
    (hp : p.replay = none) (he : p.eff g n ≠ 0) :
    memGroup s n vs k = k c g g p (p.eff g n) := by
  unfold memGroup
  rw [memOp_of h n vs _ hv hp, if_neg he]

/-- A group-level memory instruction without a lane retires and changes nothing. -/
theorem memGroup_empty {s : State} {c : Cur} {g : Group} {p : Path} (h : s.Acts c g p) (n : BitVec 3)
    (vs : List Nat) (k : Cur → Group → Group → Path → Word → Result) (hv : ∀ r ∈ vs, r < g.regn)
    (hp : p.replay = none) (he : p.eff g n = 0) :
    memGroup s n vs k = .next (s.retired c g p) := by
  unfold memGroup
  rw [memOp_of h n vs _ hv hp, if_pos he]; rfl

/-- Stage 1 passes. -/
theorem withRegion_of {s : State} {b : Block} {gr : Grid} {slot : BitVec 8} {u : Use} {r : Region}
    (h : s.stage1 b gr slot u = some r) (c : Cur) (g : Group) (p : Path) (e : Word)
    (k : Region → Result) : withRegion s c g p b gr e slot u k = k r := by
  simp only [withRegion, h]

/-- Stage 1 fails: cause 0x11 for every lane of the effective set. -/
theorem withRegion_refused {s : State} {b : Block} {gr : Grid} {slot : BitVec 8} {u : Use}
    (h : s.stage1 b gr slot u = none) (c : Cur) (g : Group) (p : Path) (e : Word)
    (k : Region → Result) : withRegion s c g p b gr e slot u k = fatal s c g p 0x11 e 0 := by
  simp only [withRegion, h]

/-- Stage 2 of a per-lane access fails: cause 0x10 for the lanes outside the region. -/
theorem laneAccess_outside {s : State} {g : Group} {b : Block} {gr : Grid} {slot : BitVec 8} {u : Use}
    {r : Region} (h1 : s.block? g.blk = some b) (h2 : s.grid? b.grid = some gr)
    (h3 : s.stage1 b gr slot u = some r) (c : Cur) (gv : Group) (p : Path) (e : Word)
    (off : Nat → Int) (n reason : Nat)
    (k : State → Path → Block → Region → List LaneReq → List LineRes → Result)
    (hb : outside r e off n ≠ 0) :
    laneAccess s c g gv p e slot u off n reason k =
      fatal s c g p 0x10 (outside r e off n) (offAddr r (gridIndex b g) (outside r e off n) off) := by
  unfold laneAccess
  rw [withBlock_of h1 h2, withRegion_of h3]
  simp only [if_pos hb]

/-- Stages 1 and 2 of a per-lane access pass: its lines are confirmed. -/
theorem laneAccess_of {s : State} {g : Group} {b : Block} {gr : Grid} {slot : BitVec 8} {u : Use}
    {r : Region} (h1 : s.block? g.blk = some b) (h2 : s.grid? b.grid = some gr)
    (h3 : s.stage1 b gr slot u = some r) (c : Cur) (gv : Group) (p : Path) (e : Word)
    (off : Nat → Int) (n reason : Nat)
    (k : State → Path → Block → Region → List LaneReq → List LineRes → Result)
    (hb : outside r e off n = 0) :
    laneAccess s c g gv p e slot u off n reason k =
      withLines s c g gv p b e r (useAccess u) (laneReqs r (gridIndex b g) e off n) reason
        fun s p rs => k s p b r (laneReqs r (gridIndex b g) e off n) rs := by
  unfold laneAccess
  rw [withBlock_of h1 h2, withRegion_of h3]
  simp only [hb, ne_eq, not_true_eq_false, if_false]

/-- Stage 2 of a group's one access fails: cause 0x10 for every lane of the effective set. -/
theorem uniformAccess_outside {s : State} {g : Group} {b : Block} {gr : Grid} {slot : BitVec 8} {u : Use}
    {r : Region} (h1 : s.block? g.blk = some b) (h2 : s.grid? b.grid = some gr)
    (h3 : s.stage1 b gr slot u = some r) (c : Cur) (gv : Group) (p : Path) (e : Word)
    (off : Int) (n reason : Nat)
    (k : State → Path → Block → Region → LaneReq → List LineRes → Result)
    (hb : r.inside off n = false) :
    uniformAccess s c g gv p e slot u off n reason k =
      fatal s c g p 0x10 e (offAddr r 0 e fun _ => off) := by
  unfold uniformAccess
  rw [withBlock_of h1 h2, withRegion_of h3]
  simp only [hb, Bool.not_false, if_true]

/-- An atomic access whose lanes lie inside and aligned confirms its lines as an atomic's. -/
theorem atomAccess_of {s : State} {g : Group} {b : Block} {gr : Grid} {slot : BitVec 8} {u : Use}
    {r : Region} (h1 : s.block? g.blk = some b) (h2 : s.grid? b.grid = some gr)
    (h3 : s.stage1 b gr slot u = some r) (c : Cur) (gv : Group) (p : Path) (e : Word)
    (off : Nat → Int) (n : Nat)
    (k : State → Path → Block → List LaneReq → List LineRes → Result)
    (hb : outside r e off n = 0) (hm : misaligned r e off n = 0) :
    atomAccess s c g gv p e slot u off n k =
      withLines s c g gv p b e r .atomic (laneReqs r 0 e off n) 3
        fun s p rs => k s p b (laneReqs r 0 e off n) rs := by
  unfold atomAccess
  rw [withBlock_of h1 h2, withRegion_of h3]
  simp only [hb, hm, ne_eq, not_true_eq_false, if_false]

/-- Misaligned lanes inside the region: cause 0x12. -/
theorem atomAccess_misaligned {s : State} {g : Group} {b : Block} {gr : Grid} {slot : BitVec 8} {u : Use}
    {r : Region} (h1 : s.block? g.blk = some b) (h2 : s.grid? b.grid = some gr)
    (h3 : s.stage1 b gr slot u = some r) (c : Cur) (gv : Group) (p : Path) (e : Word)
    (off : Nat → Int) (n : Nat)
    (k : State → Path → Block → List LaneReq → List LineRes → Result)
    (hb : outside r e off n = 0) (hm : misaligned r e off n ≠ 0) :
    atomAccess s c g gv p e slot u off n k =
      fatal s c g p 0x12 (misaligned r e off n) (offAddr r 0 (misaligned r e off n) off) := by
  unfold atomAccess
  rw [withBlock_of h1 h2, withRegion_of h3]
  simp only [hb, ne_eq, not_true_eq_false, if_false, if_pos hm]

/-! ### Transfers -/

/-- A branch whose condition holds is a transfer to its target. -/
theorem uniformBranch_taken {s : State} {c : Cur} {g : Group} {p : Path} (h : s.Acts c g p) (o : BOps)
    (t : Group → Path → Bool) (ht : t g p = true) :
    uniformBranch o t s = transfer s c g g p (targetB p o) := by
  unfold uniformBranch
  rw [withPath_of h]; simp only [ht, if_true]

/-- One whose condition does not hold retires and changes nothing. -/
theorem uniformBranch_falls {s : State} {c : Cur} {g : Group} {p : Path} (h : s.Acts c g p) (o : BOps)
    (t : Group → Path → Bool) (ht : t g p = false) :
    uniformBranch o t s = .next (s.retired c g p) := by
  unfold uniformBranch
  rw [withPath_of h]; simp only [ht, Bool.false_eq_true, if_false]; rfl

/-- An indirect transfer goes to what its source held before its mark. -/
theorem indirect_of {s : State} {c : Cur} {g : Group} {p : Path} (h : s.Acts c g p) (o : ROps) :
    indirect o s = transfer s c g (g.applyMarks c.p.slot p.mask (markOf o.la .s o.a)) p
      ((g.sreg o.a).toNat : Int) := by
  unfold indirect
  rw [withPath_of h]

/-! ### Exceptions -/

/-- A fatal fault of a resident group goes on: the machine freezes the group and the rest runs. -/
theorem freeze_next {s : State} {g : Group} {b : Block} {gr : Grid} (h1 : s.block? g.blk = some b)
    (h2 : s.grid? b.grid = some gr) (slot : Bool) (pc hdr : Va) (cause : BitVec 8) (lanes code : Word)
    (addr : DWord) : ∃ t, s.freeze g slot pc hdr cause lanes code addr = .next t := by
  unfold State.freeze
  rw [withBlock_of h1 h2]
  exact ⟨_, rfl⟩

/-- A trap inside a handler is fatal. -/
theorem deliver_fatal {s : State} {g : Group} {b : Block} {gr : Grid} (h1 : s.block? g.blk = some b)
    (h2 : s.grid? b.grid = some gr) (c : Cur) (p : Path) (cause : BitVec 8)
    (lanes code : Word) (resPc resHdr : Va) (u : List Nat) (hh : p.handler.isSome = true) :
    deliver s c g p cause lanes code resPc resHdr u =
      s.freeze g c.p.slot p.pc p.hdr cause lanes code 0 := by
  unfold deliver
  rw [withBlock_of h1 h2]
  simp only [hh, if_true]

/-- A trap that finds no permit leaves its path waiting, with the next back-off. -/
theorem deliver_backsOff {s : State} {g : Group} {b : Block} {gr : Grid} (h1 : s.block? g.blk = some b)
    (h2 : s.grid? b.grid = some gr) (c : Cur) (p : Path) (cause : BitVec 8)
    (lanes code : Word) (resPc resHdr : Va) (u : List Nat) (hh : p.handler.isSome = false)
    (hk : (s.core b.core).permitFor c.p = false) :
    deliver s c g p cause lanes code resPc resHdr u =
      .next (s.waits c g { p with
        backoff := nextBackoff p.backoff,
        starved := if nextBackoff p.backoff == 8192 && p.starved.isNone then some (s.core b.core).cycle
          else p.starved, rob := [], due := [] } (.backoff (nextBackoff p.backoff)) 13) := by
  unfold deliver
  rw [withBlock_of h1 h2]
  simp only [hh, hk, Bool.false_eq_true, Bool.not_false, if_true, if_false]
  rfl

/-- A trap without a handler is fatal, but for the one the default handler of cause 0x40 takes. -/
theorem deliver_unhandled {s : State} {g : Group} {b : Block} {gr : Grid} (h1 : s.block? g.blk = some b)
    (h2 : s.grid? b.grid = some gr) (c : Cur) (p : Path) (cause : BitVec 8)
    (lanes code : Word) (resPc resHdr : Va) (u : List Nat) (hh : p.handler.isSome = false)
    (hk : (s.core b.core).permitFor c.p = true) (hd : gr.desc.handler = 0) (hc : cause ≠ 0x40) :
    deliver s c g p cause lanes code resPc resHdr u =
      s.freeze g c.p.slot p.pc p.hdr cause lanes code 0 := by
  unfold deliver
  rw [withBlock_of h1 h2]
  have hc' : (cause != 0x40) = true := by simpa using hc
  simp only [hh, hk, hd, hc', Bool.false_eq_true, Bool.not_true, if_false, if_true, beq_self_eq_true, Bool.and_self]

/-- A trap with a handler and a permit: the faulting lanes stand at the handler's entry, the others wait,
the trap state holds cause, lanes, code and resume point, and the core has a permit less. -/
theorem deliver_taken {s : State} {g : Group} {b : Block} {gr : Grid} (h1 : s.block? g.blk = some b)
    (h2 : s.grid? b.grid = some gr) (c : Cur) (p : Path) (cause : BitVec 8)
    (lanes code : Word) (resPc resHdr : Va) (u : List Nat)
    (hp : p.handler = none) (hd : gr.desc.handler ≠ 0)
    (hk : (s.core b.core).permitFor c.p = true) :
    deliver s c g p cause lanes code resPc resHdr u =
      .next ((s.setGroup (({ g with
          trap := ⟨cause, resPc.setWidth 64, resHdr.setWidth 64, lanes, code, 0, c.p.slot⟩ }.freeReplay p).setPath
            c.p.slot (some (({ p with
              mask := lanes, handler := some ⟨p.mask &&& ~~~lanes, true, none⟩,
              backoff := 0, starved := none } : Path).goto (gr.desc.handler.setWidth 56))))).setCore
        ((s.core b.core).takePermit c.p)) := by
  unfold deliver
  rw [withBlock_of h1 h2]
  have hd' : (gr.desc.handler == 0) = false := by simpa using hd
  simp only [hp, hd', hk, Option.isSome_none, Bool.false_and, Bool.not_true,
    Bool.false_eq_true, if_false]

/-- The return from a trap: the lanes rejoin the waiting ones at the resume point, and a permit the path
holds comes back to the core. -/
theorem trapReturn_of {s : State} {g : Group} {b : Block} {gr : Grid} (h1 : s.block? g.blk = some b)
    (h2 : s.grid? b.grid = some gr) (c : Cur) (p : Path) (rest lanes : Word) :
    trapReturn s c g p rest lanes =
      .next (if p.hasPermit then
          (s.setGroup (g.setPath c.p.slot (some { (p.goto (g.trap.pc.setWidth 56)) with
            hdr := g.trap.hdr.setWidth 56, mask := lanes ||| rest, handler := none }))).returnPermit b.core
        else s.setGroup (g.setPath c.p.slot (some { (p.goto (g.trap.pc.setWidth 56)) with
            hdr := g.trap.hdr.setWidth 56, mask := lanes ||| rest, handler := none }))) := by
  unfold trapReturn
  rw [withBlock_of h1 h2]

end Sys2Proof.Machine
end

