-- ==== Sys2Proof/Laws/Memory.lean ====
section
/-!
SUPPORT. Memory: its canonical form is kept by every operation, a read after a write, and what an
access of many bytes comes to.
-/
namespace Sys2Proof.Machine

/-- The canonical form with every address at or above a bound, as a recursion on the list. -/
def Memory.above : Nat → Memory → Prop
  | _, [] => True
  | lo, (k, v) :: t => lo ≤ k ∧ v ≠ Memory.dflt ∧ Memory.above (k + 1) t

theorem Memory.above_mono {m : Memory} {a b : Nat} (h : a ≤ b) (hm : Memory.above b m) :
    Memory.above a m := by
  cases m with
  | nil => trivial
  | cons x t => exact ⟨Nat.le_trans h hm.1, hm.2⟩

theorem Memory.wf_cons_iff (k : Nat) (v : Byte) (t : Memory) :
    Memory.wf ((k, v) :: t) = true ↔ v ≠ Memory.dflt ∧ Memory.above (k + 1) t := by
  induction t generalizing k v with
  | nil => simp [Memory.wf, Memory.above]
  | cons y t ih =>
    obtain ⟨k', v'⟩ := y
    simp only [Memory.wf, Bool.and_eq_true, bne_iff_ne, ne_eq, decide_eq_true_eq, Memory.above, ih]
    constructor
    · rintro ⟨⟨h1, h2⟩, h3⟩; exact ⟨h1, h2, h3⟩
    · rintro ⟨h1, h2, h3⟩; exact ⟨⟨h1, h2⟩, h3⟩

/-- The Bool of the definition and the recursion say the same. -/
theorem Memory.wf_iff (m : Memory) : Memory.wf m = true ↔ Memory.above 0 m := by
  cases m with
  | nil => simp [Memory.wf, Memory.above]
  | cons x t =>
    obtain ⟨k, v⟩ := x
    rw [Memory.wf_cons_iff]; simp [Memory.above]

theorem Memory.above_write {m : Memory} {lo a : Nat} (h : Memory.above lo m) (ha : lo ≤ a) (b : Byte) :
    Memory.above lo (Memory.write m a b) := by
  induction m generalizing lo with
  | nil =>
    simp only [Memory.write]; split
    · trivial
    · exact ⟨ha, ‹_›, trivial⟩
  | cons x t ih =>
    obtain ⟨k, v⟩ := x
    obtain ⟨h1, h2, h3⟩ := h
    simp only [Memory.write]
    split
    · split
      · exact ⟨h1, h2, h3⟩
      · exact ⟨ha, ‹_›, by omega, h2, h3⟩
    · split
      · split
        · exact Memory.above_mono (by omega) h3
        · exact ⟨by omega, ‹_›, h3⟩
      · exact ⟨h1, h2, ih h3 (by omega)⟩

/-- A write of one byte keeps the canonical form. -/
theorem Memory.wf_write {m : Memory} (h : Memory.wf m = true) (a : Nat) (b : Byte) :
    Memory.wf (Memory.write m a b) = true := by
  rw [Memory.wf_iff] at *; exact Memory.above_write h (Nat.zero_le _) b

theorem Memory.read_above {m : Memory} {lo a : Nat} (h : Memory.above lo m) (ha : a < lo) :
    Memory.read m a = Memory.dflt := by
  cases m with
  | nil => rfl
  | cons x t =>
    obtain ⟨k, v⟩ := x
    simp only [Memory.read, show a < k from Nat.lt_of_lt_of_le ha h.1, if_true]

theorem Memory.read_write_above {m : Memory} {lo : Nat} (h : Memory.above lo m) (a c : Nat) (b : Byte) :
    Memory.read (Memory.write m a b) c = if c = a then b else Memory.read m c := by
  induction m generalizing lo with
  | nil =>
    simp only [Memory.write]; split
    · split <;> simp_all [Memory.read]
    · simp only [Memory.read]; split
      · rw [if_neg (by omega)]
      · rfl
  | cons x t ih =>
    obtain ⟨k, v⟩ := x
    obtain ⟨h1, h2, h3⟩ := h
    simp only [Memory.write]
    split
    · rename_i hak
      split
      · rename_i hb
        by_cases hc : c = a
        · subst hc; simp [Memory.read, hak, hb]
        · simp [hc]
      · by_cases hc : c = a
        · subst hc; simp [Memory.read]
        · simp only [Memory.read, hc, if_false]
          split
          · simp only [show c < k by omega, if_true]
          · rfl
    · rename_i hak
      split
      · rename_i hk; subst hk
        split
        · rename_i hb
          by_cases hc : c = a
          · subst hc; simp only [if_true, hb]; exact Memory.read_above h3 (by omega)
          · simp only [hc, if_false, Memory.read]
            split
            · exact Memory.read_above h3 (by omega)
            · rfl
        · by_cases hc : c = a
          · subst hc; simp [Memory.read]
          · simp only [Memory.read, hc, if_false]
      · rename_i hne
        simp only [Memory.read]
        split
        · rw [if_neg (by omega)]
        · split
          · rw [if_neg (by omega)]
          · exact ih h3

/-- A read after a write of one byte. -/
theorem Memory.read_write {m : Memory} (h : Memory.wf m = true) (a c : Nat) (b : Byte) :
    Memory.read (Memory.write m a b) c = if c = a then b else Memory.read m c :=
  Memory.read_write_above ((Memory.wf_iff m).1 h) a c b

theorem Memory.wf_putN {m : Memory} (h : Memory.wf m = true) (a : Nat) (bs : List Byte) :
    Memory.wf (Memory.putN m a bs) = true := by
  induction bs generalizing m a with
  | nil => exact h
  | cons b t ih => exact ih (Memory.wf_write h a b) _

theorem Memory.wf_putMarked {m : Memory} (h : Memory.wf m = true) (a : Nat) (bs : List (Byte × Bool)) :
    Memory.wf (Memory.putMarked m a bs) = true := by
  induction bs generalizing m a with
  | nil => exact h
  | cons b t ih =>
    obtain ⟨b, k⟩ := b
    simp only [Memory.putMarked]
    cases k
    · exact ih h _
    · exact ih (Memory.wf_write h a b) _

theorem Memory.write_cons (k a : Nat) (v b : Byte) (t : Memory) (h : k < a) :
    Memory.write ((k, v) :: t) a b = (k, v) :: Memory.write t a b := by
  simp only [Memory.write, show ¬ a < k by omega, show ¬ a = k by omega, if_false]

theorem Memory.putN_cons (k : Nat) (v : Byte) (bs : List Byte) :
    ∀ (t : Memory) (a : Nat), k < a → Memory.putN ((k, v) :: t) a bs = (k, v) :: Memory.putN t a bs := by
  induction bs with
  | nil => intros; rfl
  | cons b bs ih =>
    intro t a h
    simp only [Memory.putN, Memory.write_cons _ _ _ _ _ h]
    exact ih _ _ (by omega)

theorem Memory.putMarked_cons (k : Nat) (v : Byte) (bs : List (Byte × Bool)) :
    ∀ (t : Memory) (a : Nat), k < a →
      Memory.putMarked ((k, v) :: t) a bs = (k, v) :: Memory.putMarked t a bs := by
  induction bs with
  | nil => intros; rfl
  | cons b bs ih =>
    intro t a h
    obtain ⟨b, m⟩ := b
    cases m
    · simp only [Memory.putMarked, Bool.false_eq_true, if_false]; exact ih _ _ (by omega)
    · simp only [Memory.putMarked, if_true, Memory.write_cons _ _ _ _ _ h]; exact ih _ _ (by omega)

/-- A store of many bytes is a store of one after another. -/
theorem Memory.writeN_eq (m : Memory) (a : Nat) (bs : List Byte) :
    Memory.writeN m a bs = Memory.putN m a bs := by
  unfold Memory.writeN
  induction m with
  | nil => rfl
  | cons x t ih =>
    obtain ⟨k, v⟩ := x
    simp only [Memory.splice]
    split
    · rename_i h; rw [ih, Memory.putN_cons _ _ _ _ _ h]
    · rfl

/-- The same for a store of marked bytes. -/
theorem Memory.writeMarked_eq (m : Memory) (a : Nat) (bs : List (Byte × Bool)) :
    Memory.writeMarked m a bs = Memory.putMarked m a bs := by
  unfold Memory.writeMarked
  induction m with
  | nil => rfl
  | cons x t ih =>
    obtain ⟨k, v⟩ := x
    simp only [Memory.splice]
    split
    · rename_i h; rw [ih, Memory.putMarked_cons _ _ _ _ _ h]
    · rfl

/-- A store of many bytes keeps the canonical form. -/
theorem Memory.wf_writeN {m : Memory} (h : Memory.wf m = true) (a : Nat) (bs : List Byte) :
    Memory.wf (Memory.writeN m a bs) = true := by
  rw [Memory.writeN_eq]; exact Memory.wf_putN h a bs

/-- A store of marked bytes keeps the canonical form. -/
theorem Memory.wf_writeMarked {m : Memory} (h : Memory.wf m = true) (a : Nat) (bs : List (Byte × Bool)) :
    Memory.wf (Memory.writeMarked m a bs) = true := by
  rw [Memory.writeMarked_eq]; exact Memory.wf_putMarked h a bs

theorem Memory.above_filter {m : Memory} {lo : Nat} (h : Memory.above lo m) (p : Host.Cell → Bool) :
    Memory.above lo (m.filter p) := by
  induction m generalizing lo with
  | nil => exact h
  | cons x t ih =>
    obtain ⟨k, v⟩ := x
    obtain ⟨h1, h2, h3⟩ := h
    simp only [List.filter]
    split
    · exact ⟨h1, h2, ih h3⟩
    · exact ih (Memory.above_mono (by omega) h3)

/-- Removing the bytes above an address keeps the canonical form. -/
theorem Memory.wf_below {m : Memory} (h : Memory.wf m = true) (a : Nat) :
    Memory.wf (Memory.below m a) = true := by
  rw [Memory.wf_iff] at *; exact Memory.above_filter h _

/-- A read of one byte after a store of many. -/
theorem Memory.read_writeN {m : Memory} (h : Memory.wf m = true) (a c : Nat) (bs : List Byte) :
    Memory.read (Memory.writeN m a bs) c =
      if a ≤ c ∧ c < a + bs.length then bs.getD (c - a) 0 else Memory.read m c := by
  rw [Memory.writeN_eq]
  induction bs generalizing m a with
  | nil => simp only [Memory.putN, List.length_nil]; rw [if_neg (by omega)]
  | cons b t ih =>
    simp only [Memory.putN, ih (Memory.wf_write h a b), Memory.read_write h, List.length_cons]
    by_cases h1 : c = a
    · subst h1
      rw [if_neg (by omega), if_pos rfl, if_pos (by omega)]
      simp
    · by_cases h2 : a + 1 ≤ c ∧ c < a + 1 + t.length
      · rw [if_pos h2, if_pos (by omega)]
        obtain ⟨j, hj⟩ : ∃ j, c - a = j + 1 := ⟨c - a - 1, by omega⟩
        rw [hj, show c - (a + 1) = j by omega]; simp
      · rw [if_neg h2, if_neg h1, if_neg (by omega)]

theorem Memory.read_seek (m : Memory) (a b : Nat) (h : a ≤ b) :
    Memory.read (Memory.seek m a) b = Memory.read m b := by
  induction m with
  | nil => rfl
  | cons x t ih =>
    obtain ⟨k, v⟩ := x
    simp only [Memory.seek]
    split
    · rw [ih, Memory.read]; simp only [show ¬ b < k by omega, show ¬ b = k by omega, if_false]
    · rfl

theorem Memory.seek_seek (m : Memory) (a b : Nat) (h : a ≤ b) :
    Memory.seek (Memory.seek m a) b = Memory.seek m b := by
  induction m with
  | nil => rfl
  | cons x t ih =>
    obtain ⟨k, v⟩ := x
    simp only [Memory.seek]
    split
    · rw [ih, if_pos (by omega)]
    · rfl

theorem Memory.readN_seek (m : Memory) (a b n : Nat) (h : a ≤ b) :
    Memory.readN (Memory.seek m a) b n = Memory.readN m b n := by
  cases n with
  | zero => rfl
  | succ n => simp only [Memory.readN, Memory.seek_seek m a b h]

/-- A read of many bytes is a read of each. -/
theorem Memory.readN_eq (m : Memory) (a n : Nat) :
    Memory.readN m a n = (List.range n).map fun i => Memory.read m (a + i) := by
  induction n generalizing a with
  | zero => rfl
  | succ n ih =>
    simp only [Memory.readN, Memory.read_seek m a a (Nat.le_refl _),
      Memory.readN_seek m a (a + 1) n (Nat.le_succ _), ih, List.range_succ_eq_map, List.map_cons, List.map_map]
    congr 1
    apply List.map_congr_left
    intro i _
    simp only [Function.comp]; congr 1; omega

/-- A read of many bytes has as many. -/
@[simp] theorem Memory.readN_length (m : Memory) (a n : Nat) : (Memory.readN m a n).length = n := by
  simp [Memory.readN_eq]

/-- A read of many bytes is a read of the first and a read of the others. -/
theorem Memory.readN_add (m : Memory) (a n k : Nat) :
    Memory.readN m a (n + k) = Memory.readN m a n ++ Memory.readN m (a + n) k := by
  simp only [Memory.readN_eq, List.range_add, List.map_append, List.map_map]
  congr 1
  apply List.map_congr_left
  intro i _
  simp [Nat.add_assoc]

end Sys2Proof.Machine
end

