-- ==== Sys2Proof/Laws/Regs.lean ====
section
/-!
SUPPORT. The register bank: its canonical form is kept by every write, a read after a write, and what
the access codes keep.
-/
namespace Sys2Proof.Machine

/-- The canonical form with every key at or above a bound, as a recursion on the list. -/
def RegBank.above : Nat → RegBank → Prop
  | _, [] => True
  | lo, (k, v) :: t => lo ≤ k ∧ v ≠ regReset k ∧ RegBank.above (k + 1) t

theorem RegBank.above_mono {m : RegBank} {a b : Nat} (h : a ≤ b) (hm : RegBank.above b m) :
    RegBank.above a m := by
  cases m with
  | nil => trivial
  | cons x t => exact ⟨Nat.le_trans h hm.1, hm.2⟩

theorem RegBank.wf_cons_iff (k : Nat) (v : DWord) (t : RegBank) :
    RegBank.wf ((k, v) :: t) = true ↔ v ≠ regReset k ∧ RegBank.above (k + 1) t := by
  induction t generalizing k v with
  | nil => simp [RegBank.wf, RegBank.above]
  | cons y t ih =>
    obtain ⟨k', v'⟩ := y
    simp only [RegBank.wf, Bool.and_eq_true, bne_iff_ne, ne_eq, decide_eq_true_eq, RegBank.above, ih]
    constructor
    · rintro ⟨⟨h1, h2⟩, h3⟩; exact ⟨h1, h2, h3⟩
    · rintro ⟨h1, h2, h3⟩; exact ⟨⟨h1, h2⟩, h3⟩

theorem RegBank.wf_iff (m : RegBank) : RegBank.wf m = true ↔ RegBank.above 0 m := by
  cases m with
  | nil => simp [RegBank.wf, RegBank.above]
  | cons x t =>
    obtain ⟨k, v⟩ := x
    rw [RegBank.wf_cons_iff]; simp [RegBank.above]

theorem RegBank.above_write {m : RegBank} {lo a : Nat} (h : RegBank.above lo m) (ha : lo ≤ a) (b : DWord) :
    RegBank.above lo (RegBank.write m a b) := by
  induction m generalizing lo with
  | nil =>
    simp only [RegBank.write]; split
    · trivial
    · exact ⟨ha, ‹_›, trivial⟩
  | cons x t ih =>
    obtain ⟨k, v⟩ := x
    obtain ⟨h1, h2, h3⟩ := h
    simp only [RegBank.write]
    split
    · split
      · exact ⟨h1, h2, h3⟩
      · exact ⟨ha, ‹_›, by omega, h2, h3⟩
    · split
      · split
        · exact RegBank.above_mono (by omega) h3
        · refine ⟨by omega, ?_, h3⟩
          subst_vars; assumption
      · exact ⟨h1, h2, ih h3 (by omega)⟩

/-- A write keeps the canonical form. -/
theorem RegBank.wf_write {m : RegBank} (h : RegBank.wf m = true) (a : Nat) (b : DWord) :
    RegBank.wf (RegBank.write m a b) = true := by
  rw [RegBank.wf_iff] at *; exact RegBank.above_write h (Nat.zero_le _) b

theorem RegBank.read_above {m : RegBank} {lo a : Nat} (h : RegBank.above lo m) (ha : a < lo) :
    RegBank.read m a = regReset a := by
  cases m with
  | nil => rfl
  | cons x t =>
    obtain ⟨k, v⟩ := x
    simp only [RegBank.read, show a < k from Nat.lt_of_lt_of_le ha h.1, if_true]

theorem RegBank.read_write_above {m : RegBank} {lo : Nat} (h : RegBank.above lo m) (a c : Nat) (b : DWord) :
    RegBank.read (RegBank.write m a b) c = if c = a then b else RegBank.read m c := by
  induction m generalizing lo with
  | nil =>
    simp only [RegBank.write]; split
    · split
      · subst_vars; rfl
      · rfl
    · simp only [RegBank.read]; split
      · rw [if_neg (by omega)]
      · rfl
  | cons x t ih =>
    obtain ⟨k, v⟩ := x
    obtain ⟨h1, h2, h3⟩ := h
    simp only [RegBank.write]
    split
    · rename_i hak
      split
      · rename_i hb
        by_cases hc : c = a
        · subst hc; simp [RegBank.read, hak, hb]
        · simp [hc]
      · by_cases hc : c = a
        · subst hc; simp [RegBank.read]
        · simp only [RegBank.read, hc, if_false]
          split
          · simp only [show c < k by omega, if_true]
          · rfl
    · rename_i hak
      split
      · rename_i hk; subst hk
        split
        · rename_i hb
          by_cases hc : c = a
          · subst hc; simp only [if_true, hb]; exact RegBank.read_above h3 (by omega)
          · simp only [hc, if_false, RegBank.read]
            split
            · exact RegBank.read_above h3 (by omega)
            · rfl
        · by_cases hc : c = a
          · subst hc; simp [RegBank.read]
          · simp only [RegBank.read, hc, if_false]
      · simp only [RegBank.read]
        split
        · rw [if_neg (by omega)]
        · split
          · rw [if_neg (by omega)]
          · exact ih h3

/-- A read after a write. -/
theorem RegBank.read_write {m : RegBank} (h : RegBank.wf m = true) (a c : Nat) (b : DWord) :
    RegBank.read (RegBank.write m a b) c = if c = a then b else RegBank.read m c :=
  RegBank.read_write_above ((RegBank.wf_iff m).1 h) a c b

/-- A register read after a register write. -/
theorem State.reg_setReg {s : State} (h : RegBank.wf s.regs = true) (k j : Nat) (v : DWord) :
    (s.setReg k v).reg j = if j = k then v else s.reg j :=
  RegBank.read_write h k j v

/-- Under the access codes an RW bit takes the value written; a W1C bit that is no RW bit clears where
the value has a 1; every other bit keeps (R7). -/
theorem RegInfo.merge_bit (r : RegInfo) (old v : DWord) (i : Nat) :
    (r.merge old v).getLsbD i =
      if r.rw.getLsbD i then v.getLsbD i
      else old.getLsbD i && !(v.getLsbD i && r.w1c.getLsbD i) := by
  by_cases hi : i < 64
  · simp only [RegInfo.merge, BitVec.getLsbD_or, BitVec.getLsbD_and, BitVec.getLsbD_not, hi, decide_true,
      Bool.true_and]
    cases v.getLsbD i <;> cases r.rw.getLsbD i <;> cases old.getLsbD i <;> cases r.w1c.getLsbD i <;> rfl
  · simp [RegInfo.merge, BitVec.getLsbD_of_ge _ _ (Nat.le_of_not_lt hi)]

end Sys2Proof.Machine
end

