-- ==== Sys2Proof/Tests/Slice0.lean ====
section
/-!
SUPPORT. Tests of the model, each on one step of a small state; and, for every statement with hypotheses, states and
operands that meet them.
-/
set_option Elab.async false
set_option maxRecDepth 20000
namespace Sys2Proof.Tests
open Sys2Proof.Machine

/-! ### A small machine -/

/-- One group of one block of one grid, whose path stands at the first instruction of a clause of one. -/
def base : State :=
  { State.reset.placeCode [] with cur := some ⟨⟨2, false⟩, placeVa + 8, true⟩, agenda := [] }

/-- The acting instruction, as `base` has it. -/
def cur0 : Cur := ⟨⟨2, false⟩, placeVa + 8, true⟩

/-- The acting path. -/
def path0 : Path := { freshPath placeVa with pc := placeVa + 4 }

/-- The group, with its path. -/
def grp0 : Group := { freshGroup 2 1 0 64 0 placeVa zeroSregs with slot0 := some path0 }

/-- The block. -/
def blk0 : Block := base.blocks.head (by decide)

/-- The grid. -/
def grd0 : Grid := base.grids.head (by decide)

/-- The machine with another group, block and grid in their places. -/
def mach (g : Group) (b : Block := blk0) (gr : Grid := grd0) : State :=
  { base with groups := [g], blocks := [b], grids := [gr] }

/-- Operands of a format R instruction. -/
def r0 : ROps := ⟨1, 2, .reg 3, 4, false, false, false, 0, none⟩

/-- The next state, if there is one. -/
def after (o : Host.Outcome State Fault Refusal) : Option State :=
  match o with
  | .next s => some s
  | .fault _ | .refused _ => none

/-- The group after an instruction. -/
def grp (o : Host.Outcome State Fault Refusal) : Option Group := (after o).bind fun s => s.group? 2

/-- Operands of an instruction on s1 or v1, s2 or v2, s3 or v3. -/
def o3 : ROps := ⟨1, 2, .reg 3, 0, false, false, false, 0, none⟩

/-- Two paths: slot 0 has the low lanes, slot 1 the high ones, and v1 differs between them. -/
def grp2 : Group :=
  { grp0 with slot0 := some { path0 with mask := 0xFFFF }, slot1 := some { path0 with mask := 0xFFFF0000 },
              m0 := (grp0.m0.set 1 ⟨some 1, 0⟩), m1 := (grp0.m0.set 1 ⟨some 2, 0⟩),
              phys := [⟨1, lanesOf fun _ => 5⟩, ⟨2, lanesOf fun _ => 6⟩] }

/-- Slot 0's path of `grp2`. -/
def pj : Path := { path0 with mask := 0xFFFF }

/-- The group's path waits for something. -/
def gW (k : WaitKind) : Group := { grp0 with slot0 := some { path0 with wait := some ⟨k, 1, 0, placeVa + 8, true⟩ } }

/-! ### Decoding -/

/-- The spec's own words (R338 to R340, R364, and the tables of worked encodings in its files on core memory, the
cluster, the memory side and device-side work). -/
theorem test_decode_memory :
    decodeWords [0xA2102050, 0x00087100] = .ok (.lds ⟨4, 2, 5, 0, 8, .b64, .dev, .acq, .policy, false, false, 0⟩, []) ∧
    decodeWords [0xA1286020, 0xFFFC6A30] =
      .ok (.st ⟨10, 6, 2, 0, 0xFFFC, .b64, .clu, .rel, .policy, true, true, 0⟩, []) ∧
    decodeWords [0xA5405090, 0x00004007] =
      .ok (.ldm ⟨16, 5, 9, 0, 0, .b32, .grp, .rlx, .policy, false, false, 7⟩, []) := ⟨rfl, rfl, rfl⟩

theorem test_decode_atomics :
    decodeWords [0xA90C1040, 0x00004009] =
      .ok (.aop ⟨3, 1, 4, 0, 0, .b32, .grp, .rlx, .policy, false, false, 9⟩, []) ∧
    decodeWords [0xAC100030, 0x00005100] =
      .ok (.sacas ⟨4, 0, 3, 0, 0, .b32, .dev, .acq, .policy, false, false, 0⟩, []) := ⟨rfl, rfl⟩

theorem test_decode_order :
    decodeWords [0xB0000000, 0x00001200] =
      .ok (.fence ⟨0, 0, 0, 0, 0, .b8, .dev, .rel, .policy, false, false, 0⟩, []) ∧
    decodeWords [0xB5000000, 0x00051000] =
      .ok (.barw ⟨0, 0, 0, 0, 5, .b8, .dev, .rlx, .policy, false, false, 0⟩, []) ∧
    decodeWords [0xB6185040, 0x00040012] =
      .ok (.dcf ⟨6, 5, 4, 0, 4, .b8, .grp, .rlx, .policy, false, true, 2⟩, []) := ⟨rfl, rfl, rfl⟩

theorem test_decode_resources :
    decodeWords [0xC0000FC0, 0x00000000, 0x00000010] =
      .ok (.claim .reg ⟨0, 0, .lit 16, 0, false, false, false, 0, none⟩, []) ∧
    decodeWords [0xC21401C0, 0x00000002] =
      .ok (.acqTry .scr ⟨5, 0, .reg 7, 0, false, false, false, 0, none⟩, []) ∧
    decodeWords [0xC3000090, 0x00000003] =
      .ok (.rel .eng ⟨0, 0, .reg 2, 0, false, true, false, 0, none⟩, []) ∧
    decodeWords [0xC40C0000, 0x00000009] =
      .ok (.rstat .tile .avail ⟨3, 0, .reg 0, 0, false, false, false, 0, none⟩, []) := ⟨rfl, rfl, rfl, rfl⟩

theorem test_decode_work :
    decodeWords [0xE20C4FC0, 0x00000010, 0xFFFFFFFF] =
      .ok (.sigop .add .dev false ⟨3, 4, .lit 0xFFFFFFFF, 0, false, false, false, 0, none⟩, []) ∧
    decodeWords [0xE3004FC0, 0x00000010, 0x00000000] =
      .ok (.sigwait .le .dev ⟨0, 4, .lit 0, 0, false, false, false, 0, none⟩, []) := ⟨rfl, rfl⟩

theorem test_decode_scalar :
    decodeWords [0x24105FE0, 0x0C000004, 0x00000005] =
      .ok (.ssel .gt ⟨4, 5, .lit 5, 3, true, false, false, 0, none⟩, []) ∧
    decodeWords [0x0B000FC0, 0x000186A0] =
      .ok (.sleep ⟨0, 0, .lit 100000, 0, false, false, false, 0, none⟩, []) := ⟨rfl, rfl⟩

theorem test_decode_float :
    decodeWords [0x660248C1, 0x04000000, 0x20000000] =
      .ok (.ffmaVv ⟨0, 36, .reg 35, 1, false, false, false, 0,
        some ⟨.none, true, false, false, false, false, false, 0, .rne⟩⟩, []) := rfl

/-- Words by the bits of R41, R45, R51, R53, R55, R56 and of R144, R220, R249. -/
theorem test_decode_vector :
    decodeWords [0x31#8 ++ 9#6 ++ 8#6 ++ 63#6 ++ 1#1 ++ 0#1 ++ 5#3 ++ 0#1, 7] =
      .ok (.vaddVs ⟨9, 8, .lit 7, 0, true, false, false, 5, none⟩, []) ∧
    decodeWords [0x97#8 ++ 3#6 ++ 6#6 ++ 0#6 ++ 0#1 ++ 0#1 ++ 0#3 ++ 0#1, 0#6 ++ 0#1 ++ 3#25] =
      .ok (.xvote .uni ⟨3, 6, .reg 0, 0, false, false, false, 0, none⟩, []) ∧
    decodeWords [0xD9#8 ++ 3#6 ++ 6#6 ++ 0#6 ++ 1#1 ++ 0#1 ++ 0#3 ++ 0#1, 0#6 ++ 0#1 ++ 0#20 ++ 1#1 ++ 0#1 ++ 7#3] =
      .ok (.vdeq 7 false true ⟨3, 6, .reg 0, 0, true, false, false, 0, none⟩, []) := ⟨rfl, rfl, rfl⟩

theorem test_decode_copy :
    decodeWords [0xC8#8 ++ 1#6 ++ 2#6 ++ 3#6 ++ 0#1 ++ 1#1 ++ 2#3 ++ 0#1, 4#6 ++ 1#1 ++ 0#19 ++ 1#2 ++ 15#4] =
      .ok (.copy .fadd 15 ⟨1, 2, .reg 3, 4, false, true, true, 2, none⟩, []) ∧
    decodeWords [0xD4#8 ++ 0#6 ++ 8#6 ++ 9#8 ++ 1#3 ++ 0#1, 63#6 ++ 0#7 ++ 0#3 ++ 0#1 ++ 0#1 ++ 0#1 ++ 1#1 ++ 0#12] =
      .ok (.mst ⟨0, 8, 9, 1, 63, 0, 0, false, false, false, true⟩, []) := ⟨rfl, rfl⟩

theorem test_decode_system :
    decodeWords [0xEC040FC0, 0x31] = .ok (.rdsr ⟨1, 0, .lit 0x31, 0, false, false, false, 0, none⟩, []) ∧
    decodeWords [0xE9000000] = .ok (.tret ⟨0, 0, .reg 0, 0, false, false, false, 0, none⟩, []) ∧
    decodeWords [0xEB000FC0, 2] = .ok (.ppt ⟨0, 0, .lit 2, 0, false, false, false, 0, none⟩, []) := ⟨rfl, rfl, rfl⟩

/-! ### Well-formedness: for each check, a term it refuses -/

/-- Format M operands. -/
def m0 : MOps := ⟨8, 10, 9, 0, 0, .b64, .grp, .rlx, .policy, false, false, 0⟩

/-- Format A operands. -/
def a0 : AOps := ⟨7, 8, 9, 0, 2, 3, 4, false, true, false, false⟩

theorem test_wf_accepts : (Instr.sadd r0).wf = false ∧ (Instr.sadd { r0 with c := 0 }).wf = true ∧
    (Instr.ld m0).wf = true ∧ (Instr.mma a0).wf = true ∧ (Instr.bra ⟨0, false, 0xFFFFF⟩).wf = true := by decide

theorem test_wf_registers :
    illegal (.sadd { r0 with c := 0, d := 63 }) = some .sReg63 ∧
    illegal (.pand { r0 with c := 0, d := 8 }) = some .predRange ∧
    illegal (.slit { r0 with c := 0, a := 0 }) = some .literalDue ∧
    illegal (.ld { m0 with d := 9 }) = some .misalignedReg ∧
    illegal (.ldm { m0 with size := .b32, a := 1, d := 60, x := 4 }) = some .rangeEnd ∧
    illegal (.vcvti .i64i32 { r0 with c := 0, b := .reg 0 }) = some .misalignedReg := by decide

theorem test_wf_unused :
    illegal (.sadd r0) = some .unusedField ∧
    illegal (.nop { r0 with d := 0, a := 0, b := .reg 0, c := 0, g := 1 }) = some .guarded ∧
    illegal (.bra ⟨1, false, 0⟩) = some .unusedField ∧
    illegal (.smov { r0 with c := 0, b := .reg 0, lb := true }) = some .lastUse := by decide

theorem test_wf_modifiers :
    illegal (.sand { r0 with c := 0, md := some ⟨.none, false, false, false, false, false, false, 0, .rne⟩ }) =
      some .modForbidden ∧
    illegal (.sadd { r0 with c := 0, md := some ⟨.c01, false, false, false, false, false, false, 0, .rne⟩ }) =
      some .modField := by decide

theorem test_wf_memory :
    illegal (.ldm m0) = some .badSize ∧ illegal (.ld { m0 with scope := .dev }) = some .badScope ∧
    illegal (.ld { m0 with ord := .rel }) = some .badOrder ∧ illegal (.aop { m0 with hint := .stream }) = some .badHint ∧
    illegal (.bara ⟨0, 0, 0, 0, 16, .b8, .blk, .rlx, .policy, false, false, 0⟩) = some .badDisp ∧
    illegal (.aop { m0 with x := 9 }) = some .badX ∧ illegal (.mma { a0 with km1 := 0 }) = some .badK ∧
    illegal (.qfence 0 { r0 with d := 0, a := 0, b := .reg 0, c := 0 }) = some .selUndefined := by decide

theorem test_wf_headers :
    decodeHeader 0x71000000 = .error .notHeader ∧ decodeHeader 0xF0000000 = .error .headerCount ∧
    decodeHeader 0xF1200000 = .error .headerWait ∧ decodeHeader 0xF1008000 = .error .headerThr ∧
    decodeHeader 0xF1000001 = .error .headerReserved ∧ decodeHeader 0xF1188000 = .ok ⟨1, 0, 3, 1⟩ :=
  ⟨rfl, rfl, rfl, rfl, rfl, rfl⟩

/-! ### Witnesses: encoding and the step -/

theorem wit_DecodeEncode : (Instr.mma a0).wf = true ∧ encode (.mma a0) ≠ [] ∧
    decodeWords (encode (.mma a0) ++ [5]) = .ok (.mma a0, [5]) := ⟨by decide, by decide, rfl⟩

theorem wit_UnassignedOpcodes : ∃ e, decodeWords [0x0F000001] = .error e ∧ e.cause = 0x02 := ⟨.unassigned, rfl, rfl⟩

/-- A line of code at `placeVa`: a header of one instruction and SADD s1, s2, s3. -/
def code0 : State := { State.reset.placeCode (bytesOfWord 0x100420C0) with agenda := [] }

/-- The path that stands at its header. -/
def pathH : Path := freshPath placeVa

/-- A path at the second instruction of a clause of two, whose header stands at `placeVa + 4`. -/
def path2 : Path := { freshPath (placeVa + 4) with pc := placeVa + 12 }

/-- Its machine. -/
def code1 : State :=
  { State.reset.placeCode (bytesOfWord 0xF2000000 ++ bytesOfWord 0x100420C0 ++ bytesOfWord 0x100420C0) with
    agenda := [], groups := [{ grp0 with slot0 := some path2 }] }

theorem wit_StepRunsDecoded :
    code1.MayRun ⟨2, false⟩ { grp0 with slot0 := some path2 } path2 blk0 ∧
    path2.pc ≠ path2.hdr ∧ path2.pc ≠ path2.hdr + 4 ∧
    code1.codeWord ⟨0, 0, ⟨2, false⟩⟩ path2 path2.hdr = (.ok [0xF2000000], path2, code1) ∧
    decodeHeader 0xF2000000 = .ok ⟨2, 0, 0, 0⟩ ∧ decodeWords [0x100420C0] = .ok (.sadd o3, []) ∧
    classAdmits 0 ((opcodeOf (.sadd o3)).getD 0) = true ∧ mustClose ((opcodeOf (.sadd o3)).getD 0) = false ∧
    code1.clauseIndex ⟨0, 0, ⟨2, false⟩⟩ path2 path2.pc (path2.hdr + 4) 0 2 = (some (some 1), path2, code1) ∧
    code1.codeWord ⟨0, 0, ⟨2, false⟩⟩ path2 path2.pc = (.ok [0x100420C0], path2, code1) ∧
    code1.codeWords ⟨0, 0, ⟨2, false⟩⟩ path2 path2.pc 1 = (.ok [0x100420C0], path2, code1) ∧
    step { code1 with agenda := [.run ⟨2, false⟩] } =
      exec (.sadd o3) { code1 with cur := some ⟨⟨2, false⟩, placeVa + 16, true⟩ } :=
  ⟨⟨rfl, rfl, rfl, rfl, rfl, rfl, nofun, rfl, by decide⟩, by decide, by decide, rfl, rfl, rfl, rfl, rfl, rfl, rfl,
    rfl, rfl⟩

theorem wit_StepRunsDecoded_first : ∃ g,
    code0.MayRun ⟨2, false⟩ g pathH blk0 ∧ pathH.pc = pathH.hdr ∧ g.clauseReady ⟨1, 0, 0, 0⟩ = true ∧
    (code0.observeWait blk0 g 0).2.codeWord ⟨0, 0, ⟨2, false⟩⟩ path0 path0.pc =
      (.ok [0x100420C0], path0, (code0.observeWait blk0 g 0).2) ∧
    step { code0 with agenda := [.run ⟨2, false⟩] } = exec (.sadd o3)
      { (code0.observeWait blk0 g 0).2.setGroup ((code0.observeWait blk0 g 0).1.setPath false (some path0)) with
        cur := some cur0 } :=
  ⟨freshGroup 2 1 0 64 0 placeVa zeroSregs, ⟨rfl, rfl, rfl, rfl, rfl, rfl, nofun, rfl, by decide⟩, rfl, rfl, rfl, rfl⟩

theorem wit_StepRunsDecoded_event :
    encode .warmReset = [] ∧ step { base with agenda := [.ev .warmReset] } = exec .warmReset base ∧
    step base = .next { base with agenda := base.round } := ⟨rfl, rfl, rfl⟩

theorem wit_StepRunsDecoded_bytes : ∃ l, code0.homeOf 0 (placeVa + 4) = 0 ∧
    code0.homeLine? 0 0 placeVa = some l ∧ l.inL2 = true ∧ l.leaf.x = true ∧ l.leaf.view = 0 ∧
    code0.pageBusy 0 placeVa = false ∧ (l.bytes.drop 4).take 4 = [0xC0, 0x20, 0x04, 0x10] :=
  ⟨_, rfl, rfl, rfl, rfl, rfl, rfl, rfl⟩

theorem wit_CanonicalStep : base.Canonical ∧ ∃ t, step base = .next t :=
  ⟨by unfold State.Canonical; decide, _, rfl⟩

/-! ### Witnesses: register-only instructions -/

theorem shaped0 : grp0.Shaped := by unfold Group.Shaped Group.Named; decide

/-- Writes of v1, s2 and p3, the mark on v4, and a flag. -/
def w0 : Writes := ⟨[(1, lanesOf fun l => BitVec.ofNat 32 l)], some (2, 7), some (3, 0xF), 1, [.v 4]⟩

theorem wit_RegisterWrites : grp0.Shaped ∧ (grp0.path false).isSome = true ∧ (∀ v ∈ w0.vs, v.1 < 64) ∧
    (2 : BitVec 6).toNat < 63 ∧ (3 : BitVec 6).toNat < 8 ∧
    (let t := grp0.applyWrites false 0xFF 0x3 w0
     t.vlane false 1 1 = 1 ∧ t.vlane false 1 2 = 0 ∧ t.sreg 2 = 7 ∧ t.pred 3 = 3 ∧ t.fstat = 1) :=
  ⟨shaped0, rfl, by decide, by decide, by decide, by decide⟩

theorem shaped2 : grp2.Shaped := by unfold Group.Shaped Group.Named; decide

theorem wit_GroupsStayShaped : grp0.Shaped ∧ grp0.slot1 = none ∧ grp2.Shaped ∧ grp2.slot1.isSome = true ∧
    (grp2.path true).isSome = true := ⟨shaped0, rfl, shaped2, rfl, rfl⟩

theorem wit_Folds : grp2.Named ∧ grp2.Apart ∧ grp2.m0.length = 64 ∧ grp2.m1.length = 64 ∧
    (1 : Word) &&& ~~~grp2.held false = 0 ∧
    (grp2.fold 1 false true).entryLane (mapEntry ((grp2.fold 1 false true).map true) 1) 0 = 5 ∧
    (grp2.fold 1 false true).entryLane (mapEntry ((grp2.fold 1 false true).map true) 1) 1 = 6 :=
  ⟨shaped2.2.2.2.2, by unfold Group.Apart; decide, by decide, by decide, by decide, by decide, by decide⟩

theorem wit_Folds_compaction :
    (let g := { grp2 with slot0 := some { path0 with mask := 0xFFFF, wait := some ⟨.retry, 2, 0, 0, false⟩ } }
     (mach g).group? g.id = some g ∧ ∃ t, exec (.compaction 2) (mach g) = .next t ∧
       (t.group? 2).map (fun x => (x.vlane false 1 0, x.vlane true 1 20)) = some (5, 6)) :=
  ⟨rfl, _, rfl, by decide⟩

theorem wit_Follows : (mach grp0).Acts cur0 grp0 path0 ∧
    (∃ r, scalarRule (.sadd o3) = some r ∧ r.Ready grp0 false path0) ∧
    (∃ r, scalarMoveRule (.pcnt o3) = some r ∧ r.Ready grp0 false path0) ∧
    (∃ r, vectorRule (.vaddVv o3) = some r ∧ r.Ready grp0 false path0) ∧
    (∃ r, vectorMoreRule (.vmov o3) = some r ∧ r.Ready grp0 false path0) ∧
    (∃ r, permutationRule (.xshf o3) = some r ∧ r.Ready grp0 false path0) ∧
    (∃ r, reductionRule (.xred .iadd o3) = some r ∧ r.Ready grp0 false path0) ∧
    (∃ r, floatRule (.faddVv o3) = some r ∧ r.Ready grp0 false path0) ∧
    (∃ r, packedRule (.hadd2Vv o3) = some r ∧ r.Ready grp0 false path0) ∧
    (∃ r, pniRule (.vquant o3) = some r ∧ r.Ready grp0 false path0) ∧
    (∃ r, conversionRule (.vcvti .i32i64 { o3 with d := 0 }) = some r ∧ r.Ready grp0 false path0) := by
  refine ⟨⟨rfl, rfl, rfl⟩, ?_, ?_, ?_, ?_, ?_, ?_, ?_, ?_, ?_, ?_⟩ <;>
    exact ⟨_, rfl, by unfold Rule.Ready; decide⟩

/-- A group whose rename registers are spent. -/
def grpFull : Group := { grp0 with phys := (List.range 94).map fun n => (⟨n, lanesOf fun _ => 0⟩ : PhysReg) }

theorem wit_RegisterInstructionsElse :
    (∃ r, ruleOf (.vaddVv { o3 with d := 63 }) = some r ∧ (∃ n ∈ r.names, 56 ≤ n) ∧
      exec (.vaddVv { o3 with d := 63 }) (mach { grp0 with regn := 56 }) =
        fatal (mach { grp0 with regn := 56 }) cur0 { grp0 with regn := 56 } path0 0x04 path0.mask 0) ∧
    (∃ r, ruleOf (.sadd { o3 with g := 1 }) = some r ∧ r.level = true ∧ path0.eff grp0 r.guard = 0 ∧
      exec (.sadd { o3 with g := 1 }) (mach grp0) = .next ((mach grp0).retired cur0 grp0 path0)) ∧
    (∃ r, ruleOf (.vaddVv o3) = some r ∧
      grpFull.canWrite (r.writes grpFull false path0.mask (path0.eff grpFull r.guard)).vs.length = false ∧
      exec (.vaddVv o3) (mach grpFull) = .next ((mach grpFull).waits cur0 grpFull path0 .retry 2)) := by
  refine ⟨⟨_, rfl, ?_, rfl⟩, ⟨_, rfl, rfl, rfl, rfl⟩, ⟨_, rfl, rfl, rfl⟩⟩
  exact ⟨63, by decide, by decide⟩

theorem wit_EmptyEffectiveSet : (mach grp0).Acts cur0 grp0 path0 ∧ path0.replay = none ∧ path0.eff grp0 1 = 0 ∧
    exec (.acq .tile { o3 with g := 1 }) (mach grp0) = .next ((mach grp0).retired cur0 grp0 path0) ∧
    exec (.saop { m0 with g := 1 }) (mach grp0) = .next ((mach grp0).retired cur0 grp0 path0) :=
  ⟨⟨rfl, rfl, rfl⟩, rfl, by decide, rfl, rfl⟩

/-! ### Witnesses: control -/

/-- s2 holds the address 0x200. -/
def gs2 : Group := grp0.setSreg 2 0x200

theorem acts0 : (mach grp0).Acts cur0 grp0 path0 := ⟨rfl, rfl, rfl⟩

theorem in0 : (mach grp0).ActsIn cur0 grp0 path0 blk0 grd0 := ⟨acts0, rfl, rfl⟩

theorem wit_Branches :
    exec (.bra ⟨0, false, 0xFFFFF⟩) (mach grp0) = .next ((mach grp0).went cur0 grp0 path0 placeVa) ∧
    exec (.call ⟨0, false, 2⟩) (mach grp0) =
      .next ((mach grp0).went cur0 (grp0.setSreg 62 0x100000008) path0 (placeVa + 12)) ∧
    exec (.ball ⟨1, true, 2⟩) (mach grp0) = .next ((mach grp0).went cur0 grp0 path0 (placeVa + 12)) ∧
    exec (.bany ⟨1, false, 2⟩) (mach grp0) = .next ((mach grp0).retired cur0 grp0 path0) ∧
    (let p : Path := { path0 with pc := 4, hdr := 0 }
     let g := { grp0 with slot0 := some p }
     exec (.bra ⟨0, false, 0xFFFFE⟩) (mach g) = fatal (mach g) cur0 g p 0x01 p.mask 0) :=
  ⟨rfl, rfl, rfl, rfl, rfl⟩

theorem wit_Branches_indirect :
    (mach gs2).Acts cur0 gs2 path0 ∧ path0.eff gs2 0 ≠ 0 ∧ condMet .gt (gs2.sreg 2).toInt 0 = true ∧
    after (exec (.brx { o3 with la := true }) (mach gs2)) = some ((mach gs2).went cur0 (gs2.setSreg 2 0) path0 0x200) ∧
    after (exec (.ret o3) (mach gs2)) = some ((mach gs2).went cur0 gs2 path0 0x200) ∧
    after (exec (.brs .gt { o3 with b := .lit 0xFFFFFFFF }) (mach gs2)) = some ((mach gs2).went cur0 gs2 path0 placeVa) ∧
    after (exec (.brs .le { o3 with b := .lit 1 }) (mach gs2)) = some ((mach gs2).retired cur0 gs2 path0) ∧
    after (exec (.brx { o3 with a := 62 }) (mach (grp0.setSreg 62 2))) =
      after (fatal (mach (grp0.setSreg 62 2)) cur0 (grp0.setSreg 62 2) path0 0x01 path0.mask 0) :=
  ⟨⟨rfl, rfl, rfl⟩, by decide, by decide, by decide, by decide, by decide, by decide, by decide⟩

/-- p1 holds the low 16 lanes, and v1 a number for each lane. -/
def gp1 : Group :=
  { grp0 with preds := grp0.preds.set 1 0xFFFF, m0 := grp0.m0.set 1 ⟨some 5, 0⟩,
              phys := [⟨5, lanesOf fun l => BitVec.ofNat 32 (l + 1)⟩] }

theorem wit_DivergentBranch :
    (∃ g' pf pt, exec (.brv ⟨1, false, 2⟩) (mach gp1) = .next ((mach gp1).setGroup g') ∧ g'.slot0 = some pf ∧
      g'.slot1 = some pt ∧ pf.mask = 0xFFFF0000 ∧ pt.mask = 0xFFFF ∧ pf.pc = cur0.next ∧ pt.pc = placeVa + 12 ∧
      pt.hdr = placeVa + 12 ∧ g'.vlane true 1 3 = 4 ∧ g'.vlane false 1 31 = 32 ∧
      { g' with slot0 := gp1.slot0, slot1 := gp1.slot1, m1 := gp1.m1 } = gp1) ∧
    exec (.brv ⟨1, false, 2⟩) (mach grp0) = .next ((mach grp0).retired cur0 grp0 path0) ∧
    exec (.brv ⟨1, true, 2⟩) (mach grp0) = .next ((mach grp0).went cur0 grp0 path0 (placeVa + 12)) ∧
    (let g := { grp2 with preds := grp2.preds.set 1 0xFF, stack := List.replicate 64 path0 }
     exec (.brv ⟨1, false, 2⟩) (mach g) =
       fatal (mach g) cur0 g { path0 with mask := 0xFFFF } 0x80 0xFFFF 0) :=
  ⟨⟨_, _, _, rfl, rfl, rfl, rfl, rfl, rfl, rfl, rfl, by decide, by decide, rfl⟩, rfl, rfl, rfl⟩

/-- A path of the high lanes that has aged and waits, for a reason. -/
def qW (reason : Nat) : Path := { path0 with
  mask := 0xFFFF0000, age := 9, wait := some ⟨.retry, reason, 0, placeVa + 8, true⟩ }

/-- Two paths, of which slot 1's waits for a reason. -/
def gS (reason : Nat) : Group := { grp2 with preds := grp2.preds.set 1 0xFF, slot1 := some (qW reason) }

theorem wit_DivergentBranch_spill :
    blk0.slot = none ∧ (mach (gS 3)).stackBusy blk0 0 = false ∧ pj.ageNow < (qW 3).age ∧
    exec (.brv ⟨1, false, 2⟩) (mach (gS 3)) = .next ((mach (gS 3)).waits cur0 (gS 3) pj .split 14) ∧
    ∃ u g', exec (.brv ⟨1, false, 2⟩) (mach (gS 12)) = .next u ∧ u.group? 2 = some g' ∧
      g'.stack = [(qW 12).dropped.pushed] := ⟨rfl, rfl, by decide, rfl, _, _, rfl, rfl, rfl⟩

/-- Two paths: slot 0's at its JOIN, slot 1's at a place and in a state to be given. -/
def gj (joining : Bool) (pc : Va) : Group :=
  { grp2 with slot1 := some { path0 with mask := 0xFFFF0000, pc := pc, joining := joining } }

theorem wit_Joins :
    exec (.join o3) (mach grp0) = .next ((mach grp0).retired cur0 grp0 path0) ∧
    (gj false placeVa).Shaped ∧ (mach (gj false placeVa)).ActsIn cur0 (gj false placeVa) pj blk0 grd0 ∧
    exec (.join o3) (mach (gj false placeVa)) = .next ((mach (gj false placeVa)).setGroup
      ((gj false placeVa).setPath false (some { pj with
        joining := true, age := 0, wait := some ⟨.retry, 8, 0, cur0.next, true⟩ }))) ∧
    exec (.join o3) (mach (gj true (placeVa + 8))) = .next ((mach (gj true (placeVa + 8))).setGroup
      ((gj true (placeVa + 8)).setPath false (some (pj.advance cur0)))) ∧
    (∃ t g' m, exec (.join o3) (mach (gj true path0.pc)) = .next t ∧ t.group? 2 = some g' ∧ g'.slot0 = some m ∧
      g'.slot1 = none ∧ m.mask = 0xFFFFFFFF ∧ m.pc = cur0.next ∧ m.joining = false ∧
      g'.vlane false 1 0 = 5 ∧ g'.vlane false 1 31 = 6) := by
  refine ⟨rfl, ?_, ⟨⟨rfl, rfl, rfl⟩, rfl, rfl⟩, rfl, rfl, _, _, _, rfl, rfl, rfl, rfl, rfl, rfl, rfl, ?_, ?_⟩
  · unfold Group.Shaped Group.Named; decide
  · decide
  · decide

theorem wit_Exits :
    exec (.exit { o3 with g := 1 }) (mach grp0) = .next ((mach grp0).retired cur0 grp0 path0) ∧
    exec (.exit { o3 with g := 1 }) (mach gp1) =
      .next ((mach gp1).retired cur0 gp1 { path0 with mask := 0xFFFF0000 }) ∧
    (∃ t g' b', exec (.exit o3) (mach gp1) = .next t ∧ t.group? 2 = some g' ∧ g'.phase = .ended ∧ g'.slot0 = none ∧
      g'.phys = [] ∧ t.block? 1 = some b' ∧ b'.alloc = { blk0.alloc with reg := 0 }) :=
  ⟨rfl, rfl, _, _, _, rfl, rfl, rfl, rfl, rfl, rfl, rfl⟩

theorem wit_SleepAndYield :
    exec (.sleep { o3 with b := .lit 9 }) (mach grp0) =
      .next ((mach grp0).waits cur0 grp0 path0 (.sleep 9 { o3 with b := .lit 9 }) 10) ∧
    exec (.sleep { o3 with b := .lit 0xFFFFFFFF }) (mach grp0) = .next ((mach grp0).retired cur0 grp0 path0) ∧
    exec (.yield o3) (mach grp0) = .next ((mach grp0).retired cur0 grp0 { path0 with yielded := 64 }) ∧
    (let p : Path := { path0 with wait := some ⟨.sleep 0 o3, 10, 0, placeVa + 8, true⟩ }
     let g := { grp0 with slot0 := some p }
     (mach g).Waiting ⟨2, false⟩ g p blk0 ⟨.sleep 0 o3, 10, 0, placeVa + 8, true⟩ ∧
     exec (.sleepWake ⟨2, false⟩) (mach g) = .next ((mach g).retired ⟨⟨2, false⟩, placeVa + 8, true⟩ g p)) ∧
    (let q : Path := { path0 with age := 4096 }
     let g := { grp0 with stack := [q] }
     exec (.yield o3) (mach g) = .next ((mach g).setGroup { g with
       slot0 := some q, stack := [{ path0.advance cur0 with age := path0.age }], spills := 2 }) ∧
     exec (.ageingSwap 2) (mach g) = .next ((mach g).setGroup { g with slot0 := some q, stack := [path0], spills := 2 })) ∧
    (let g := { grp0 with stack := [{ path0 with age := 4095 }] }
     exec (.ageingSwap 2) (mach g) = .next (mach g)) :=
  ⟨rfl, rfl, rfl, ⟨⟨rfl, rfl, rfl, rfl, rfl, rfl, by decide⟩, rfl⟩, ⟨rfl, rfl⟩, rfl⟩

/-- A stacked path that has aged `n` cycles behind a path that waits for a reason, and another, if there is one. -/
def gA (n reason : Nat) (other : Option Path := none) : Group :=
  { grp0 with slot0 := some { qW reason with quiet := 3 }, slot1 := other, stack := [{ path0 with age := n }] }

theorem wit_AgeingSwap_waits :
    exec (.ageingSwap 2) (mach (gA 4096 3)) = .next ((mach (gA 4096 3)).setGroup
      { gA 4096 3 with slot0 := some { qW 3 with quiet := 3, leaving := true } }) ∧
    (∃ t g', exec (.ageingSwap 2) (mach (gA 7936 3)) = .next t ∧ t.group? 2 = some g' ∧
      g'.slot0 = some { path0 with age := 7936 } ∧ g'.stack = [{ qW 3 with quiet := 3 }.dropped.pushed]) ∧
    (∃ t g', exec (.ageingSwap 2) (mach (gA 4096 12)) = .next t ∧ t.group? 2 = some g' ∧
      g'.slot0 = some { path0 with age := 4096 } ∧ g'.stack = [{ qW 12 with quiet := 3 }.dropped.pushed]) ∧
    exec (.ageingSwap 2) (mach (gA 4096 3 (some { qW 3 with quiet := 2 }))) =
      .next ((mach (gA 4096 3 (some { qW 3 with quiet := 2 }))).setGroup
        { gA 4096 3 with slot1 := some { qW 3 with quiet := 2, leaving := true } }) :=
  ⟨rfl, ⟨_, _, rfl, rfl, rfl, rfl⟩, ⟨_, _, rfl, rfl, rfl, rfl⟩, rfl⟩

/-! ### Witnesses: faults, traps, system instructions, waits -/

theorem wit_FatalFaults : ∃ t, (mach grp0).freeze grp0 false path0.pc path0.hdr 0x10 0xF 0 0x99 = .next t ∧
    t.group? 2 = some (grp0.frozenBy false path0.pc path0.hdr 0x10 0xF 0 0x99) ∧
    (t.vdev 0).frozen = [⟨some 2, none, 0x10, path0.pc, 0x99, 0xF, 0⟩] ∧
    (t.vdev 0).raised = [⟨0, 0, false, false, false⟩] := ⟨_, rfl, rfl, rfl, rfl⟩

/-- A grid whose kernel has a handler at 0x400. -/
def grdH : Grid := { grd0 with desc := { grd0.desc with handler := 0x400 } }

/-- A handler that runs in the low lanes. -/
def hand0 : Handler := ⟨0xFFFF0000, true, none⟩

/-- The path in that handler. -/
def pathT : Path := { path0 with mask := 0xFFFF, handler := some hand0 }

theorem wit_TrapEntry :
    (mach grp0 blk0 grdH).ActsIn cur0 grp0 path0 blk0 grdH ∧
    ((mach grp0 blk0 grdH).core 0).permitFor ⟨2, false⟩ = true ∧
    exec (.trap { o3 with b := .lit 7 }) (mach grp0 blk0 grdH) =
      .next (((mach grp0 blk0 grdH).setGroup (({ grp0 with trap :=
        ⟨0x71, 0x100000008, 0x100000008, 0xFFFFFFFF, 7, 0, false⟩ }).setPath false
          (some ({ path0 with handler := some ⟨0, true, none⟩, backoff := 0, starved := none }.goto 0x400)))).setCore
        (((mach grp0 blk0 grdH).core 0).takePermit ⟨2, false⟩)) ∧
    exec (.trap { o3 with b := .lit 7 }) (mach grp0) = (mach grp0).freeze grp0 false path0.pc path0.hdr 0x71 0xFFFFFFFF 7 0 ∧
    (let s := (mach grp0 blk0 grdH).setCore { (mach grp0 blk0 grdH).core 0 with permits := 4 }
     (s.core 0).permitFor ⟨2, false⟩ = false ∧ exec (.trap o3) s =
       .next (s.waits cur0 grp0 { path0 with backoff := 64, starved := none } (.backoff 64) 13) ∧
     (let p : Path := { path0 with backoff := 8000 }
      let g := { grp0 with slot0 := some p }
      exec (.trap o3) { s with groups := [g] } = .next ({ s with groups := [g] }.waits cur0 g
        { p with backoff := 8192, starved := some (s.core 0).cycle } (.backoff 8192) 13))) :=
  ⟨⟨⟨rfl, rfl, rfl⟩, rfl, rfl⟩, rfl, rfl, rfl, rfl, rfl, rfl⟩

/-- A core with three permits out. -/
def core3 : Core := { base.core 0 with permits := 3 }

theorem wit_TrapPermits : core3.holds = [] ∧ core3.permitFor ⟨2, false⟩ = true ∧
    { core3 with holds := [(⟨9, true⟩, 5)] }.permitFor ⟨2, false⟩ = false ∧
    { core3 with holds := [(⟨9, true⟩, 5)] }.permitFor ⟨9, true⟩ = true := by decide

/-- The group in its handler, to resume at an address under a header, its clause's code in place. -/
def gT (pc hdr : DWord) : Group := { grp0 with slot0 := some pathT, trap := ⟨0x71, pc, hdr, 0xFFFF, 7, 0, false⟩ }

/-- The machine with the code of `code0`, a permit out, and that group. -/
def machT (g : Group) : State :=
  { (code0.setCore { code0.core 0 with permits := 1 }) with groups := [g], cur := some cur0 }

theorem wit_TrapReturn :
    exec (.tret o3) (mach grp0) = fatal (mach grp0) cur0 grp0 path0 0x03 path0.mask 0 ∧
    (let g := gT 0x100000004 0x100000000
     let s := machT g
     s.checkResume blk0 ⟨2, false⟩ pathT g.trap.pc g.trap.hdr = (.good, pathT, s) ∧
     (grp (exec (.tret o3) s)).map (fun g => g.slot0) = some (some { pathT with
        pc := placeVa + 4, hdr := placeVa, mask := 0xFFFFFFFF, handler := none }) ∧
     (after (exec (.tret o3) s)).map (fun t => (t.core 0).permits) = some 0) ∧
    (let g := gT 0x100000002 0x100000000
     let s := machT g
     s.checkResume blk0 ⟨2, false⟩ pathT g.trap.pc g.trap.hdr = (.bad, pathT, s) ∧
     exec (.tret o3) s = fatal s cur0 g pathT 0x01 0xFFFF 0) := ⟨rfl, ⟨rfl, by decide, by decide⟩, rfl, rfl⟩

theorem wit_BreakAndPreempt :
    (let s := (mach grp0).setReg (kenzuKey 0 8) 0x0800000000000000
     (s.kz 0 0x008).getLsbD 59 = true ∧ exec (.brk o3) s = .next ((s.setBlock
       { blk0 with dbgReq := true, dbgWhy := some (⟨2, false⟩, 0x70) }).retired cur0 grp0 path0)) ∧
    exec (.brk o3) (mach grp0) = (mach grp0).freeze grp0 false path0.pc path0.hdr 0x70 0xFFFFFFFF 0 0 ∧
    exec (.ppt { o3 with b := .lit 0 }) (mach grp0) = fatal (mach grp0) cur0 grp0 path0 0x01 path0.mask 0 :=
  ⟨⟨rfl, rfl⟩, rfl, rfl⟩

/-- A grid with one liveness note, at address 0x100000000, and the machine with that line at its home. -/
def grdN : Grid := { grd0 with desc := { grd0.desc with nlive := 1, livetab := 0x100000000 } }

/-- The machine whose block has been asked to stop at a time. -/
def machN (since : Nat) : State :=
  { (mach grp0 { blk0 with stop := some since } grdN) with
    home := base.home.map fun h => { h with bytes := List.replicate 128 0, leaf := { h.leaf with r := true } } }

theorem wit_BreakAndPreempt_ppt : ∃ bs,
    (machN 0).deviceRead 0 0x100000000 48 = some (bs, machN 0) ∧
    noteFits (noteOf 0 bs) grp0.regn blk0.alloc.scr = true ∧ grp0.reconverged = true ∧
    exec (.ppt { o3 with b := .lit 0 }) (machN 0) = .next ((machN 0).stopGroup { blk0 with stop := some 0 }
      (grp0.setPath false (some (path0.advance cur0))) (some (noteOf 0 bs))) :=
  ⟨List.replicate 48 0, rfl, rfl, rfl, rfl⟩

theorem wit_SpecialRegisters :
    exec (.rdsr { o3 with b := .lit 0x00B }) (mach grp0) = fatal (mach grp0) cur0 grp0 path0 0x01 path0.mask 0 ∧
    exec (.wrsr { o3 with b := .lit 0x1FF, g := 1 }) (mach grp0) =
      fatal (mach grp0) cur0 grp0 path0 0x03 path0.mask 0 ∧
    exec (.rdsr { o3 with b := .lit 0x013 }) (mach grp0) =
      .next ((mach grp0).retired cur0 ((grp0.setSreg 1 64).setFlags 0) path0) ∧
    exec (.wrsr { o3 with b := .lit 0x031 }) (mach (gT 8 0)) =
      .next ((mach (gT 8 0)).retired cur0 { gT 8 0 with trap := { (gT 8 0).trap with pc := 0 } } pathT) ∧
    exec (.wrsr { o3 with b := .lit 0x035 }) (mach grp0) = .next ((mach grp0).retired cur0 grp0 path0) :=
  ⟨rfl, rfl, rfl, rfl, rfl⟩

theorem wit_SpecialRegisters_marks :
    (mach grp0).tracing 0 = false ∧ exec (.trmark o3) (mach grp0) = .next ((mach grp0).retired cur0 grp0 path0) ∧
    exec (.bist .vrf o3) (mach grp0) = fatal (mach grp0) cur0 grp0 path0 0x03 path0.mask 0 ∧
    (let s := { mach grp0 with mfg := true }
     bistBusy s blk0 .vrf = false ∧ exec (.bist .vrf o3) s = .next (s.waits cur0 grp0 path0 .retry 6) ∧
     exec (.bist .tile o3) { s with groups := [gW .retry] } =
       .next (({ s with groups := [gW .retry], free := s.free + 1 }).retired cur0
         (((gW .retry).setSreg 1 (marchResult (Config.railWord s.free (s.rails (dieOf blk0.core))))).setFlags 0)
         { path0 with wait := some ⟨.retry, 1, 0, placeVa + 8, true⟩ }) ∧
     exec (.rdsr { o3 with b := .lit 0x101 }) s = .next (s.retired cur0 ((grp0.setSreg 1 0).setFlags 0) path0) ∧
     exec (.wrsr { o3 with b := .lit 0x100 }) s = .next (s.retired cur0 grp0 path0)) ∧
    (let s := (mach grp0).setReg (kenzuKey 0 0x100) 0x8000000000000000
     s.tracing 0 = true ∧ exec (.trmark o3) s = .next ((s.trace 0 0 [⟨1, blk0.phaseSum, whereOf blk0 0, s.timebase,
       0x100000004, 0, path0.mask, []⟩]).retired cur0 grp0 path0)) :=
  ⟨rfl, rfl, rfl, ⟨rfl, rfl, rfl, rfl, rfl⟩, rfl, rfl⟩

theorem wit_SpecialRegisters_fuses :
    (let s := { mach grp0 with mfg := true }
     (s.defects.find? fun d => d.1 == dieOf blk0.core).map (fun d => (Memory.readN d.2 8 2, Memory.read d.2 0x11)) =
       some ([0, 0], 72) ∧
     (grp (exec (.rdsr { o3 with b := .lit 0x100 }) s)).map (fun g => g.sreg 1) = some 0x480000) := by decide

theorem wit_FetchFaults :
    (let s : State := { State.reset.placeCode (bytesOfWord 0x0F000000) with agenda := [], groups := [grp0] }
     fetch s ⟨2, false⟩ = .run s (.illegalInstructionWord ⟨2, false⟩ (placeVa + 4) 0x02) ∧
     ∃ t, exec (.illegalInstructionWord ⟨2, false⟩ (placeVa + 4) 0x02) s = .next t ∧
       t.group? 2 = some (grp0.frozenBy false (placeVa + 4) placeVa 0x02 path0.mask 0 0)) := ⟨rfl, _, rfl, rfl⟩

theorem wit_WaitsEnd :
    (let g := { gW .clause with slot0 := some { path0 with pc := placeVa, wait := some ⟨.clause, 1, 0, placeVa, false⟩ } }
     let s : State := { code0 with groups := [g] }
     g.clauseReady ⟨1, 0, 0, 0⟩ = true ∧ ∃ t, exec (.clauseWaitSatisfied ⟨2, false⟩) s = .next t ∧
       ((t.group? 2).bind fun g => g.path false).map (fun q => (q.pc, q.wait)) = some (placeVa + 4, none)) ∧
    exec (.trapBackoffRetry ⟨2, false⟩) (mach (gW (.backoff 0))) = .next (mach grp0) ∧
    exec (.trapBackoffRetry ⟨2, false⟩) (mach (gW (.backoff 1))) = .next (mach (gW (.backoff 1))) ∧
    (let k : Core := { base.core 0 with holds := [(⟨2, false⟩, 0), (⟨2, true⟩, 1)] }
     exec (.permitHoldExpiry 0) ((mach grp0).setCore k) =
       .next (((mach grp0).setCore k).setCore { k with holds := [(⟨2, true⟩, 1)] })) :=
  ⟨⟨rfl, _, rfl, rfl⟩, rfl, rfl, rfl⟩

theorem wit_ClauseCounters : grp0.clauseReady ⟨1, 0, 3, 0⟩ = true ∧
    { grp0 with cnt := ⟨0, 0, 0, 16⟩ }.clauseReady ⟨1, 0, 3, 15⟩ = false := ⟨rfl, rfl⟩

/-! ### Witnesses: memory -/

/-- Slot 0: 256 bytes of global memory at `placeVa`; slot 1: 256 bytes of scratch; slot 2: the same, without a
permission; slot 3 maps nothing. -/
def blkM : Block :=
  { blk0 with alloc := { blk0.alloc with scr := 1 }, claim := { blk0.claim with scr := 1 },
              win := [⟨0, 0, placeVa.setWidth 64, 256, 0, 7, 0, false, 0, 0⟩, ⟨1, 1, 0, 256, 1, 7, 0, false, 0, 0⟩,
                      ⟨2, 2, 0, 256, 1, 0, 0, false, 0, 0⟩],
              scr := [(4, 0x2A), (5, 0xFF), (132, 7)] }

/-- The bytes of the line at `placeVa`: each byte holds its place. -/
def bytes0 : List Byte := (List.range 128).map fun i => BitVec.ofNat 8 i

/-- A line whose leaf permits everything. -/
def lineM : HomeLine := ⟨0, 0, placeVa, bytes0, 0, ⟨0, false, false, 0, 0, true, true, true⟩, true⟩

/-- The machine with that line at its home. -/
def machM (g : Group) : State := { mach g blkM with home := [lineM] }

/-- Operands of a memory instruction at a slot and displacement: no ordering, s0 or v0 as its offset. -/
def mo (d : BitVec 6) (h : BitVec 8) (disp : BitVec 16) (size : MemSize := .b32) (x : BitVec 4 := 0) : MOps :=
  ⟨d, 0, h, 0, disp, size, .grp, .rlx, .policy, false, false, x⟩

theorem inM : (machM grp0).ActsIn cur0 grp0 path0 blkM grd0 := ⟨⟨rfl, rfl, rfl⟩, rfl, rfl⟩

/-- LDS from scratch and from global memory: low byte first. -/
theorem test_lds : (grp (exec (.lds (mo 1 1 4 .b16)) (machM grp0))).map (fun g => g.sreg 1) = some 0xFF2A ∧
    (grp (exec (.lds (mo 1 0 0x10 .b64)) (machM grp0))).map (fun g => g.sreg 1) = some 0x1716151413121110 ∧
    (grp (exec (.lds (mo 1 1 5 .b8 1)) (machM grp0))).map (fun g => g.sreg 1) = some 0xFFFFFFFFFFFFFFFF := by
  decide

theorem wit_Loads : ∃ r reqs rs s',
    (machM grp0).stage1 blkM grd0 1 .lds = some r ∧ r.inside (uniformOffset grp0 (mo 1 1 252)) 4 = true ∧
    reqs = uniformReqs r 0xFFFFFFFF (uniformOffset grp0 (mo 1 1 252)) 4 ∧
    (machM grp0).Confirms ⟨0, 0, ⟨2, false⟩⟩ path0 r .read reqs rs s' ∧ grp0.canWrite 1 = true ∧
    after (exec (.lds (mo 1 1 252)) (machM grp0)) = some ((s'.loaded ⟨0, 0, ⟨2, false⟩⟩ grp0 (mo 1 1 252) rs).2.retired cur0
      ((s'.loaded ⟨0, 0, ⟨2, false⟩⟩ grp0 (mo 1 1 252) rs).1.applyWrites false 0xFFFFFFFF 0xFFFFFFFF
        ⟨[], some (1, extend 64 4 false (reqValue (grp0.linesRead rs) ⟨0, r.bytes 0 0 252 4⟩)), none, 0, []⟩) path0) :=
  ⟨_, _, _, _, rfl, rfl, rfl, ⟨rfl, rfl⟩, rfl, by decide⟩

/-- LDU of two words, and LDM of three registers with lanes four bytes apart. -/
theorem test_ldu_ldm :
    (grp (exec (.ldu (mo 2 0 8 .b64)) (machM grp0))).map (fun g => (g.vlane false 2 7, g.vlane false 3 7)) =
      some (0x0B0A0908, 0x0F0E0D0C) ∧
    (grp (exec (.ldm (mo 2 1 0 .b32 0)) (machM grp0))).map (fun g => (g.vlane false 2 1, g.vlane false 2 31)) =
      some (0xFF2A, 0) := by decide

/-- Lanes 0 and 1 of p1; v1 holds 4 in lane 0 and 8 in lane 1. -/
def gL : Group :=
  { grp0 with preds := grp0.preds.set 1 3, m0 := grp0.m0.set 1 ⟨some 5, 0⟩,
              phys := [⟨5, lanesOf fun l => BitVec.ofNat 32 (4 * l + 4)⟩] }

/-- A per-lane access by v1 under p1. -/
def mv (d : BitVec 6) (h : BitVec 8) (size : MemSize := .b32) (x : BitVec 4 := 0) : MOps :=
  ⟨d, 1, h, 1, 0, size, .grp, .rlx, .policy, false, false, x⟩

theorem test_ld : (∀ n ∈ memNames (mv 2 0) 1 true, n < gL.regn) ∧
    (grp (exec (.ld (mv 2 0)) (machM gL))).map (fun g => (g.vlane false 2 0, g.vlane false 2 1, g.vlane false 2 2)) =
      some (0x07060504, 0x0B0A0908, 0) := by decide

theorem wit_Stores : ∃ r reqs rs s',
    (machM grp0).stage1 blkM grd0 0 .sts = some r ∧ r.inside (uniformOffset grp0 (mo 62 0 4)) 4 = true ∧
    reqs = uniformReqs r 0xFFFFFFFF (uniformOffset grp0 (mo 62 0 4)) 4 ∧
    (machM grp0).Confirms ⟨0, 0, ⟨2, false⟩⟩ path0 r .write reqs rs s' ∧
    (let es := s'.entriesFor r.h.idx ((r.bytes 0 0 4 4).zip (bytesOfNat 4 0)) rs
     s'.MayStore grp0 none es.1 ∧ es.1.length = 1 ∧
     exec (.sts (mo 62 0 4)) (machM grp0) = .next (es.2.retired cur0 (grp0.stored es.1) path0)) :=
  ⟨_, _, _, _, rfl, rfl, rfl, ⟨rfl, rfl⟩, ⟨⟨rfl, rfl⟩, rfl, rfl⟩⟩

/-- A store's bytes wait in its entry; two lanes at one byte leave the higher lane's. -/
theorem test_st : (grp (exec (.st (mv 1 0)) (machM gL))).map (fun g => g.sb.map fun e =>
    (e.marks, e.bytes.getD 4 0, e.bytes.getD 8 0)) = some [(0xFF0, 4, 8)] ∧
    (grp (exec (.stm (mo 1 1 0 .b32 0)) (machM gL))).map (fun g => g.sb.map fun e => (e.marks, e.bytes.getD 4 0)) =
      some [(BitVec.allOnes 128, 8)] := by decide

/-- The entry that STS leaves, and a line's result. -/
def sb0 : SbEntry := ⟨9, .mem 0 0 placeVa, List.replicate 128 0xAA, 0xF0, none, placeVa, 0⟩

theorem wit_StoreBuffer : sb0.bytes.length = 128 ∧
    (({ grp0 with sb := [sb0] } : Group).lineBytes [⟨placeVa.toNat, .mem 0 0 placeVa, .ok bytes0 none⟩]
      placeVa.toNat).getD 4 0 = 0xAA ∧
    (({ grp0 with sb := [sb0] } : Group).lineBytes [⟨placeVa.toNat, .mem 0 0 placeVa, .ok bytes0 none⟩]
      placeVa.toNat).getD 3 0 = 3 ∧
    ((machM grp0).entriesFor 0 [(4, 1), (4, 2)] [⟨0, .mem 0 0 0, .ok bytes0 none⟩]).1.map
      (fun e => (e.marks, e.bytes.getD 4 0)) = [(0x10, 2)] := by decide

theorem wit_CachedLines :
    (machM grp0).pageBusy 0 placeVa = false ∧ (machM grp0).l1Line? 0 (.mem 0 0 placeVa) = none ∧
    (machM grp0).confirm ⟨0, 0, ⟨2, false⟩⟩ path0 0 .read (.mem 0 0 placeVa) =
      (.ok bytes0 (some lineM.leaf), path0,
        (machM grp0).setL1 ⟨0, .mem 0 0 placeVa, bytes0, fullMarks, 0, some lineM.leaf, []⟩) ∧
    (mach grp0).confirm ⟨0, 0, ⟨2, false⟩⟩ path0 0 .read (.mem 0 0 placeVa) = (.cause 0x21, path0, mach grp0) ∧
    (machM grp0).confirm ⟨0, 0, ⟨2, false⟩⟩ path0 0 .read (.mem 1 0 placeVa) =
      (.wait, { path0 with pend := [⟨3, .mem 1 0 placeVa⟩] }, { machM grp0 with
        nextId := 4, reqs := [⟨3, 0, .path ⟨2, false⟩, 0, 1, .mem 1 0 placeVa, .read, 0, 250000, Transit.start 0 1 1, []⟩] }) ∧
    (let s := { machM grp0 with l1 := [⟨0, .mem 0 0 placeVa, bytes0, fullMarks, 0, some lineM.leaf, []⟩] }
     s.confirm ⟨0, 0, ⟨2, false⟩⟩ path0 0 .read (.mem 0 0 placeVa) = (.ok bytes0 (some lineM.leaf), path0, s)) ∧
    (let s := { machM grp0 with vds := (machM grp0).vds.map fun (d : VirtDev) => { d with pginv := some 0x100000000 } }
     s.pageBusy 0 placeVa = true → s.confirm ⟨0, 0, ⟨2, false⟩⟩ path0 0 .read (.mem 0 0 placeVa) = (.wait, path0, s)) :=
  ⟨rfl, rfl, rfl, rfl, rfl, rfl, fun _ => rfl⟩

theorem wit_AccessFaults :
    (machM grp0).stage1 blkM grd0 2 .lds = none ∧ blkM.slotAt 3 = none ∧
    exec (.lds (mo 1 3 0)) (machM grp0) = fatal (machM grp0) cur0 grp0 path0 0x11 0xFFFFFFFF 0 ∧
    exec (.sts (mo 1 2 0)) (machM grp0) = fatal (machM grp0) cur0 grp0 path0 0x11 0xFFFFFFFF 0 ∧
    exec (.ldu (mo 2 1 253)) (machM grp0) = fatal (machM grp0) cur0 grp0 path0 0x10 0xFFFFFFFF 0 ∧
    after (exec (.ld { mv 2 0 with disp := 249 }) (machM gL)) =
      after (fatal (machM gL) cur0 gL path0 0x10 0x3 0x1000000FD) ∧
    after (exec (.ldm (mo 2 1 132)) (machM grp0)) = after (fatal (machM grp0) cur0 grp0 path0 0x10 0x80000000 0) := by
  refine ⟨rfl, rfl, rfl, rfl, rfl, by decide, by decide⟩

/-- The machine whose page tables are there and empty, so that every page is absent; its event ring's page is at hand. -/
def machA : State :=
  { mach grp0 { blkM with win := [⟨0, 0, 0x300000000, 256, 0, 7, 0, false, 0, 0⟩] } with
    atc := [⟨0, 0, 0, true, true⟩]
    vds := base.vds.map fun (d : VirtDev) => { d with root := some { placeRoot with ptroot := [1, 1, 1, 1] } } }

/-- A group whose LDS is parked and unanswered. -/
def gPark : Group :=
  { grp0 with slot0 := some { path0 with replay := some 0, wait := some ⟨.parked 0, 3, 0, placeVa + 8, true⟩ },
              replay := [⟨none, 0, placeVa + 4, false, 0xFFFFFFFF, zeroSregs, [], [⟨1, 0x300000000, 0xFFFFFFFF, false, none⟩]⟩] }

theorem wit_Parking :
    (grp (exec (.lds (mo 1 0 0)) machA)).map (fun g => (g.path false).map fun q => (q.replay, q.pc)) =
      some (some (some 0, path0.pc)) ∧
    (grp (exec (.lds (mo 1 0 0)) machA)).map (fun g => (g.path false).map fun q =>
      q.wait.map fun w => (w.kind, w.reason)) = some (some (some (.parked 0, 3))) ∧
    (grp (exec (.lds (mo 1 0 0)) machA)).map (fun g => g.replay.map fun x =>
      (x.idx, x.lanes, x.tags.map fun y => y.answer)) = some [(0, 0xFFFFFFFF, [none])] ∧
    exec (.lds (mo 1 0 0)) (mach gPark blkM) = .next (mach gPark blkM) := ⟨rfl, rfl, rfl, rfl⟩

/-- The same, answered: its logged s1 is 4, where the group's is 0 now. -/
def gBack : Group :=
  { gPark with replay := gPark.replay.map fun (x : ReplayEntry) => { x with
      sregs := (gPark.setSreg 1 4).sregs, tags := [⟨1, 0x300000000, 0xFFFFFFFF, false, some true⟩] } }

theorem wit_Parking_replayed : ∃ x r reqs rs s',
    gBack.replay.find? (fun y => y.idx == 0) = some x ∧ (x.tags.all fun y => y.answer == some true) = true ∧
    x.lanes = 0xFFFFFFFF ∧ uniformOffset { gBack with sregs := x.sregs } { mo 1 0 0 with a := 1 } = 4 ∧
    (machM gBack).stage1 blkM grd0 0 .lds = some r ∧ r.inside 4 4 = true ∧
    reqs = uniformReqs r 0xFFFFFFFF 4 4 ∧
    (machM gBack).Confirms ⟨0, 0, ⟨2, false⟩⟩ { path0 with replay := some 0, wait := some ⟨.parked 0, 3, 0, placeVa + 8, true⟩ }
      r .read reqs rs s' ∧
    (grp (exec (.lds { mo 1 0 0 with a := 1 }) (machM gBack))).map (fun g => g.sreg 1) = some 0x07060504 :=
  ⟨_, _, _, _, _, rfl, rfl, rfl, rfl, rfl, rfl, rfl, ⟨rfl, rfl⟩, by decide⟩

theorem wit_PrefetchAndQuery :
    exec (.prf (mo 0 3 0 .b8)) (machM grp0) = .next ((machM grp0).retired cur0 grp0 path0) ∧
    exec (.hqry (mo 1 3 0 .b8 2)) (machM grp0) = .next ((machM grp0).retired cur0 ((grp0.setSreg 1 0).setFlags 0) path0) ∧
    (grp (exec (.hqry (mo 1 1 0 .b8 1)) (machM grp0))).map (fun g => g.sreg 1) = some 256 ∧
    (grp (exec (.hqry (mo 1 1 0 .b8 2)) (machM grp0))).map (fun g => g.sreg 1) = some 0x100000701 :=
  ⟨rfl, rfl, by decide, by decide⟩

/-! ### Witnesses: atomics, order, barriers -/

/-- AOP under p1: both lanes add to one counter in ascending order, and each has what it found. -/
theorem test_aop : (grp (exec (.aop { mv 2 0 with x := 0 }) (machM
      { gL with m0 := (gL.m0.set 1 ⟨none, 0⟩).set 2 ⟨some 6, 0⟩, phys := [⟨6, lanesOf fun l => BitVec.ofNat 32 (l + 1)⟩] }))).map
    (fun g => (g.vlane false 2 0, g.vlane false 2 1, g.vlane false 2 2)) = some (0x03020100, 0x03020101, 3) := by decide

theorem test_saop_sacas :
    (grp (exec (.saop (mo 2 0 8 .b64 8)) (machM grp0))).map (fun g => g.sreg 2) = some 0x0F0E0D0C0B0A0908 ∧
    ((after (exec (.saop (mo 2 0 8 .b64 8)) (machM grp0))).bind fun t => t.homeLine? 0 0 placeVa).map
      (fun h => (h.bytes.getD 8 9, h.bytes.getD 15 9, h.bytes.getD 16 9)) = some (0, 0, 16) ∧
    ((after (exec (.sacas (mo 2 0 0)) (machM (grp0.setSreg 2 0x03020100)))).bind fun t => t.homeLine? 0 0 placeVa).map
      (fun h => (h.bytes.getD 1 9, h.bytes.getD 4 9)) = some (0, 4) := by decide

theorem test_acas_ahist :
    ((after (exec (.acas (mv 2 0)) (machM gL))).bind fun t => t.homeLine? 0 0 placeVa).map (fun h => h.bytes.getD 4 9) =
      some 4 ∧
    ((after (exec (.ahist (mv 0 0)) (machM gL))).bind fun t => t.homeLine? 0 0 placeVa).map
      (fun h => (h.bytes.getD 4 9, h.bytes.getD 8 9)) = some (5, 9) := by decide

theorem wit_Atomics : ∃ r reqs rs s' l old t,
    (machM grp0).stage1 blkM grd0 0 (.atom false) = some r ∧
    outside r 0xFFFFFFFF (fun _ => uniformOffset grp0 (mo 2 0 8 .b32 8)) 4 = 0 ∧
    misaligned r 0xFFFFFFFF (fun _ => uniformOffset grp0 (mo 2 0 8 .b32 8)) 4 = 0 ∧
    reqs = laneReqs r 0 0xFFFFFFFF (fun _ => uniformOffset grp0 (mo 2 0 8 .b32 8)) 4 ∧
    (machM grp0).Confirms ⟨0, 0, ⟨2, false⟩⟩ path0 r .atomic reqs rs s' ∧
    atomReady s' grp0 (mo 2 0 8 .b32 8) (atomLines rs) ((reqs.take 1).flatMap fun q => q.addrs) = true ∧
    s'.laneAtoms ⟨0, 0, ⟨2, false⟩⟩ (atomLines rs) (fun _ old => atomNew 8 32 old 0) (reqs.take 1) = ([(l, old)], t) ∧
    old = 0x0B0A0908 :=
  ⟨_, _, _, _, _, _, _, rfl, by decide, by decide, rfl, ⟨rfl, rfl⟩, rfl, rfl, rfl⟩

/-- The words of R186, by hand. -/
theorem wit_AtomicOperations : atomNew 0 32 0xFFFFFFFF 2 = 1 ∧ atomNew 1 32 0xFFFFFFFF 2 = 0xFFFFFFFF ∧
    atomNew 4 32 0xFFFFFFFF 2 = 0xFFFFFFFF ∧ atomNew 6 32 0xF0 0xF = 0xFF ∧ atomNew 8 32 5 7 = 7 := by decide

/-- 1 + 1 and 1 + infinity; a NaN beside a number; -0 below +0; two halves of 1 + 1 and 2 + 2 in BF16. -/
theorem wit_AtomicOperations_float : atomNew 9 32 0x3F800000 0x3F800000 = 0x40000000 ∧
    atomNew 9 32 0x3F800000 0xFF800000 = 0xFF800000 ∧ atomNew 9 32 0x7F800000 0xFF800000 = 0x7FC00000 ∧
    atomNew 9 32 0x00000001 0x80000001 = 0 ∧ atomNew 10 32 0x7F800001 5 = 5 ∧ atomNew 11 32 5 0x7F800001 = 5 ∧
    atomNew 10 32 0x80000000 0 = 0x80000000 ∧ atomNew 11 32 0x80000000 0 = 0 ∧
    atomNew 10 32 0x7FC00001 0xFFC00000 = 0x7FC00000 ∧ atomNew 12 32 0x3F804000 0x3F804000 = 0x40004080 := by decide

theorem wit_Atomics_home : lineM.bytes.length = 128 ∧ (placeVa.toNat + 4) / 128 * 128 = placeVa.toNat ∧
    (let t := (machM grp0).atomWrite ⟨0, 0, ⟨2, false⟩⟩ [⟨placeVa.toNat, .mem 0 0 placeVa, none⟩]
       ((List.range 4).map (placeVa.toNat + 4 + ·)) 0x1_0000_0007
     t.atomRead [⟨placeVa.toNat, .mem 0 0 placeVa, none⟩] ((List.range 4).map (placeVa.toNat + 4 + ·)) = 7) := by decide

theorem wit_AccessFaults_atomic :
    exec (.saop (mo 2 3 0)) (machM grp0) = fatal (machM grp0) cur0 grp0 path0 0x11 0xFFFFFFFF 0 ∧
    after (exec (.aop { mv 2 0 with disp := 249 }) (machM gL)) = after (fatal (machM gL) cur0 gL path0 0x10 0x3 0x1000000FD) ∧
    after (exec (.aop { mv 2 0 with disp := 2 }) (machM gL)) = after (fatal (machM gL) cur0 gL path0 0x12 0x3 0x100000006) ∧
    (let g := { gL with sb := [sb0] }
     (grp (exec (.aop { mv 2 0 with ord := .rel, scope := .blk }) (machM g))).bind
       (fun g => (g.path false).bind fun p => p.wait.map fun w => (w.kind, w.reason)) = some (.retry, 12)) := by
  refine ⟨rfl, by decide, by decide, by decide⟩

set_option maxRecDepth 200000 in
/-- CSNAP of 16 counters at `placeVa` into scratch. -/
theorem wit_CounterSnapshot :
    (let g := grp0.setSreg 1 0x0100000000000040
     ((after (exec (.csnap (mo 1 0 0)) (machM g))).bind fun t => t.group? 2).map (fun g => g.sb.map fun e => (e.key, e.bytes.getD 65 9)) =
       some [(.scr 1 0, 1)]) := by decide +kernel

theorem wit_ReleaseAndAcquire : (machM grp0).released { grp0 with sb := [sb0] } .blk = false ∧
    (machM grp0).released grp0 .sys = true ∧
    (let s := { machM grp0 with l1 := [⟨0, .mem 0 0 placeVa, bytes0, fullMarks, 0, none, []⟩,
                                       ⟨0, .mem 0 0 placeVa, bytes0, fullMarks, 0, none, [7]⟩] }
     (s.acquire ⟨0, 0, ⟨2, false⟩⟩ .clu allRegions).l1.map (fun x => x.keep) = [[7]] ∧
     s.acquire ⟨0, 0, ⟨2, false⟩⟩ .blk allRegions = s) := ⟨rfl, rfl, rfl, rfl⟩

/-- A SYNCA, SYNCR, FENCE or SACK at slot 0. -/
def mf (ord : MemOrd) (sc : Scope) : MOps := ⟨0, 0, 0, 0, 8, .b64, sc, ord, .policy, false, false, 0⟩

theorem wit_OrderInstructions :
    exec (.fence (mf .rel .dev)) (machM grp0) = .next ((machM grp0).retired cur0 grp0 path0) ∧
    exec (.fence (mf .rel .dev)) (machM { grp0 with sb := [sb0] }) =
      .next ((machM { grp0 with sb := [sb0] }).waits cur0 { grp0 with sb := [sb0] } path0 .retry 12) ∧
    exec (.sack (mf .rlx .clu)) (machM { grp0 with cnt := ⟨1, 1, 1, 1⟩ }) =
      .next ((machM { grp0 with cnt := ⟨1, 1, 1, 1⟩ }).waits cur0 { grp0 with cnt := ⟨1, 1, 1, 1⟩ } path0 .retry 12) ∧
    exec (.syncr (mf .rel .dev)) (machM grp0) = .next ((machM grp0).retired cur0
      { grp0 with rels := [⟨.mem 0 0 placeVa, 8, .dev⟩] } path0) ∧
    (grp (exec (.synca (mf .acq .dev)) (machM grp0))).map (fun g => (g.path false).map fun p => p.pc) = some (some (placeVa + 8)) :=
  ⟨rfl, rfl, rfl, rfl, by decide⟩

/-- A barrier instruction on block slot 3. -/
def mb (sc : Scope) : MOps := ⟨0, 0, 0, 0, 3, .b8, sc, .rlx, .policy, false, false, 0⟩

/-- The group in a state of block slot 3. -/
def gB (st : BarState) : Group := grp0.setBar .blk 3 st

theorem wit_Barriers :
    exec (.barw (mb .blk)) (mach grp0) = fatal (mach grp0) cur0 grp0 path0 0x50 0xFFFFFFFF 0 ∧
    exec (.bara (mb .blk)) (mach grp0) =
      .next (((mach grp0).arriveBar blk0 grd0 .blk 3).retired cur0 (grp0.setBar .blk 3 .arrived) path0) ∧
    exec (.bara (mb .blk)) (mach (gB .arrived)) = fatal (mach (gB .arrived)) cur0 (gB .arrived) path0 0x50 0xFFFFFFFF 0 ∧
    exec (.barw (mb .blk)) (mach (gB .arrived)) = .next ((mach (gB .arrived)).waits cur0 (gB .arrived) path0 .retry 8) ∧
    exec (.barw (mb .blk)) (mach (gB .expired)) = fatal (mach (gB .expired)) cur0 (gB .expired) path0 0x60 0xFFFFFFFF 0 ∧
    exec (.bara (mb .dev)) (mach grp0) = fatal (mach grp0) cur0 grp0 path0 0x50 0xFFFFFFFF 0 ∧
    after (exec (.bara (mb .blk)) (mach grp2)) = after (fatal (mach grp2) cur0 grp2 pj 0x50 0xFFFF 0) ∧
    (grp (exec (.barw (mb .blk)) (mach (gB .complete)))).map (fun g => g.bars) = some [] :=
  ⟨rfl, rfl, rfl, rfl, rfl, rfl, by decide, by decide⟩

/-- The machine after that arrival. -/
def machB : State := mach (gB .arrived) { blk0 with bars := [⟨3, 1, 0⟩] }

theorem wit_Barriers_phase : (machB.partiesIn (.blk 1 3)).2 = true ∧
    ((after (exec (.barrierPhaseComplete (.blk 1 3)) machB)).bind fun t => t.block? 1).map (fun b => b.bars) =
      some [⟨3, 0, 1⟩] ∧
    (grp (exec (.barrierPhaseComplete (.blk 1 3)) machB)).map (fun g => g.barState .blk 3) = some .complete ∧
    exec (.barrierPhaseComplete (.blk 1 4)) machB = .next machB := ⟨rfl, rfl, rfl, rfl⟩

/-- A gang of two die levels, both of which have arrived at gang slot 5. -/
def grdG (ended : Bool) (heard : List Nat) : Grid :=
  { grd0 with desc := { grd0.desc with gang := true },
              levels := [⟨0, some 0, [], [⟨5, 1, ended, heard, [], 0⟩], [⟨0, some 0, [], ⟨128, 32, 128, 16⟩⟩], none⟩,
                         ⟨1, some 1, [], [⟨5, 1, true, [], [⟨8, 0, 250000, ⟨0, [], false, 1, 0⟩⟩], 0⟩], [], none⟩] }

theorem wit_Barriers_gang :
    (let s := mach (grp0.setBar .gang 5 .arrived) blk0 (grdG false [])
     exec (.barrierPhaseComplete (.gang 0 0 5)) s = .next (s.gangLocal (grdG false []) ⟨0, some 0, [],
       [⟨5, 1, false, [], [], 0⟩], [⟨0, some 0, [], ⟨128, 32, 128, 16⟩⟩], none⟩ ⟨5, 1, false, [], [], 0⟩)) ∧
    (let s := mach (grp0.setBar .gang 5 .arrived) blk0 (grdG true [1])
     (grp (exec (.barrierPhaseComplete (.gang 0 0 5)) s)).map (fun g => g.barState .gang 5) = some .complete) ∧
    (let s := mach (grp0.setBar .gang 5 .arrived) blk0 (grdG true [])
     ((after (exec (.gangRoundMessage 0 0 1 5) s)).bind fun t => t.grid? 0).map
       (fun gr => gr.levels.map fun d => d.gangs.map fun x => x.heard) = some [[[1]], [[]]]) := ⟨rfl, rfl, rfl⟩

/-! ### Witnesses: stores on their way, remote requests, invalidations -/

/-- A group with the entry `sb0` in its buffer, counted everywhere. -/
def gSt : Group := { grp0 with sb := [sb0], cnt := ⟨1, 1, 1, 1⟩ }

/-- That entry on its way. -/
def fl0 : Flight := ⟨9, 2, none, 0, 0, ⟨0, [], false, 1, 0⟩, sb0, false, none⟩

/-- The machine with it on its way, or arrived. -/
def machF (arrived : Bool) : State :=
  { machM { gSt with sb := [] } with flight := [{ fl0 with arrived := arrived }] }

theorem wit_HomeTraffic :
    ((after (exec (.storeBufferDrain 2 9) (machM gSt))).map fun t =>
      (t.flight.map fun f => (f.entry == sb0, f.grp, f.arrived))) = some [(true, 2, false)] ∧
    (grp (exec (.storeBufferDrain 2 9) (machM gSt))).map (fun g => (g.sb, g.cnt)) = some ([], ⟨1, 1, 1, 1⟩) ∧
    (machF false).nextToArrive fl0 = true ∧
    ((after (exec (.homeRequest 9) (machF false))).bind fun t => t.homeLine? 0 0 placeVa).map
      (fun h => (h.bytes.getD 3 9, h.bytes.getD 4 9, h.bytes.getD 7 9, h.bytes.getD 8 9, h.dirty)) =
      some (3, 0xAA, 0xAA, 8, 0xF0) ∧
    exec (.storeAck 9) (machF false) = .next (machF false) ∧
    (grp (exec (.storeAck 9) (machF true))).map (fun g => g.cnt) = some ⟨0, 0, 0, 0⟩ := by
  refine ⟨by decide, by decide, rfl, by decide, rfl, by decide⟩

/-- A read of die 1 for the line of die 0. -/
def rq0 : Request := ⟨7, 1, .path ⟨2, false⟩, 0, 0, .mem 0 0 placeVa, .read, 0, 5, ⟨0, [], false, 1, 0⟩, []⟩

theorem wit_HomeTraffic_remote :
    (let s := { machM grp0 with reqs := [rq0] }
     s.keyBusy rq0.key = false ∧ exec (.homeRequest 7) s = .next { s with
       reqs := [], resps := [⟨7, rq0, .data bytes0 (some lineM.leaf), Transit.start 0 1 lineFlits, false⟩] } ∧
     exec (.deadlineExpiry 7) { s with timebase := 5 } = .next { s with timebase := 5 } ∧
     exec (.deadlineExpiry 7) { s with timebase := 6 } = .next ({ s with timebase := 6, reqs := [] }.answer rq0 .expired)) ∧
    (let s := { mach grp0 with reqs := [{ rq0 with kind := .write }] }
     ((after (exec (.homeRequest 7) s)).map fun t => (t.resps.map fun x => x.res, t.reg 0x10)) = some ([.nak], 1)) ∧
    (let s := { machM grp0 with resps := [⟨7, rq0, .data bytes0 none, ⟨1, [], false, 1, 0⟩, false⟩], timebase := 5,
                                groups := [{ grp0 with slot0 := some { path0 with pend := [⟨7, rq0.key⟩] } }] }
     (after (exec (.memoryResponse 7) s)).map (fun t => t.answerOf 7) = some (some (.data bytes0 none))) := by
  refine ⟨⟨rfl, rfl, rfl, rfl⟩, by decide, by decide⟩

theorem wit_Invalidations :
    ((base.vdev 0).pginv = none ∧ exec (.pginv 0 0x8000000100000000) base =
      .next (base.setVdev { base.vdev 0 with pginv := some 0x8000000100000000 })) ∧
    (let s := (machM grp0).setVdev { base.vdev 0 with pginv := some 0x8000000100000000 }
     ((after (exec (.pginvComplete 0) s)).map fun t => (t.home, (t.vdev 0).pginv)) = some ([], none)) ∧
    (let s := { mach grp0 with atc := [⟨0, 5, 9, true, true⟩, ⟨0, 6, 9, true, true⟩] }
     ((after (exec (.atsInvalidation 0 4 1) s)).map fun t => t.atc.map fun e => e.vpn) = some [6]) ∧
    exec (.pageWalk 0 0 placeVa) (machM grp0) = .next (machM grp0) := by
  refine ⟨⟨rfl, rfl⟩, by decide, by decide, rfl⟩

/-- DCF's regions: two of 2,048 bytes of global memory. -/
def blkD : Block :=
  { blk0 with win := [⟨0, 0, placeVa.setWidth 64, 2048, 0, 7, 0, false, 0, 0⟩, ⟨1, 1, 0x200000000, 2048, 0, 7, 0, false, 0, 0⟩] }

/-- The same with room for three slabs. -/
def blkD4 : Block :=
  { blk0 with win := [⟨0, 0, placeVa.setWidth 64, 8192, 0, 7, 0, false, 0, 0⟩, ⟨1, 1, 0x200000000, 8192, 0, 7, 0, false, 0, 0⟩] }

/-- A source offset in s2, a target in s1. -/
def gD (src tgt : DWord) : Group := (grp0.setSreg 2 src).setSreg 1 tgt

/-- A DCF of one slab from slot 0 to slot 1. -/
def od : MOps := ⟨1, 0, 0, 0, 1, .b8, .grp, .rlx, .policy, false, false, 0⟩

theorem wit_Invalidations_dcf :
    exec (.dcf { od with h := 3 }) (mach grp0 blkD) = fatal (mach grp0 blkD) cur0 grp0 path0 0x11 0xFFFFFFFF 0 ∧
    after (exec (.dcf { od with disp := 2 }) (mach (grp0.setSreg 1 0x0100000000000000) blkD)) =
      after (fatal (mach (grp0.setSreg 1 0x0100000000000000) blkD) cur0 (grp0.setSreg 1 0x0100000000000000) path0 0x10
        0xFFFFFFFF 0x100000000) ∧
    after (exec (.dcf od) (mach (grp0.setSreg 1 0x0100000000000000) blkD)) =
      some ((mach (grp0.setSreg 1 0x0100000000000000) blkD).waits cur0 (grp0.setSreg 1 0x0100000000000000) path0 (.dcf od) 12) ∧
    after (exec (.dcf od) (mach (grp0.setSreg 1 0x0300000000000000) blkD)) =
      after (fatal (mach (grp0.setSreg 1 0x0300000000000000) blkD) cur0 (grp0.setSreg 1 0x0300000000000000) path0 0x11
        0xFFFFFFFF 0) ∧
    after (exec (.dcf od) (mach (grp0.setSreg 1 0x0100000000000800) blkD)) =
      after (fatal (mach (grp0.setSreg 1 0x0100000000000800) blkD) cur0 (grp0.setSreg 1 0x0100000000000800) path0 0x10
        0xFFFFFFFF 0x200000800) ∧
    after (exec (.dcf { od with a := 2 }) (mach (gD 0x40 0x0100000000000000) blkD4)) =
      after (fatal (mach (gD 0x40 0x0100000000000000) blkD4) cur0 (gD 0x40 0x0100000000000000) path0 0x12
        0xFFFFFFFF 0x100000040) ∧
    after (exec (.dcf { od with a := 2 }) (mach (gD 0 0x0100000000000080) blkD4)) =
      after (fatal (mach (gD 0 0x0100000000000080) blkD4) cur0 (gD 0 0x0100000000000080) path0 0x12
        0xFFFFFFFF 0x200000080) ∧
    (let g := { grp0.setSreg 1 0x0100000000000000 with sb := [sb0] }
     after (exec (.dcf od) (mach g blkD)) = some ((mach g blkD).waits cur0 g path0 .retry 12)) ∧
    (let g := { grp0.setSreg 1 0x0100000000000000 with
                slot0 := some { path0 with wait := some ⟨.dcf od, 12, 0, placeVa + 8, true⟩ } }
     (grp (exec (.dcfWritebackDone ⟨2, false⟩) { mach g blkD with home := base.home })).map
       (fun g => (g.path false).map fun p => (p.pc, p.wait)) = some (some (placeVa + 8, none))) := by
  refine ⟨rfl, by decide, by decide, by decide, by decide, by decide, by decide, by decide, by decide⟩

/-! ### Witnesses: the Reeve -/

/-- A block that claims two units of tile and holds one. -/
def blkR : Block := { blk0 with claim := ⟨8, 2, 0, 0⟩, alloc := ⟨8, 1, 0, 0⟩ }

theorem wit_Claims :
    exec (.claim .tile { o3 with b := .lit 0 }) (mach grp0 blkR) = fatal (mach grp0 blkR) cur0 grp0 path0 0x30 0xFFFFFFFF 0 ∧
    exec (.claim .tile { o3 with b := .lit 1 }) (mach grp0 blkR) = .next ((((mach grp0 blkR).setBlock
      { blkR with claim := ⟨8, 1, 0, 0⟩ }).retestAll 0).retired cur0 grp0 path0) ∧
    exec (.claim .tile { o3 with b := .lit 2 }) (mach grp0 blkR) = .next ((mach grp0 blkR).retired cur0 grp0 path0) ∧
    exec (.claim .tile { o3 with b := .lit 3 }) (mach grp0 { blkR with acqd := [.tile] }) =
      fatal (mach grp0 { blkR with acqd := [.tile] }) cur0 grp0 path0 0x31 0xFFFFFFFF 0 ∧
    exec (.acq .tile { o3 with b := .lit 0 }) (mach grp0 blkR) =
      .next (((mach grp0 blkR).setBlock (blkR.markAcq .tile)).retired cur0 grp0 path0) ∧
    exec (.acq .reg { o3 with b := .lit 1 }) (mach grp0 blkR) = fatal (mach grp0 blkR) cur0 grp0 path0 0x30 0xFFFFFFFF 0 ∧
    exec (.acq .tile { o3 with b := .lit 1 }) (mach grp0 blkR) = .next (({ mach grp0 blkR with nextId := 4 }.setCluster
      { (mach grp0 blkR).cluster 0 with queue := [⟨3, ⟨2, false⟩, 1, .tile, 1, false, false, 0xFFFFFFFF, 0, false⟩] }).waits
        cur0 grp0 path0 (.grant 3 (.acq .tile { o3 with b := .lit 1 })) 9) ∧
    (let p := { path0 with granted := some ⟨true, .reg, 1, false, 0xFFFFFFFF⟩ }
     let g := { grp0 with regn := 56, slot0 := some p }
     exec (.acq .reg { o3 with b := .lit 1 }) (mach g blkR) = .next (((mach g blkR).setBlock (blkR.takeUp .reg 1)).retired cur0 { g with regn := 64 } p)) :=
  ⟨rfl, rfl, rfl, rfl, rfl, rfl, rfl, rfl⟩

theorem wit_Claims_releases :
    exec (.rel .tile { o3 with b := .lit 1 }) (mach grp0 blkR) =
      .next ((mach grp0 blkR).waits cur0 grp0 path0 (.rel .tile 1 { o3 with b := .lit 1 }) 10) ∧
    exec (.rel .tile { o3 with b := .lit 2 }) (mach grp0 blkR) = fatal (mach grp0 blkR) cur0 grp0 path0 0x32 0xFFFFFFFF 0 ∧
    exec (.rel .reg { o3 with b := .lit 8 }) (mach grp0 blkR) = fatal (mach grp0 blkR) cur0 grp0 path0 0x32 0xFFFFFFFF 0 ∧
    (grp (exec (.rel .reg { o3 with b := .lit 7 }) (mach grp0 blkR))).map (fun g => g.regn) = some 8 ∧
    exec (.rstat .tile .claim o3) (mach grp0 blkR) = .next ((mach grp0 blkR).retired cur0 ((grp0.setSreg 1 2).setFlags 0) path0) ∧
    (let g := { grp0 with slot0 := some { path0 with wait := some ⟨.rel .tile 1 { o3 with b := .lit 1 }, 10, 0, placeVa + 8, true⟩ } }
     (mach g blkR).unitsBusy blkR .tile 0 = false ∧
     ((after (exec (.relTakesEffect ⟨2, false⟩) (mach g blkR))).bind fun t => t.block? 1).map (fun b => b.alloc) =
       some ⟨8, 0, 0, 0⟩ ∧
     exec (.relTakesEffect ⟨2, false⟩) (mach g { blkR with alloc := ⟨8, 0, 0, 0⟩ }) =
       fatal (mach g { blkR with alloc := ⟨8, 0, 0, 0⟩ }) cur0 g
         { path0 with wait := some ⟨.rel .tile 1 { o3 with b := .lit 1 }, 10, 0, placeVa + 8, true⟩ } 0x32 0xFFFFFFFF 0) :=
  ⟨rfl, rfl, rfl, rfl, rfl, rfl, rfl, rfl⟩

/-- A request for tile units in the queue of cluster 0. -/
def rv (amt : Nat) : ReeveReq := ⟨3, ⟨2, false⟩, 1, .tile, amt, false, false, 0xFFFFFFFF, 0, false⟩

/-- The machine with that request. -/
def machR (amt : Nat) : State :=
  let s := mach { grp0 with slot0 := some { path0 with wait := some ⟨.grant 3 (.acq .tile o3), 9, 0, placeVa + 8, true⟩ } } blkR
  s.setCluster { s.cluster 0 with queue := [rv amt] }

theorem wit_ReeveTests :
    (machR 1).decide 0 (rv 1) (blkR.markAcq .tile) = .grant ∧ ((machR 1).cluster 0).freezeDue = false ∧
    ((after (exec (.reeveTest 0) (machR 1))).bind fun t => t.block? 1).map (fun b => (b.alloc, b.pend)) =
      some (⟨8, 1, 0, 0⟩, ⟨0, 1, 0, 0⟩) ∧
    (machR 2).decide 0 (rv 2) (blkR.markAcq .tile) = .trap ∧
    (grp (exec (.reeveTest 0) (machR 2))).map (fun g => (g.phase, g.trap.cause)) = some (.frozen, 0x30) ∧
    (let k := { (machR 1).cluster 0 with queue := [rv 1], deferred := [{ rv 1 with id := 1, passed := 64 }] }
     let s := (machR 1).setCluster k
     exec (.reeveTest 0) s = .next s ∧
     ((after (exec (.reeveFreeze 0 1) s)).map fun t => (t.cluster 0).deferred.map fun r => r.frozen) = some [true]) := by
  refine ⟨by decide, rfl, by decide, by decide, by decide, rfl, by decide⟩

/-- The machine with that request deferred and due for a test again. -/
def machRd (amt : Nat) (others : List ReeveReq := []) : State :=
  let s := machR amt
  s.setCluster { s.cluster 0 with queue := [], deferred := rv amt :: others, retest := [3, 4] }

theorem wit_ReeveTests_again :
    (machRd 1).decide 0 (rv 1) (blkR.markAcq .tile) = .grant ∧
    ((after (exec (.reeveTest 0) (machRd 1))).map fun t => ((t.cluster 0).deferred, (t.cluster 0).retest)) =
      some ([], [4]) ∧
    (let s := (machR 1).setCluster { (machR 1).cluster 0 with queue := [], retest := [5] }
     exec (.reeveTest 0) s = .next (s.setCluster { s.cluster 0 with retest := [] })) := by
  refine ⟨by decide, by decide, rfl⟩

/-- A request of the same type that stands frozen: with a need beyond what the cluster has left, the new request is
deferred without a test; with one that fits, it is tested; a frozen one of another type does not hold it. -/
theorem wit_ReeveTests_frozen :
    (let b := { blkR with claim := ⟨8, 4000, 0, 0⟩ }
     let s := (mach grp0 b).setCluster { (mach grp0 b).cluster 0 with deferred := [{ rv 1 with id := 1, frozen := true }] }
     let hs := (s.residents 0).map Block.holding
     b.holding.need.le (s.availOf 0 hs) = false ∧ s.decide 0 (rv 1) b = .defer) ∧
    (let s := machRd 1 [{ rv 1 with id := 1, frozen := true }]
     let hs := (s.residents 0).map Block.holding
     (blkR.markAcq .tile).holding.need.le (s.availOf 0 hs) = true ∧
     (blkR.markAcq .tile).holding.need.le (s.davailOf 0 hs (blkR.markAcq .tile)) = true ∧
     s.decide 0 (rv 1) (blkR.markAcq .tile) = .grant) ∧
    (let s := machRd 1 [{ rv 1 with id := 1, ty := .scr, frozen := true }]
     s.decide 0 (rv 1) (blkR.markAcq .tile) = .grant) := by
  refine ⟨by decide, by decide, by decide⟩
/-! ### Witnesses: copies, the array, device-side work -/

/-- The block of `blkM` with two Carter channels and two units of tile. -/
def blkC : Block := { blkM with alloc := ⟨8, 2, 1, 2⟩, claim := ⟨8, 2, 1, 2⟩ }

/-- A group whose s2 names slot 1, whose s4 holds a length. -/
def gC (len : DWord) : Group := (grp0.setSreg 2 0x0100000000000000).setSreg 4 len

/-- The machine for copies. -/
def machC (g : Group) (b : Block := blkC) : State := { mach g b with home := [lineM] }

theorem wit_Copies :
    after (exec (.copy .mov 2 r0) (machC (gC 64))) = after (fatal (machC (gC 64)) cur0 (gC 64) path0 0x30 0xFFFFFFFF 0) ∧
    after (exec (.copy .mov 1 r0) (machC (gC 0x40000001))) =
      after (fatal (machC (gC 0x40000001)) cur0 (gC 0x40000001) path0 0x01 0xFFFFFFFF 0) ∧
    after (exec (.copy .fadd 1 r0) (machC (gC 66))) = after (fatal (machC (gC 66)) cur0 (gC 66) path0 0x12 0xFFFFFFFF 0) ∧
    (grp (exec (.copy .mov 1 r0) (machC (gC 0)))).map (fun g => (g.sreg 1, g.copies, g.lastOp)) = some (0, [], some 3) ∧
    (grp (exec (.copy .mov 1 r0) (machC (gC 64)))).map (fun g => (g.sreg 1 != 0, g.copies, g.lastOp)) =
      some (true, [3], some 3) ∧
    ((after (exec (.copy .mov 1 r0) (machC (gC 64)))).bind fun t => t.block? 1).map
      (fun b => (b.chan 1).queue.map fun x => (x.id, x.len, x.state)) = some [(3, 64, .queued)] ∧
    exec (.qfence 4 { o3 with d := 0 }) (machC grp0) = fatal (machC grp0) cur0 grp0 path0 0x30 0xFFFFFFFF 0 := by
  refine ⟨by decide, by decide, by decide, by decide, by decide, by decide, rfl⟩

/-- A copy of 64 bytes from global memory to scratch, promised by 100. -/
def op0 : CarterOp :=
  ⟨3, 2, placeVa + 4, .mov, ⟨⟨1, 1, 0, 256, 1, 7, 0, false, 0, 0⟩, 0⟩, ⟨⟨0, 0, placeVa.setWidth 64, 256, 0, 7, 0, false, 0, 0⟩, 64⟩,
    64, 100, .queued, 0, 0, [], [], []⟩

/-- The block with that copy on channel 1. -/
def blkO (x : CarterOp) (frozen : Bool := false) : Block := { blkC with chans := [⟨1, [x], frozen, []⟩] }

/-- Its group. -/
def gO : Group := { grp0 with copies := [3], lastOp := some 3 }

theorem wit_Copies_fences :
    ((after (exec (.qfence 3 o3) (machC gO (blkO op0)))).bind fun t => t.block? 1).map
      (fun b => ((b.chan 0).after, (b.chan 1).after)) = some ([3], [3]) ∧
    (grp (exec (.cpoll 3 o3) (machC gO (blkO op0 true)))).map (fun g => g.sreg 1) = some 0x20002 ∧
    (grp (exec (.cpoll 3 o3) (machC gO (blkO op0)))).map (fun g => g.sreg 1) = some 2 := by decide

theorem wit_Copies_sleept :
    (let g := gO.setSreg 2 100
     after (exec (.sleept o3) (machC g (blkO op0))) = some ((machC g (blkO op0)).waits cur0 g path0 (.sleept 100 o3) 10) ∧
     (let s := { machC g (blkO op0) with timebase := 100 }
      (blkO op0).overdue 2 100 = [(3, 1)] ∧
      after (exec (.sleept o3) s) = after (deliver s cur0 g path0 0x40 0xFFFFFFFF 0x101 path0.pc path0.hdr [3])) ∧
     after (exec (.sleept o3) { machC g with timebase := 100 }) = some ({ machC g with timebase := 100 }.retired cur0 g path0)) ∧
    (let g := gW (.sleept 5 o3)
     exec (.sleeptWake ⟨2, false⟩) { machC g with timebase := 4 } = .next { machC g with timebase := 4 } ∧
     (grp (exec (.sleeptWake ⟨2, false⟩) { machC g with timebase := 5 })).map (fun g => (g.path false).map fun p => (p.pc, p.wait)) =
       some (some (placeVa + 8, none))) := by
  refine ⟨⟨by decide, ⟨by decide, by decide⟩, by decide⟩, rfl, by decide⟩

theorem wit_Copies_ranges :
    (let g := (gC 64).setSreg 2 0x01000000000000E0
     after (exec (.copy .mov 1 r0) (machC g)) = after (fatal (machC g) cur0 g path0 0x10 0xFFFFFFFF 0)) ∧
    (let g := (gC 64).setSreg 3 0xE0
     after (exec (.copy .mov 1 r0) (machC g)) = after (fatal (machC g) cur0 g path0 0x10 0xFFFFFFFF 0x1000000E0)) ∧
    (let g := (gC 64).setSreg 2 0x0500000000000000
     after (exec (.copy .mov 1 r0) (machC g)) = after (fatal (machC g) cur0 g path0 0x11 0xFFFFFFFF 0)) ∧
    (let g := { gC 64 with sb := [sb0] }
     after (exec (.copy .mov 1 r0) (machC g)) = some ((machC g).waits cur0 g path0 .retry 12)) ∧
    (decodeWords [0xC9000000, 0]).toOption = none ∧ (decodeWords [0xCA000000, 0xFFFF0000]).toOption = none := by
  refine ⟨by decide, by decide, by decide, by decide, rfl, rfl⟩

theorem wit_CarterOperations :
    exec (.carterOperationStart 1 1) (machC gO (blkO op0 true)) = .next (machC gO (blkO op0 true)) ∧
    ((after (exec (.carterOperationStart 1 1) (machC gO (blkO op0)))).bind fun t => t.block? 1).map
      (fun b => (b.chan 1).queue.map fun x => (x.rd, x.buf.getD 1 0, x.state)) = some [(64, 65, .moving)] ∧
    (let x := { op0 with state := .moving, rd := 64, buf := bytes0.drop 64 }
     ((after (exec (.carterOperationStart 1 1) (machC gO (blkO x)))).bind fun t => t.block? 1).map
       (fun b => ((b.chan 1).queue.map fun x => x.wr, Memory.read b.scr 1)) = some ([64], 65) ∧
     exec (.carterOperationComplete 1 1) (machC gO (blkO x)) = .next (machC gO (blkO x))) ∧
    (let x := { op0 with state := .moving, rd := 64, wr := 64 }
     (grp (exec (.carterOperationComplete 1 1) (machC gO (blkO x)))).map (fun g => (g.copies, g.done)) =
       some ([], [⟨3, 1, 100, op0.dst, 64⟩])) := by
  refine ⟨rfl, by decide, ⟨by decide, rfl⟩, by decide⟩

/-- Operands of a matrix instruction at slot `h`: tile indices 0 (accumulator) and 2 (B). -/
def mx (h : BitVec 8) : AOps := ⟨1, 0, h, 0, 0, 2, 1, false, false, false, false⟩

theorem wit_MatrixHandOver :
    ((after (exec (.mma { mx 1 with vi := 0 }) (machC grp0))).map fun t => (t.core 0).array.map fun x =>
      (x.id, x.grp, x.lanes, x.state, x.op == .mma 2 false false 0 2 (List.replicate 32 (some 0)))) =
      some [(3, 2, 0xFFFFFFFF, .queued, true)] ∧
    ((after (exec (.copym { mx 1 with vi := 0 }) (machC gO (blkO op0)))).map fun t => (t.core 0).array.map fun x => x.state) =
      some [.bound 3] ∧
    exec (.mma { mx 3 with vi := 0 }) (machC grp0) = fatal (machC grp0) cur0 grp0 path0 0x11 0xFFFFFFFF 0 ∧
    exec (.mld { mx 0 with vi := 0 }) (machC grp0) = fatal (machC grp0) cur0 grp0 path0 0x10 0xFFFFFFFF 0x100000000 ∧
    exec (.mzero { mx 0 with acc := 4 }) (machC grp0) = fatal (machC grp0) cur0 grp0 path0 0x10 0xFFFFFFFF 0 ∧
    ((after (exec (.mzero { mx 0 with acc := 3 }) (machC grp0))).map fun t => (t.core 0).array.map fun x => x.op) =
      some [.mzero 3] := by
  refine ⟨by decide, by decide, rfl, rfl, rfl, by decide⟩

/-- What MLD and MST ask before their lines are confirmed, for the block's own scratch. -/
theorem wit_MatrixHandOver_moves :
    (let h : Handle := ⟨1, 1, 0, 16384, 1, 7, 0, false, 0, 0⟩
     let b := { blkC with win := [h] }
     b.slotAt (mx 1).ha = some h ∧
     4096 * (mx 1).bt.toNat + 8448 ≤ 16384 * b.alloc.tile ∧ 8192 * (mx 1).acc.toNat + 8192 ≤ 16384 * b.alloc.tile ∧
     (mach grp0 b).released grp0 .blk = true ∧ ∃ r, (mach grp0 b).regionOf b grd0 h = some r ∧
       r.inside 0 8448 = true ∧ r.inside 0 8192 = true ∧ r.addr 0 % 64 = 0) := by
  exact ⟨rfl, by decide, by decide, rfl, _, rfl, rfl, rfl, rfl⟩

theorem wit_MatrixHandOver_batches :
    (let g := { grp0 with openOps := [7] }
     (grp (exec (.mbatch o3) (machC g))).map (fun g => (g.sreg 1, g.batch, g.openOps, g.batches)) = some (1, 1, [], [⟨1, [7]⟩])) ∧
    (let g := { grp0 with batch := 1, batches := [⟨1, [7]⟩] }
     exec (.mwait { o3 with b := .lit 1 }) (machC g) = .next ((machC g).waits cur0 g path0 .retry 11) ∧
     exec (.mwait { o3 with b := .lit 0 }) (machC g) = .next ((machC g).retired cur0 g path0)) ∧
    popBatches [⟨1, []⟩, ⟨2, [7]⟩, ⟨3, []⟩] = [⟨2, [7]⟩, ⟨3, []⟩] := by
  refine ⟨by decide, ⟨rfl, rfl⟩, rfl⟩

/-- An MZERO of accumulator tile 0 that runs, and an MMA without rows. -/
def core0 (ops : List ArrayOp) : Core := { base.core 0 with array := ops, awake := true, idle := 0, gate := 2400 }

/-- The MZERO. -/
def mz (st : MatState) : ArrayOp := ⟨3, 2, 1, placeVa + 4, 0xFFFFFFFF, .mzero 0, st⟩

/-- The MMA, without a row. -/
def mm (st : MatState) : ArrayOp := ⟨3, 2, 1, placeVa + 4, 0xFFFFFFFF, .mma 2 false true 0 2 (List.replicate 32 none), st⟩

/-- The machine with them at core 0, and a byte in the tile. -/
def machX (k : Core) : State := (machC grp0 { blkC with tile := [(5, 1), (8192, 2)] }).setCore k

set_option maxRecDepth 400000 in
theorem wit_ArrayOperations :
    ((after (exec (.gleanerGather 0) (machX (core0 [mm .queued])))).map fun t => (t.core 0).array.map fun x => x.state) =
      some [.gathered (List.replicate 32 none)] ∧
    exec (.arrayOperationStart 0) (machX (core0 [mm .queued])) = .next (machX (core0 [mm .queued])) ∧
    ((after (exec (.arrayOperationStart 0) (machX (core0 [mz .queued])))).map fun t => (t.core 0).array.map fun x => x.state) =
      some [.running []] ∧
    (let k := { core0 [mm (.gathered (List.replicate 32 none))] with awake := false, idle := 119 }
     exec (.arrayOperationStart 0) (machX k) = .next (machX k)) ∧
    exec (.arrayOperationComplete 0) (machX (core0 [mz .queued])) = .next (machX (core0 [mz .queued])) ∧
    ((after (exec (.arrayOperationComplete 0) (machX (core0 [mz (.running [])])))).map fun t => (t.core 0).array) = some [] ∧
    exec (.subarrayGate 0) (machX (core0 [])) = .next (machX (core0 [])) ∧
    ((after (exec (.subarrayGate 0) (machX { core0 [] with idle := 2400 }))).map fun t => (t.core 0).awake) = some false := by
  refine ⟨rfl, rfl, rfl, rfl, rfl, rfl, rfl, rfl⟩

/-- A die level with a feed queue. -/
def grdF (recs : List (List Word)) (closed : Bool) : Grid :=
  { grd0 with levels := grd0.levels.map fun (d : DieLevel) => { d with feed := some ⟨recs, closed, []⟩ } }

theorem wit_DeviceQueues :
    exec (.wpop o3) (mach grp0) = fatal (mach grp0) cur0 grp0 path0 0x11 0xFFFFFFFF 0 ∧
    (grp (exec (.wpop o3) (mach grp0 blk0 (grdF [[5, 6]] false)))).map (fun g =>
      (g.vlane false 1 0, g.vlane false 1 1, g.vlane false 1 2, g.vlane false 1 31)) = some (5, 6, 0, 0) ∧
    (grp (exec (.wpop o3) (mach grp0 blk0 (grdF [] true)))).map (fun g => (g.vlane false 1 0, g.vlane false 1 31)) = some (0, 2) ∧
    (grp (exec (.wpop o3) (mach grp0 blk0 (grdF [] false)))).map (fun g => g.vlane false 1 31) = some 1 ∧
    (let g := grp0.setSreg 2 9
     (grp (exec (.wpop o3) (mach g blk0 (grdF [] false)))).bind (fun g => (g.path false).bind fun p => p.wait.map fun w =>
       (w.kind, w.reason)) = some (.wpop (some 9) o3, 10)) ∧
    (let g := gW (.wpop (some 1) o3)
     exec (.wpopWaitExpiry ⟨2, false⟩) (mach g blk0 (grdF [] false)) = .next (mach g blk0 (grdF [] false)) ∧
     (grp (exec (.wpopWaitExpiry ⟨2, false⟩) { mach g blk0 (grdF [] false) with timebase := 1 })).map
       (fun g => g.vlane false 1 31) = some 1) := by
  refine ⟨rfl, by decide, by decide, by decide, by decide, rfl, by decide⟩

/-- A machine with queue 5 enabled and open to ENQ, its ring on the line at `placeVa`. -/
def machQ (g : Group) : State := ((machM g).setReg (queueKey 5 0) 0xC000000000000000).setReg (queueKey 5 8) 0x100000000

set_option maxRecDepth 400000 in
theorem wit_DeviceQueues_enq :
    (grp (exec (.enq { o3 with b := .reg 0 }) (machM grp0))).map (fun g => (g.phase, g.trap.cause)) = some (.frozen, 0x81) ∧
    (let g := grp0.setSreg 2 5
     ((after (exec (.enq { o3 with b := .reg 0 }) (machQ g))).map fun t => (t.reg (queueKey 5 0x20),
       (t.homeLine? 0 0 placeVa).map fun h => h.bytes.getD 68 9)) = some (1, some 1)) := by decide +kernel

theorem wit_DeviceQueues_signals :
    (let g := grp0.setSreg 2 8
     (grp (exec (.sigop .add .dev false { o3 with b := .lit 1 }) (machM g))).map (fun g => g.sreg 1) = some 0x0F0E0D0C0B0A0908 ∧
     ((after (exec (.sigop .add .dev false { o3 with b := .lit 1 }) (machM g))).bind fun t => t.homeLine? 0 0 placeVa).map
       (fun h => (h.bytes.getD 8 0, h.bytes.getD 9 0)) = some (9, 9) ∧
     (grp (exec (.sigwait .ge .dev { o3 with b := .lit 1 }) (machM g))).bind (fun g => (g.path false).map fun p => (p.pc, p.wait)) =
       some (placeVa + 8, none) ∧
     (grp (exec (.sigwait .le .dev { o3 with b := .lit 1 }) (machM g))).bind (fun g => (g.path false).bind fun p => p.wait.map fun w =>
       (w.kind, w.reason)) = some (.retry, 10)) ∧
    after (exec (.sigop .set .dev false o3) (machM (grp0.setSreg 2 4))) =
      after (fatal (((machM (grp0.setSreg 2 4)))) cur0 (grp0.setSreg 2 4) path0 0x12 0xFFFFFFFF 0x100000004) := by
  refine ⟨⟨by decide, by decide, by decide, by decide⟩, by decide⟩

/-! ### Witnesses: dispatch, residency, stops, halts -/

/-- Core 0 with a path passed over for `n` cycles. -/
def corP (n : Nat) : Core := { base.core 0 with picks := [⟨⟨2, false⟩, 5, n⟩, ⟨⟨9, false⟩, 4, 2⟩] }

/-- The machine with that core and the first path `p`. -/
def machP (k : Core) (p : Path := path0) : State := (mach { grp0 with slot0 := some p }).setCore k

theorem wit_CoreDispatch :
    (let s := machP (corP 8)
     (s.core 0).pinDue = true ∧ exec (.coreDispatchCycle 0) s = .next s ∧
     ((after (exec (.passedOverPin 0) s)).map fun t => (t.core 0).pinned) = some (some ⟨2, false⟩)) ∧
    (let s := machP (corP 7)
     (s.core 0).pinDue = false ∧ exec (.passedOverPin 0) s = .next s ∧
     ((after (exec (.coreDispatchCycle 0) s)).map fun t => (t.agenda, (t.core 0).cycle, (t.core 0).pinned)) =
       some ([.retire ⟨2, false⟩], 1, none)) ∧
    ((after (exec (.agePriority ⟨2, false⟩) (machP (corP 0) { path0 with age := 4096 }))).map fun t =>
      ((t.core 0).pick ⟨2, false⟩).last) = some 0 ∧
    exec (.agePriority ⟨2, false⟩) (machP (corP 0) { path0 with age := 4095 }) =
      .next (machP (corP 0) { path0 with age := 4095 }) := by
  refine ⟨⟨rfl, rfl, by decide⟩, ⟨rfl, rfl, by decide⟩, by decide, rfl⟩

/-- Arbiter 1, with shares of 512 millitokens a cycle up to 2 tokens for virtual devices 1 and 2. -/
def machTok (b1 b2 : Nat) (l1 : Bool := false) : State :=
  let s := (base.setReg (vdKey 1 0x48) 0x200000200).setReg (vdKey 2 0x48) 0x200000200
  { s with vds := base.vds ++ [{ base.vdev 1 with vd := 1 }, { base.vdev 2 with vd := 2 }],
           buckets := [⟨1, 0, 1, b1, 0, l1⟩, ⟨1, 0, 2, b2, 0, false⟩] }

/-- What a grant leaves of the two buckets. -/
def buckets (o : Host.Outcome State Fault Refusal) : Option (List (Nat × Bool)) :=
  (after o).map fun t => [1, 2].map fun v => ((t.bucket 1 0 v).b, (t.bucket 1 0 v).lent)

theorem wit_TokenGrants :
    (base.shareRate 1 1 = 0 ∧ (machTok 0 0).shareRate 1 1 = 512 ∧ (machTok 0 0).shareDepth 1 1 = 2) ∧
    buckets (exec (.tokenArbitration 1 0 []) (machTok 1800 100)) = some [(2048, false), (612, false)] ∧
    buckets (exec (.tokenArbitration 1 0 [2, 1]) (machTok 1000 1000 true)) = some [(488, false), (1512, false)] ∧
    buckets (exec (.tokenArbitration 1 0 [1, 2]) (machTok 0 600)) = some [(512, false), (88, false)] ∧
    buckets (exec (.tokenArbitration 1 0 [2]) (machTok 900 0)) = some [(1412, true), (512, false)] := by
  refine ⟨by decide, by decide, by decide, by decide, by decide⟩

/-- A read of die 2's memory for die 0, of two flits. -/
def reqX (n : Nat) (tr : Transit) : Request := ⟨n, 0, .op 7, 1, 2, .mem 2 1 placeVa, .read, 0, 999, tr, []⟩

theorem wit_TokenGrants_cross :
    (let q := reqX 4 (Transit.start 0 2 2)
     let s := { base with reqs := [q, reqX 5 (Transit.start 0 1 1)] }
     q.tr.waitsAt 0 1 = true ∧ q.tr.diag = true ∧ s.crossings 0 1 = [⟨4, 1, true, 2⟩, ⟨5, 1, false, 1⟩] ∧
     s.cross 1 1 = s.hopMessage 4 ∧ (s.hopMessage 4).reqs.map (fun q => (q.tr.at', q.tr.way, q.tr.left)) =
       [(0, [1, 2], 1), (0, [1], 1)]) ∧
    (let q := reqX 5 (Transit.start 0 1 1)
     let s := { base with reqs := [q] }
     q.tr.waitsAt 0 1 = true ∧ s.cross 1 1 = s.hopMessage 5 ∧
     (s.hopMessage 5).reqs.map (fun q => (q.tr.at', q.tr.way, q.tr.left)) = [(1, [], 1)]) := by
  refine ⟨⟨rfl, rfl, rfl, rfl, rfl⟩, ⟨rfl, rfl, rfl⟩⟩

/-- The block ready, its grid's levels nowhere yet. -/
def blkRdy : Block := { blk0 with phase := .ready, alloc := ⟨0, 0, 0, 0⟩ }

/-- The grid, its claim `c`. -/
def grdR (c : Units) : Grid :=
  { grd0 with desc := { grd0.desc with claim := c },
              levels := [⟨0, none, [], [], [⟨0, none, [], ⟨128, 32, 128, 16⟩⟩], none⟩] }

/-- The machine with the block waiting for a place; the group is not there yet. -/
def machRdy (c : Units := ⟨8, 0, 0, 0⟩) : State :=
  { base with blocks := [{ blkRdy with claim := c }], grids := [grdR c], groups := [], parts := [⟨0, 1, 1, 1, 1⟩] }


/-- The block and where the request puts it. -/
def adm (c : Units := ⟨8, 0, 0, 0⟩) : List (Block × BitVec 9) := [({ blkRdy with claim := c }, 0)]

theorem wit_Admission :
    machRdy.grid? 0 = some (grdR ⟨8, 0, 0, 0⟩) ∧ machRdy.refreshCaps (grdR ⟨8, 0, 0, 0⟩) 0 0 = (machRdy, grdR ⟨8, 0, 0, 0⟩) ∧
    machRdy.waitingBlocks (grdR ⟨8, 0, 0, 0⟩) 0 0 = [blkRdy] ∧ machRdy.mayOffer (grdR ⟨8, 0, 0, 0⟩) 0 0 0 = true ∧
    (machRdy.claimsFit (grdR ⟨8, 0, 0, 0⟩) 0 adm = true ∧ machRdy.placesFit adm = true ∧
      machRdy.testLevel (grdR ⟨8, 0, 0, 0⟩) 0 ((machRdy.residents 0).map Block.holding) adm = true ∧
      ((after (exec (.admission 0 0 0 0 [0]) machRdy)).bind fun t => t.block? 1).map (fun b => (b.phase, b.alloc, b.stop)) =
        some (.resident, ⟨8, 0, 0, 0⟩, none)) ∧
    exec (.admission 0 0 0 0 []) machRdy = .next machRdy ∧ exec (.admission 0 0 0 1 [0]) machRdy = .next machRdy ∧
    ((machRdy ⟨8, 33, 0, 0⟩).claimsFit (grdR ⟨8, 33, 0, 0⟩) 0 (adm ⟨8, 33, 0, 0⟩) = false ∧
      exec (.admission 0 0 0 0 [0]) (machRdy ⟨8, 33, 0, 0⟩) =
        .next ((machRdy ⟨8, 33, 0, 0⟩).failLaunch (grdR ⟨8, 33, 0, 0⟩))) := by
  refine ⟨rfl, rfl, rfl, rfl, ⟨rfl, rfl, rfl, by decide⟩, rfl, rfl, rfl, rfl⟩

/-- The offer of the waiting block's grid. -/
def offer0 : Offer := ⟨0, [(0, 0)], 1, [15, 0], 1⟩

theorem wit_BlockDispatcher :
    (machRdy.offers 0 = [offer0] ∧ machRdy.meter.offers 0 = [offer0] ∧
      ∃ u, machRdy.offerGrid 0 (grdR ⟨8, 0, 0, 0⟩) offer0 = .ok u ∧
        exec (.blockDispatch 0) machRdy = .next (u.payOffer [offer0] offer0) ∧
        (u.block? 1).map (fun b => b.phase) = some .resident) ∧
    (machRdy.meter.offers 1 = [] ∧ exec (.blockDispatch 1) machRdy = .next machRdy.meter) ∧
    ((machRdy ⟨8, 33, 0, 0⟩).offerGrid 0 (grdR ⟨8, 33, 0, 0⟩) offer0 = .failed) ∧
    exec .energyWindow { base with window := 1, timebase := 1999999 } = .next { base with window := 1, timebase := 1999999 } ∧
    (after (exec .energyWindow { base with window := 1, timebase := 2000000 })).map (fun t => t.window) = some 2 := by
  refine ⟨⟨rfl, rfl, _, rfl, rfl, rfl⟩, ⟨rfl, rfl⟩, rfl, rfl, by decide⟩

/-- The machine with that grid a gang. -/
def machG (c : Units := ⟨8, 0, 0, 0⟩) : State :=
  { machRdy c with grids := [{ grdR c with desc := { (grdR c).desc with gang := true } }] }

theorem wit_Admission_gang :
    (machG.waitingLevels (machG.grids.head (by decide)) = [(0, 0)] ∧
      ((after (exec (.admission 0 0 0 0 [0]) machG)).bind fun t => t.block? 1).map (fun b => (b.phase, b.alloc)) =
        some (.resident, ⟨8, 0, 0, 0⟩)) ∧
    exec (.admission 0 0 0 0 []) machG = .next machG ∧
    exec (.admission 0 0 0 0 [0]) (machG ⟨8, 33, 0, 0⟩) =
      .next ((machG ⟨8, 33, 0, 0⟩).failLaunch ((machG ⟨8, 33, 0, 0⟩).grids.head (by decide))) ∧
    (machRdy.tryCluster (grdR ⟨8, 0, 0, 0⟩) 0 0 0 ≠ .withdrawn) := by
  refine ⟨⟨rfl, by decide⟩, rfl, rfl, by decide⟩

/-- A grid of priority 1 that wants a unit of scratch, and a block of priority 0 that holds all of cluster 0's. -/
def grdS : Grid :=
  { grdR ⟨8, 0, 1, 0⟩ with nodes := [{ placeRoot.node with prio := 1 }],
                           desc := { grd0.desc with claim := ⟨8, 0, 1, 0⟩, base := ⟨8, 0, 1, 0⟩ } }

/-- The block that holds it, resident since a time. -/
def blkS (since : Nat) : Block :=
  { blk0 with id := 7, grid := 6, alloc := ⟨8, 0, 128, 0⟩, claim := ⟨8, 0, 128, 0⟩, since := since }

/-- The machine with both, DSLICE at 1. -/
def machS (since : Nat) : State :=
  let s := machRdy.setReg (dieKey 0 0x18) 1
  { s with blocks := [{ blkRdy with claim := ⟨8, 0, 1, 0⟩ }, blkS since], timebase := 5000,
           grids := [grdS, { grd0 with id := 6 }] }

theorem wit_BlockDispatcher_slice :
    (∃ x, (machS 3976).offers 0 = [x] ∧ x.grid = 0 ∧ ((machS 3976).offerGrid 0 grdS x) = .withdrawn ∧ (machS 3976).noRoom 0 grdS x = true) ∧
    (let s := { machS 3976 with blocks := (machS 3976).blocks ++ [{ blkS 3976 with id := 8, stop := some 1 }] }
     exec (.slicePreempt 0) s = .next s) ∧
    (machS 3976).sliceable 0 (prioOf grdS.nodes) = [(blkS 3976, 0)] ∧
    exec (.slicePreempt 0) (machS 3976) = .next ((machS 3976).requestStop (blkS 3976)) ∧
    (machS 3977).sliceable 0 (prioOf grdS.nodes) = [] ∧ exec (.slicePreempt 0) (machS 3977) = .next (machS 3977) := by
  refine ⟨⟨_, rfl, rfl, rfl, rfl⟩, rfl, rfl, rfl, rfl, rfl⟩

/-- The machine whose offer finds no room; the block that has the room belongs to no grid, so no energy is metered. -/
def machW : State := { machS 3976 with grids := [grdS] }

theorem wit_BlockDispatcher_withdrawn :
    (∃ x, machW.meter.offers 0 = [x] ∧ x.grid = 0 ∧ machW.meter.offerGrid 0 grdS x = .withdrawn) ∧
    exec (.blockDispatch 0) machW = .next machW.meter := by
  refine ⟨⟨_, rfl, rfl, rfl⟩, rfl⟩

/-- The block asked to stop at 10. -/
def blkT (dbg : Bool := false) : Block := { blk0 with stop := some 10, dbg := dbg }

/-- Its machine at a time. -/
def machStop (t : DWord) (b : Block := blkT) (g : Group := grp0) : State :=
  let gr := { grd0 with desc := { grd0.desc with nlive := 1 } }
  { mach g b gr with timebase := t }

theorem wit_StopRequests :
    ((after (exec (.stopRequest 1) { base with timebase := 10 })).bind fun t => t.block? 1).map (fun b => b.stop) = some (some 10) ∧
    ((after (exec (.vdstopGo 0) { base with timebase := 10 })).bind fun t => t.block? 1).map (fun b => b.stop) = some (some 10) ∧
    exec (.stopRequest 1) machRdy = .next machRdy ∧
    ((after (exec (.vdstopHold 0 true) machRdy)).map fun t => t.mayOffer (grdR ⟨8, 0, 0, 0⟩) 0 0 0) = some false ∧
    (grp0.reconverged = true ∧ (machStop 20009).stackBusy blkT grp0.idx = false ∧
      exec (.pptWindowExpiry 2) (machStop 20009) = .next (machStop 20009) ∧
      exec (.pptWindowExpiry 2) (machStop 20010) = .next ((machStop 20010).stopGroup blkT grp0 none) ∧
      exec (.pptWindowExpiry 2) (machStop 20010 blkT grp2) = .next (machStop 20010 blkT grp2)) ∧
    exec (.forcedSave 2) (machStop 100009) = .next (machStop 100009) ∧
    exec (.forcedSave 2) (machStop 100010 blkT grp2) = .next ((machStop 100010 blkT grp2).stopGroup blkT grp2 none) ∧
    exec (.forcedSave 2) (machStop 10 (blkT true)) = .next ((machStop 10 (blkT true)).stopGroup (blkT true) grp0 none) := by
  refine ⟨by decide, by decide, rfl, by decide, ⟨rfl, rfl, rfl, rfl, rfl⟩, rfl, rfl, rfl⟩

theorem wit_SavesAndEnds :
    (let s := machStop 30 blkT { grp0 with phase := .stopped }
     s.workDone blkT = true ∧ (after (exec (.blockSaveComplete 1) s)).map (fun t =>
       ((t.block? 1).map fun b => (b.phase, b.stop), (t.grid? 0).map fun g => g.resume, t.groups.map fun g => g.phase)) =
       some (some (.saved, none), some [1], [.saved])) ∧
    exec (.blockSaveComplete 1) (machStop 30) = .next (machStop 30) ∧
    (let s := mach { grp0 with phase := .ended }
     s.blockDone blk0 = true ∧ exec (.blockSaveComplete 1) s = .next s ∧
     ((after (exec (.blockComplete 1) s)).bind fun t => t.block? 1).map (fun b => (b.phase, b.alloc)) =
       some (.complete, ⟨0, 0, 0, 0⟩)) ∧
    (let s := mach { grp0 with phase := .ended, cnt := ⟨1, 0, 0, 0⟩ }
     s.blockDone blk0 = false ∧ exec (.blockComplete 1) s = .next s) := by
  refine ⟨⟨rfl, by decide⟩, rfl, ⟨rfl, rfl, by decide⟩, ⟨rfl, rfl⟩⟩

/-- Domain 0's halt line of virtual device 0 raised. -/
def machL (stopped : Bool) (g : Group := grp0) (b : Block := blk0) : State :=
  let s := mach g b
  s.setVdev { s.vdev 0 with raised := [⟨0, 0, false, true, stopped⟩] }

/-- A line of CXL memory. -/
def lineX : HomeLine := ⟨0, 0, placeVa, bytes0, 0, ⟨0x1000000, false, false, 0, 0, true, true, true⟩, true⟩

theorem wit_Halts :
    ((after (exec (.vdhaltRaise 0 0) base)).map fun t => t.domainHalted 0 0) = some true ∧
    exec (.haltRaise 0 0) base = .next base ∧
    ((after (exec (.haltRaise 0 0) (machL false grp0 (blkO op0)))).map fun t =>
      (t.groups.map fun g => g.phase, t.blocks.map fun b => b.chans.all fun c => c.frozen, (t.vdev 0).raised.map fun h => h.stopped)) =
      some ([.frozen], [true], [true]) ∧
    (let s := machL true { grp0 with phase := .frozen, sb := [⟨5, .mem 0 0 placeVa, bytes0, 1, none, placeVa, 0⟩] }
     exec (.haltRaise 0 0) s = .next s) ∧
    ((after (exec (.haltRaise 0 0) { machL true { grp0 with phase := .frozen } with atc := [⟨0, 0, 0, true, true⟩] })).map fun t =>
      ((t.vdev 0).halted, (t.vdev 0).raised, t.grids)) = some ([0], [], []) := by
  refine ⟨by decide, rfl, by decide, rfl, by decide⟩

theorem wit_Halts_ends :
    (let s := base.setVdev { base.vdev 0 with halted := [0, 3] }
     ((after (exec (.vdhaltClear 0 3) s)).map fun t => (t.vdev 0).halted) = some [0] ∧
     ((after (exec (.vdhaltClear 0 3) { s with clkFault := true })).map fun t => (t.vdev 0).halted) = some [0, 3]) ∧
    ((after (exec .packageClockFault { base with atc := [⟨0, 0, 0, true, true⟩] })).map fun t => (t.clkFault, t.domainHalted 0 0)) = some (true, true) ∧
    exec .packageClockFault { base with clkFault := true } = .next { base with clkFault := true } ∧
    (let s := { base with home := [lineX] }
     s.homeLine? 0 0 placeVa = some lineX ∧
     ((after (exec (.cxlMemError 0 0 placeVa) s)).map fun t => (t.home, t.domainHalted 0 0)) = some ([], true) ∧
     after (exec (.cxlMemError 0 0 placeVa) { base with home := [lineM] }) = some { base with home := [lineM] }) ∧
    (let s := { base with grids := [{ grd0 with vd := 3 }], blocks := [{ blk0 with vd := 3 }], vfEnable := true,
                          atc := [⟨0, 0, 0, true, true⟩, ⟨3, 0, 0, true, true⟩],
                          vds := base.vds ++ [{ base.vdev 3 with vd := 3 }] }
     ((after (exec .vfEnableClear s)).map fun t => (t.vfEnable, t.grids)) = some (false, []) ∧
     s.hasWork 3 = true ∧ ((after (exec (.functionLevelReset 3) s)).map fun t => t.grids) = some [] ∧
     exec (.functionLevelReset 2) s = .next s) := by
  refine ⟨⟨by decide, by decide⟩, by decide, rfl, ⟨rfl, by decide, by decide⟩, ⟨by decide, rfl, by decide, rfl⟩⟩

/-! ### Witnesses: queues, answers, partitions, the debugger -/

/-- A line of global memory at `placeVa + 128 * n`, permitted everything. -/
def lineK (n : Nat) (bs : List Byte) : HomeLine :=
  ⟨0, 0, placeVa + BitVec.ofNat 56 (128 * n), (bs ++ List.replicate 128 0).take 128, 0, lineM.leaf, true⟩

/-- Queue 5 of virtual device 0, its ring of 16 packets at `placeVa`, packet 1 of `done` 0 in it. -/
def machK (pkt : List Byte) (rest : List HomeLine := []) : State :=
  let s := ((base.setReg (queueKey 5 0) 0x8000000000000000).setReg (queueKey 5 8) 0x100000000).setReg (queueKey 5 0x20) 1
  { s.setReg (queueKey 5 0x10) 0x100000380 with
    home := lineK 0 (List.replicate 64 0 ++ pkt) :: rest, atc := [⟨0, 0, 0, true, true⟩] }

/-- A packet of type `ty`: its number 1, its signal, its body. -/
def pkt (ty : Byte) (sig : Nat) (body : List Byte) (b2 b3 : Byte := 0) : List Byte :=
  [ty, 0, b2, b3, 1, 0, 0, 0] ++ bytesOfNat 8 sig ++ body

/-- The queue after a packet. -/
def que (o : Host.Outcome State Fault Refusal) : Option (Word × Bool × Option Nat) :=
  (after o).map fun t => (t.qdone 5, t.aborted 5, (t.thread 5).nextAt)

/-- The machine whose thread has held packet 1 since time 0, at a time. -/
def machKW (p : List Byte) (t : DWord) : State :=
  { (machK p).setThread { (machK p).thread 5 with
      nextAt := some 0, held := some ((p ++ List.replicate 64 0).take 64) } with timebase := t }

/-- A WAIT for a signal, the one at `placeVa`, at most `x`, with a limit. -/
def pktW (limit : Nat) (x : Nat) : List Byte :=
  pkt 4 limit (bytesOfNat 8 0x100000000 ++ List.replicate 24 0 ++ bytesOfNat 4 x) 0 1

theorem wit_Packets :
    (∃ s', (machK (pkt 0 0 [])).PacketAt 5 1 placeRoot ((pkt 0 0 [] ++ List.replicate 64 0).take 64) s' ∧
      ((machK (pkt 0 0 [])).thread 5).ending = []) ∧
    (machKW (pktW 5 0) 0).PacketHeld 5 1 placeRoot ((pktW 5 0 ++ List.replicate 64 0).take 64) ∧
    que (exec (.packetConsume 5) (machK (pkt 0 0 []))) = some (1, false, none) ∧
    packetGood ((pkt 6 0 [] ++ List.replicate 64 0).take 64) 1 = false ∧
    que (exec (.packetConsume 5) (machK (pkt 6 0 []))) = some (0, true, none) ∧
    exec (.millPrefetch 5) (machK []) = .next (machK []) ∧ exec (.waitEvaluation 5) (machK (pkt 0 0 [])) =
      .next (machK (pkt 0 0 [])) := by
  exact ⟨⟨_, ⟨rfl, rfl, rfl, rfl, _, rfl, by decide⟩, rfl⟩, ⟨rfl, rfl, rfl, rfl⟩, by decide, rfl, by decide, rfl, rfl⟩

/-- A kernel descriptor, a grid node and its queue node, and the packet that launches it. -/
def descK : List Byte :=
  bytesOfNat 4 0x4B445A4F ++ [1, 0, 0, 0] ++ bytesOfNat 8 0x100000000 ++ List.replicate 24 0 ++ bytesOfNat 8 0x100000100 ++
    [1, 0, 1, 8, 0, 0, 0, 0, 0, 0, 0, 0, 1, 0, 0, 0] ++ List.replicate 16 0 ++ [8, 0, 0, 0]

/-- A node of a level whose parent is at `p`. -/
def nodeK (level : Byte) (p : Nat) : List Byte :=
  [level, 0xFF, 0xFF, 0xFF, 1, 0, 0xFF, 0xFF, 0xFF, 0xFF, 0xFF, 0xFF, 0xFE, 0xFF, 0xFF, 0xFF] ++ bytesOfNat 8 p

/-- The launch: 1 die level of 1 cluster level. -/
def pktL : List Byte := pkt 1 0 (bytesOfNat 8 0x100000080 ++ bytesOfNat 8 0 ++ bytesOfNat 8 0x100000300 ++ [1, 1])

/-- The machine with it. -/
def machKL : State :=
  machK pktL ([lineK 1 descK, lineK 2 [], lineK 3 [], lineK 4 [], lineK 5 [], lineK 6 (nodeK 2 0x100000380), lineK 7 (nodeK 1 0)])

theorem wit_Packets_launch :
    (after (exec (.packetConsume 5) machKL)).map (fun t => (t.grids.map fun g => (g.id, g.levels.length),
      t.blocks.map fun b => (b.grid, b.phase == .ready), (t.thread 5).running)) =
      some ([(0, 1), (3, 1)], [(0, false), (3, true)], [⟨1, false, 0, some 3⟩]) := by decide +kernel

theorem wit_Packets_waits :
    que (exec (.packetConsume 5) (machK (pktW 0 0))) = some (1, false, none) ∧
    que (exec (.packetConsume 5) (machK (pktW 0 0xFFFFFFFF))) = some (0, false, some 0) ∧
    que (exec (.waitEvaluation 5) (machKW (pktW 5 0xFFFFFFFF) 4)) = some (0, false, some 0) ∧
    ((after (exec (.waitDeadlineExpiry 5) (machKW (pktW 5 0xFFFFFFFF) 5))).map fun t =>
      ((t.reg (queueKey 5 0x28)).extractLsb' 32 32, t.aborted 5)) = some (4, true) := by decide

/-- A SIGNAL of packet 1 has started; its atomic is still to be made. -/
def machKS (add : Bool) (va : DWord := 0x100000008) : State :=
  let s := machK []
  { s.setThread { s.thread 5 with running := [⟨1, false, 0, none⟩], sigs := [⟨1, va, 3, add⟩] } with home := [lineM] }

theorem wit_Packets_signal :
    (after (exec (.packetConsume 5) (machK (pkt 5 0x100000008 (bytesOfNat 8 3))))).map (fun t =>
      ((t.thread 5).sigs, (t.thread 5).running.map fun x => x.seq, t.qdone 5)) =
      some ([⟨1, 0x100000008, 3, true⟩], [1], 1) ∧
    ((machKS true).thread 5).pause = none ∧ (machKS true).threadRuns 5 = true ∧
    (after (exec (.packetConsume 5) { machKS true with recovery := false })).map (fun t =>
      ((t.thread 5).sigs, (t.thread 5).running.map fun x => x.seq,
        (t.homeLine? 0 0 placeVa).map fun h => (h.bytes.getD 8 0, h.bytes.getD 9 0))) = some ([], [], some (11, 9)) ∧
    (after (exec (.packetConsume 5) (machKS false))).map (fun t =>
      (t.homeLine? 0 0 placeVa).map fun h => (h.bytes.getD 8 0, h.bytes.getD 9 0)) = some (some (3, 0)) := by
  refine ⟨by decide, rfl, rfl, by decide +kernel, by decide +kernel⟩

/-- The number a queue's abort has, and whether it is aborted. -/
def abt (o : Host.Outcome State Fault Refusal) : Option (Word × Bool) :=
  (after o).map fun t => ((t.reg (queueKey 5 0x28)).extractLsb' 32 32, t.aborted 5)

/-- The launched grid of queue 5, whose die level has that feed queue. -/
def machFd (body : List Byte) (recs : List (List Word)) (closed : Bool) : State :=
  { machK (pkt 2 0 body) [lineK 1 []] with grids := [{ grdF recs closed with queue := 5, seq := 9 }] }

theorem wit_Packets_else :
    ((after (exec (.packetConsume 5) (machK (pkt 3 0 (bytesOfNat 8 0x100000010 ++ bytesOfNat 8 0x100000040 ++ [4])))))).map
      (fun t => ((t.thread 5).lane.map fun x => (x.seq, x.dst, x.src, x.len), t.qdone 5)) =
      some ([(1, 0x100000010, 0x100000040, 4)], 1) ∧
    abt (exec (.packetConsume 5) (machK (pkt 2 0 [9]))) = some (5, true) ∧
    abt (exec (.packetConsume 5) (machFd ([9, 0, 0, 0, 1, 1, 0, 0] ++ bytesOfNat 8 0x100000080) [] false)) = some (5, true) ∧
    abt (exec (.packetConsume 5) (machFd ([9, 0, 0, 0, 0, 1, 0, 0] ++ bytesOfNat 8 0x100000080) [] true)) = some (5, true) ∧
    (after (exec (.packetConsume 5) (machFd ([9, 0, 0, 0, 0, 1, 1, 0] ++ bytesOfNat 8 0x100000080) [] false))).map (fun t =>
      (t.grids.map fun g => g.levels.map fun d => d.feed.map fun f => (f.recs.length, f.closed), t.qdone 5)) =
      some ([[some (1, true)]], 1) := by
  refine ⟨by decide, by decide, by decide, by decide, by decide⟩

theorem wit_Packets_overrun :
    (let s := machK (pkt 0 0 [])
     abt (exec (.packetConsume 5) (s.setThread { s.thread 5 with overrun := true })) = some (8, true)) ∧
    (let s := machKW (pktW 5 0xFFFFFFFF) 1
     abt (exec (.packetConsume 5) (s.setThread { s.thread 5 with overrun := true })) = some (8, true)) ∧
    (let s := (machK (pkt 0 0 [])).abortQueue 5 0x200
     let s := s.setThread { s.thread 5 with ending := [] }
     que (exec (.packetConsume 5) s) = some (1, true, none)) := by
  refine ⟨by decide, by decide, by decide⟩

/-- A queue whose packet 1 runs, and its grid. -/
def machE (b : Block) : State :=
  let s := { machK [] with grids := [{ grd0 with queue := 5, seq := 1 }], blocks := [b] }
  s.setThread { s.thread 5 with running := [⟨1, false, 0, some 0⟩] }

theorem wit_PacketEnds :
    exec (.launchComplete 0) (machE blk0) = .next (machE blk0) ∧
    (after (exec (.launchComplete 0) (machE { blk0 with phase := .complete }))).map (fun t => (t.grids, (t.thread 5).running)) =
      some ([], []) := by
  refine ⟨rfl, by decide⟩

/-- A COPY packet of four bytes in the lane. -/
def lane0 : LaneCopy := ⟨1, placeVa, placeVa + 64, placeVa, 4, .mov, none⟩

/-- The machine with a copy packet of four bytes in queue 5's lane. -/
def machEL (x : LaneCopy) : State :=
  { (machE blk0).setThread { (machE blk0).thread 5 with lane := [x] } with home := [lineM] }

theorem wit_PacketEnds_copy :
    (after (exec (.copyPacketComplete 5) (machEL lane0))).map (fun t => ((t.thread 5).lane, (t.thread 5).running,
      (t.homeLine? 0 0 placeVa).map fun h => (h.bytes.getD 64 9, h.bytes.getD 67 9, h.bytes.getD 68 9))) =
      some ([], [], some (0, 3, 68)) := by decide +kernel

theorem wit_PacketEnds_faults :
    exec (.copyPacketComplete 5) (machEL { lane0 with paused := some 12 }) = .next (machEL { lane0 with paused := some 12 }) ∧
    abt (exec (.copyPacketComplete 5) { machEL lane0 with home := [{ lineM with leaf := { lineM.leaf with r := false } }] }) =
      some (6, true) := by
  refine ⟨rfl, by decide⟩

theorem wit_QueueRegisters :
    base.recovery = false ∧
    exec (.qcfgWrite 5 0xD00) base = .next base.wake ∧
    ((after (exec (.qcfgWrite 5 0x8000000000000100) (base.setReg (queueKey 5 0x20) 7))).map fun t =>
      (t.qdone 5, t.qEnabled 5, t.aborted 5)) = some (7, true, false) ∧
    ((after (exec (.qdoorWrite 5 16) (machK []))).map fun t => (t.qdoor 5, (t.thread 5).overrun)) = some (16, false) ∧
    ((after (exec (.qdoorWrite 5 17) (machK []))).map fun t => (t.thread 5).overrun) = some true ∧
    abt (exec (.qabort 5 0x100) (machK [])) = some (0x100, true) ∧
    abt (exec (.qabort 5 0x80000000) (machK [])) = some (0, false) := by
  refine ⟨rfl, rfl, by decide, by decide, by decide, by decide, by decide⟩

theorem wit_QueueRegisters_dev :
    (let s := base.setReg (queueKey 5 0) 0x4000000000000000
     s.qDev 5 = true ∧ exec (.qdoorWrite 5 1) s = .next s.wake ∧
     abt (exec (.qabort 5 0x100) s) = some (0x100, true)) ∧
    (let s := { base with recovery := true }
     exec (.qcfgWrite 5 0xD00) s = .next s ∧ exec (.faultResponse 0 12) s = .next s) := by
  refine ⟨⟨rfl, rfl, by decide⟩, ⟨rfl, rfl⟩⟩

theorem wit_QueueRegisters_events :
    (let s := base.setVdev { base.vdev 0 with evbuf := [⟨3, 0, 1, 0, []⟩] }
     let s := { s with atc := [⟨0, 0, 0, true, true⟩] }
     ((after (exec (.evackWrite 0 0) s)).map fun t => (t.vdev 0).evbuf) = some []) ∧
    (let s := (machK []).setThread { (machK []).thread 5 with ending := [⟨7, false⟩] }
     ((after (exec (.packetConsume 5) s)).map fun t => (t.thread 5).ending) = some [⟨7, true⟩]) ∧
    (let s := (machK []).setThread { (machK []).thread 5 with ending := [⟨7, true⟩] }
     ((after (exec (.packetConsume 5) s)).map fun t => (t.thread 5).ending) = some []) ∧
    (let s := (machK []).setReg (queueKey 5 0x18) 0x100000008
     let s := s.setThread { s.thread 5 with ending := [⟨7, false⟩] }
     (after (exec (.packetConsume 5) s)).map (fun t => ((t.thread 5).ending,
       (t.homeLine? 0 0 placeVa).map fun h => (h.bytes.getD 8 0, h.bytes.getD 15 0))) =
       some ([⟨7, true⟩], some (0xF9, 0xFF))) := by
  refine ⟨by decide, by decide, by decide, by decide⟩

/-- A load parked on one absent page, with its record. -/
def grpK : Group :=
  { grp0 with slot0 := some { path0 with wait := some ⟨.parked 0, 3, 0, placeVa + 8, true⟩, replay := some 0 },
              replay := [⟨none, 0, placeVa + 4, false, 0xF, [], [], [⟨12, placeVa, 0xF, false, none⟩]⟩] }

/-- The machine with it. -/
def machA2 (o : FaultOwner) (g : Group := grpK) (b : Block := blk0) : State :=
  let s := mach g b
  s.setVdev { s.vdev 0 with faults := [⟨12, placeVa, o⟩] }

theorem wit_FaultAnswers :
    (machA2 (.replay 2 (placeVa + 4) false)).OwnerStands (.replay 2 (placeVa + 4) false) ∧
    exec (.faultResponse 0 13) (machA2 (.replay 2 (placeVa + 4) false)) = .next (machA2 (.replay 2 (placeVa + 4) false)) ∧
    ((after (exec (.faultResponse 0 12) (machA2 (.replay 2 (placeVa + 4) false)))).map fun t =>
      ((t.vdev 0).faults, t.groups.map fun g => g.replay.map fun e => e.tags.map fun x => x.answer)) =
      some ([], [[[some true]]]) ∧
    (grp (exec (.faultResponse 0 0x10000000C) (machA2 (.replay 2 (placeVa + 4) false)))).map (fun g => (g.phase, g.trap)) =
      some (.frozen, ⟨0x20, 0x100000004, 0x100000000, 0xF, 0, 0x100000000, false⟩) ∧
    (let g := gW (.fetch 12)
     (grp (exec (.faultResponse 0 12) (machA2 (.fetch ⟨2, false⟩) g))).bind (fun g => (g.path false).map fun p => p.wait) =
       some none ∧
     (grp (exec (.faultResponse 0 0x10000000C) (machA2 (.fetch ⟨2, false⟩) g))).map (fun g => (g.phase, g.trap.cause)) =
       some (.frozen, 0x20)) ∧
    ((after (exec (.faultResponse 0 12) (machA2 (.carter 1 1) grp0 (blkO { op0 with state := .paused 12 })))).bind
      fun t => t.block? 1).map (fun b => (b.chan 1).queue.map fun x => x.state) = some [.moving] ∧
    (let s := (machA2 (.thread 5)).setThread { base.thread 5 with pause := some (12, .packet) }
     ((after (exec (.faultResponse 0 12) s)).map fun t => (t.thread 5).pause) = some none) ∧
    (let s := { base with priReqs := [⟨12, 0, 0x100000, .fetch ⟨2, false⟩⟩], groups := [gW (.fetch 12)] }
     exec (.priResponse 11 true) s = .next s ∧
     (grp (exec (.priResponse 12 true) s)).bind (fun g => (g.path false).map fun p => p.wait) = some none) := by
  refine ⟨fun g id h => ?_, rfl, by decide, by decide, ⟨by decide, by decide⟩, by decide, by decide, ⟨rfl, by decide⟩⟩
  rcases h with ⟨pc, sl, h⟩ | ⟨sl, h⟩
  · cases h; intro hg; cases (Option.some.inj hg : grpK = g); exact ⟨blk0, grd0, rfl, rfl⟩
  · cases h

/-- The machine with words staged for a partition, after partition 1 and with virtual device 0 in partition 0. -/
def machPt (clu l2 : DWord) (parts : List Partition := [⟨1, 2, 2, 2, 2⟩]) : State :=
  let s := ((base.setReg 0x40008 clu).setReg 0x40010 l2).setReg 0x40028 l2
  { s with parts := parts, atc := [⟨0, 0, 0, true, true⟩] }

theorem wit_Partitions :
    (machPt 0 1).partError 0 = 2 ∧ (machPt 3 1).partError 0 = 1 ∧ { machPt 1 1 with defects := [] }.partError 0 = 3 ∧
    (machPt 0 0).nothingStaged = true ∧ (machPt 0 0).partError 0 = 5 ∧ (machPt 0 0).partError 2 = 0 ∧
    exec (.partctlGo 0x8000000000000000) (machPt 0 1) = .next ((machPt 0 1).setReg 0x40000 0x2000000000000).wake := by
  refine ⟨by decide, by decide, by decide, by decide, by decide, by decide, rfl⟩

theorem wit_Partitions_changes :
    ((after (exec (.partctlGo 0x8000000000000001) (machPt 0 0))).map fun t => t.partPend) = some (some ⟨1, none⟩) ∧
    exec .partitionChangeDone base = .next base ∧
    (let s := { machPt 1 1 with partPend := some ⟨2, some ⟨2, 4, 4, 4, 4⟩⟩ }
     ((after (exec .partitionChangeDone s)).map fun t => (t.partPend, t.part 2, t.part 1)) =
       some (none, ⟨2, 4, 4, 4, 4⟩, ⟨1, 2, 2, 2, 2⟩)) := by
  refine ⟨by decide, rfl, by decide⟩

theorem wit_Partitions_roots :
    base.vdIdle 0 = false ∧ base.vdIdle 3 = true ∧ exec (.vdrcbWrite 0 1) base = .next base.wake ∧
    ((after (exec (.vdrcbWrite 3 1) base)).map fun t => (t.vdev 3).root.isSome) = some true ∧
    ((after (exec (.vdrcbWrite 3 0) base)).map fun t => (t.vdev 3).root) = some none := by
  refine ⟨by decide, by decide +kernel, rfl, by decide +kernel, by decide +kernel⟩

/-- The block stopped by the debugger. -/
def blkD' : Block := { blk0 with dbg := true }

/-- What a test looks at of the one block. -/
def dbgOf (o : Host.Outcome State Fault Refusal) : Option (Bool × Bool × Option (PathRef × Bool)) :=
  ((after o).bind fun t => t.block? 1).map fun b => (b.dbg, b.dbgReq, b.stepReq)

theorem wit_Debugger :
    base.kzBlock 0 0 = some blk0 ∧ (mach grp0).groupIn blk0 0 = some grp0 ∧
    dbgOf (exec (.kzctlStop 0x8000000000000000) base) = some (false, true, none) ∧
    dbgOf (exec (.kzctlStop 0x8000000000000000) (mach grp0 { blkD' with stepReq := some (⟨2, false⟩, false) })) =
      some (true, false, none) ∧
    exec (.kzctlStop 0xC000000000000000) base = .next base.wake ∧
    dbgOf (exec (.blockDebugStopped 1) (mach grp0 { blk0 with dbgReq := true })) = some (true, false, none) ∧
    dbgOf (exec (.kzctlRun 0x4000000000000000) (mach grp0 blkD')) = some (false, false, none) ∧
    ((after (exec (.kzctlQui 0x1000000000000000) base)).map fun t => t.kz 0 8) = some 0x1000000000000000 := by
  refine ⟨rfl, rfl, by decide, by decide, rfl, by decide, by decide, by decide⟩

/-- The group whose path is to retire one instruction, or has. -/
def gStep (m : StepMark) : Group := { grp0 with slot0 := some { path0 with step := m, bpSkip := true } }

/-- The block with that step. -/
def blkSt : Block := { blkD' with stepReq := some (⟨2, false⟩, false) }

theorem wit_Debugger_steps :
    (after (exec (.kzctlStep 0x2000000000000000) (mach grp0 blkD'))).map (fun t => (t.groups, t.block? 1)) =
      some ([gStep .due], some blkSt) ∧
    (mach (gStep .due) blkSt).stepOver ⟨2, false⟩ = false ∧
    exec (.blockDebugStopped 1) (mach (gStep .due) blkSt) = .next (mach (gStep .due) blkSt) ∧
    (mach (gStep .done) blkSt).stepOver ⟨2, false⟩ = true ∧
    dbgOf (exec (.blockDebugStopped 1) (mach (gStep .done) blkSt)) = some (true, false, none) ∧
    ((mach (gStep .done) blkSt).stepRecord blkSt ⟨2, false⟩ false).value = 0x72 ∧
    (let g := { gStep .done with trap := { grp0.trap with cause := 0x40 },
                                 slot0 := some { path0 with step := .done, handler := some ⟨0, false, none⟩ } }
     ((mach g blkSt).stepRecord blkSt ⟨2, false⟩ false).value = 0x40) := by
  refine ⟨by decide, rfl, rfl, rfl, by decide, rfl, rfl⟩

/-- What KZSHVAL holds after a sample of a machine. -/
def shval (o : Host.Outcome State Fault Refusal) : Option DWord := (after o).map fun t => t.kz 0 0x18

theorem wit_Debugger_samples :
    shval (exec (.kzshselWrite (0x4000 ||| 0xC0000)) (mach (grp0.setSreg 3 0x77))) = some 0x77 ∧
    shval (exec (.kzshselWrite (0x8000 ||| 0xC0000)) (mach grp0)) = some ((grp0.pred 3).setWidth 64) ∧
    shval (exec (.kzshselWrite 0x40000)
      (mach { grp0 with m0 := grp0.m0.set 1 ⟨some 1, 0⟩, phys := [⟨1, lanesOf fun _ => 5⟩] })) = some 5 ∧
    base.bar0Key 0x41018 = kenzuKey base.kzvd 0x018 ∧
    (after (exec (.kzshselWrite 0xC000) (mach grp0))).map (fun t => (t.pfRead 0x41018, t.pfReadAgain 0x41018)) =
      some (placeVa.setWidth 64 + 4, 0xFFFFFFFF00000000) ∧
    shval (exec (.kzshselWrite 0x14000) (mach grp0)) = some 0 := by
  refine ⟨by decide, by decide, by decide, rfl, by decide, by decide⟩

/-- The block saved in slot 0 of a save area at VA 0, one line of which stands at its home. -/
def machSv : State :=
  { mach { grp0 with phase := .saved, note := none } { blk0 with phase := .saved, slot := some 0 } with
    home := [⟨0, 0, 0x1100, bytes0, 0, lineM.leaf, true⟩] }

theorem wit_Debugger_saved :
    grp0.samplePlace 1 3 0 = some (0x120, 8) ∧
    shval (exec (.kzshselWrite (0x4000 ||| 0xC0000)) machSv) = some 0x2726252423222120 := by
  refine ⟨rfl, by decide⟩

/-- The machine with a breakpoint on the path's instruction. -/
def machBp : State := (mach grp0).setReg (kenzuKey 0 0x80) 0x8000000100000004

theorem wit_Debugger_breakpoint :
    machBp.breakAt 0 (placeVa + 4) = true ∧ exec (.breakpointStop ⟨2, false⟩) machBp = .next
      ((machBp.setGroup (grp0.setPath false (some { path0 with bpSkip := true }))).setBlock (blk0.requestStop (some (⟨2, false⟩, 0)))) := by
  exact ⟨by decide, rfl⟩

/-! ### Witnesses: power, firmware, resets, links, the host -/

/-- The package without work, idle since 0, its tolerance `l`. -/
def machI (l : DWord) (t : DWord) : State :=
  { base.setReg (dieKey 0 0x28) l with groups := [], blocks := [], grids := [], idleAt := some 0, timebase := t }

theorem wit_PowerAndTests :
    (let s := { base with defects := (List.range 4).map fun i => (BitVec.ofNat 2 i, [(0x11, 40)]) }
     s.topClock 0 = 40 ∧ s.powerLimit = 2400 ∧ ∃ t, exec (.powerWindow [1, 1, 1, 1]) s = .next t) ∧
    ((base.setReg (dieKey 0 0x40) 1199).powerLimit, (base.setReg (dieKey 0 0x40) 1300).powerLimit) = (1200, 1300) ∧
    ((base.setReg (dieKey 0 0x308) 0x800000CE).rails 0, (base.setReg (dieKey 0 0x308) 0x80000005).rails 0) =
      ([0, -150, 0, 0], [0, 25, 0, 0]) ∧
    exec (.powerWindow [1]) base = .next base ∧ exec .idleEntry base = .next { base with idleAt := none } ∧
    exec .idleWake { base with power := .gated } = .next base := by
  refine ⟨⟨rfl, rfl, _, rfl⟩, by decide, by decide, rfl, rfl, rfl⟩

theorem wit_PowerAndTests_bist :
    (base.bistRefused 0 4 = true ∧ exec (.bistctlGo 0 0x8000000000000004) base =
      .next (base.setReg (dieKey 0 0x30) 0x4000000000000004).wake) ∧
    (let s := { base with bist := [(0, 1)], l1 := [⟨0, .mem 0 0 placeVa, bytes0, fullMarks, 0, none, []⟩] }
     s.bistBusy 0 = true ∧ exec (.bistctlGo 0 0x8000000000000001) s = .next s.wake ∧
     (after (exec (.bistComplete 0) s)).map (fun t => (t.bist, t.l1)) = some ([], [])) := by
  refine ⟨⟨rfl, rfl⟩, ⟨rfl, rfl, by decide⟩⟩

theorem wit_PowerAndTests_margins :
    (base.laneFree 0 0 = false ∧ exec (.lmargctlGo 0 0x8000000000000000) base =
      .next (base.setReg (dieKey 0 0x340) (base.reg (dieKey 0 0x340) ||| 0x4000000000000000)).wake) ∧
    (base.laneFree 0 0x8002000000000000 = true ∧
      (after (exec (.lmargctlGo 0 0x8002000000000000) base)).map (fun t => t.margin) = some [(0, 2 ^ 20)]) ∧
    (let s := { base with margin := [(0, 7)], timebase := 6 }
     exec (.lmargScanComplete 0) s = .next s ∧
     (after (exec (.lmargScanComplete 0) { s with timebase := 7 })).map (fun t => t.margin) = some []) := by
  refine ⟨⟨rfl, rfl⟩, ⟨rfl, by decide⟩, ⟨rfl, by decide⟩⟩

theorem wit_PowerAndTests_idle :
    (machI 899 10000).idle = true ∧ exec .idleEntry (machI 899 10000) = .next { machI 899 10000 with power := .retention } := by
  refine ⟨by decide +kernel, rfl⟩

/-- The package in recovery, checking the staged image. -/
def machRec (staging : Memory) : State :=
  { base.setReg 0x40500 0x8000000000000000 with recovery := true, staging := staging }

theorem wit_Firmware :
    exec (.recgo 0x8000000000000000) base = .next base.wake ∧ exec .recgoCheckComplete base = .next base ∧
    (after (exec (.recgo 0x8000000000000002) { base with recovery := true })).map (fun t => (t.reg 0x40500, t.recovery)) =
      some (0x8000000000000002, true) ∧
    exec (.recgo 0x8000000000000000) (machRec []) = .next (machRec []).wake ∧
    checkImage [] base.keyDigest base.fusedSvn = none ∧ base.keyDigest.length = 32 ∧
    (∃ bs, exec (.attestationRequest 5) base = .next { base with out := base.out ++ [.report (bs ++ Config.attestSignature bs)] }) := by
  refine ⟨rfl, rfl, by decide, rfl, by decide, rfl, _, rfl⟩

/-- What follows an image changes nothing about it. -/
theorem checkImage_append (bs x d : List Byte) (f : BitVec 32) (im : Image) (h : checkImage bs d f = some im) :
    checkImage (bs ++ x) d f = some im := by
  have part (o n : Nat) (hn : o + n ≤ bs.length) : ((bs ++ x).drop o).take n = (bs.drop o).take n := by
    rw [List.drop_append_of_le_length (by omega), List.take_append_of_le_length (by simp; omega)]
  have hl : natOfBytes ((bs.drop 8).take 8) + 0x100 ≤ bs.length := by
    refine Decidable.byContradiction fun hc => ?_
    simp [checkImage, hc] at h
  unfold checkImage at h ⊢
  simp only [part 0 4 (by omega), part 4 4 (by omega), part 8 8 (by omega), part 0x10 57 (by omega),
    part 0x49 114 (by omega), part 0x100 _ (by omega : 0x100 + natOfBytes ((bs.drop 8).take 8) ≤ bs.length)]
  rw [← h]
  simp [hl, show natOfBytes ((bs.drop 8).take 8) + 0x100 ≤ bs.length + x.length by omega]


/-- A firmware image of version 7 whose body is four bytes; its key is that of RFC 8032's first Ed448 vector. -/
def imageK : List Byte :=
  bytesOfNat 4 0x57464B59 ++ bytesOfNat 4 7 ++ bytesOfNat 8 4 ++
    bytesOfNat 57 0x806125e8afbe1afad16c0fe5f13d78d61b06c7469b7624f1ed7867e9805da70e8a1f0ea7852434a11d6ad46a61ec87e72cfd61b4599b44d75f ++
    bytesOfNat 114 0x8e3fd8c39b9da0a8938510dcc2109522b1b42648e42cb056eeb1b2da00afc68bd2b1a95ebe367cc1aadfed2e0bcc8edb3fdc1bc51f1807e806685672140680892ae06ac92e14a5a045daad50dc2502b1dbc6bbe3445a1db2052b2ea84731866474bfbddf8c4cd6d43b72725168bf37e71 ++
    List.replicate 69 0 ++ [1, 2, 3, 4]

/-- SHAKE256 of that key. -/
def digestK : List Byte := bytesOfNat 32 0x11c30055b64084fc23c6440442d53d87a8b0078d99f1afa90280c69372d2492a

theorem wit_Firmware_image :
    checkImage imageK digestK 7 = some ⟨7, [1, 2, 3, 4]⟩ ∧ checkImage imageK digestK 8 = none := by decide +kernel

/-- The package that checks that image. -/
def machImg : State := { machRec (Memory.writeN [] 0 imageK) with keyDigest := digestK, fusedSvn := 7 }

theorem staged_imageK : Memory.readN (Memory.writeN [] 0 imageK) 0 260 = imageK := by decide +kernel

theorem wit_Firmware_check : machImg.recovery = true ∧ (machImg.reg 0x40500).getLsbD 63 = true ∧
    checkImage (Memory.readN machImg.staging 0 0x4000000) machImg.keyDigest machImg.fusedSvn = some ⟨7, [1, 2, 3, 4]⟩ := by
  refine ⟨rfl, by decide, ?_⟩
  have h := checkImage_append imageK (Memory.readN (Memory.writeN [] 0 imageK) 260 0x3FFFEFC) digestK 7 _
    wit_Firmware_image.1
  rw [← staged_imageK] at h
  rw [show (0x4000000 : Nat) = 260 + 0x3FFFEFC from rfl, Memory.readN_add]
  exact h

theorem wit_Resets : ∃ t u, exec (.coldReset true) base = .next t ∧ exec .warmReset base = .next u := ⟨_, _, rfl, rfl⟩

/-- Port 3, up, with flit `f` due and one of its own unacknowledged. -/
def port3 : Port :=
  { base.port 3 with num := 3, state := .up, expSeq := 5, sendSeq := 8, sent := [⟨flitOf ⟨7, 4, 0, true, true⟩ [], 0, none⟩] }

/-- The machine with it. -/
def machPo (p : Port := port3) : State := ((base.setReg 0x40300 9).setPort p)

/-- A link flit of one payload byte, its number and acknowledgment, on channel 2: no transaction is in it yet. -/
def flitR (seq ack : BitVec 12) : Flit := flitOf ⟨seq, ack, 2, true, false⟩ [1]

/-- What a flit leaves. -/
def flitSeen (o : Host.Outcome State Fault Refusal) : Option (BitVec 12 × Nat × List Message) :=
  (after o).map fun t => ((t.port 3).expSeq, (t.port 3).sent.length, t.out)

theorem wit_Links :
    flitSeen (exec (.flitReceive 3 (flitR 5 7)) machPo) = some (6, 0, []) ∧
    flitSeen (exec (.flitReceive 3 (flitR 4 6)) machPo) = some (5, 1, []) ∧
    flitSeen (exec (.flitReceive 3 (flitR 6 6)) machPo) = some (5, 1, [.flit 3 (nakFlit 5)]) ∧
    flitSeen (exec (.flitReceive 3 { flitR 5 7 with crc := 0 }) machPo) = some (5, 1, [.flit 3 (nakFlit 5)]) ∧
    flitSeen (exec (.flitReceive 3 (flitR 6 6)) (machPo { port3 with nakSent := true })) = some (5, 1, []) := by decide

theorem wit_Links_naks :
    flitSeen (exec (.flitReceive 3 (nakFlit 8)) machPo) = some (5, 0, []) ∧
    flitSeen (exec (.flitReceive 3 (nakFlit 7)) machPo) =
      some (5, 1, [.flit 3 (flitOf ⟨7, 4, 0, true, true⟩ [])]) ∧
    (after (exec (.flitNak 3 5) machPo)).map (fun t => (t.out.length, (t.port 3).sent.map fun x => x.replays,
      t.reg (fpstatKey 3))) = some (1, [1], 1) := by decide

/-- Port 3 whose flit has been replayed 8 times. -/
def port8 : Port := { port3 with sent := port3.sent.map fun x => { x with replays := 8 } }

theorem wit_Links_replays :
    exec (.replayTimeout 3) { machPo with timebase := 999 } = .next { machPo with timebase := 999 } ∧
    (after (exec (.replayTimeout 3) { machPo with timebase := 1000 })).map (fun t => t.out.length) = some 1 ∧
    ({ machPo port8 with timebase := 1000 } : State).portLost port8 = true ∧
    exec (.replayTimeout 3) { machPo port8 with timebase := 1000 } = .next { machPo port8 with timebase := 1000 } ∧
    (after (exec (.portDown 3) machPo)).map (fun t => ((t.port 3).state, (t.port 3).sent, (t.port 3).downAt)) =
      some (.training, [], some 0) := by
  refine ⟨rfl, by decide, rfl, rfl, by decide⟩

theorem wit_Links_trains :
    (let p := { port3 with state := .training, downAt := some 1 }
     (after (exec (.portRetrainTimeout 3) { machPo p with timebase := 10000001 })).map (fun t => (t.port 3).state) = some .failed ∧
     exec (.portRetrainTimeout 3) { machPo p with timebase := 10000000 } = .next { machPo p with timebase := 10000000 } ∧
     (after (exec (.fabricPortUp 3) (machPo p))).map (fun t => ((t.port 3).state, (t.port 3).expSeq)) = some (.up, 0)) ∧
    exec (.fabricPortUp 3) machPo = .next machPo ∧ exec (.flitNak 3 5) base = .next base.wake := by
  refine ⟨⟨by decide, rfl, by decide⟩, rfl, rfl⟩

/-- Port 3 with the reply of virtual device 4 under way on channel 1 and its request waiting, and a reply of virtual
device 5 behind it. -/
def portQ : Port :=
  { port3 with queue := [⟨4, 1, none, true, [[1], [2]]⟩, ⟨5, 1, none, false, [[3]]⟩, ⟨4, 0, some 77, false, [[4]]⟩] }

/-- A flit that was sent: its port, its header word, its first payload byte. -/
def flitOut : Message → Option (BitVec 4 × BitVec 32 × Option Byte)
  | .flit n f => some (n, f.hdr, f.payload.head?)
  | .msix _ _ | .pri _ _ _ | .report _ => none

theorem wit_Links_sends :
    portQ.nextOf 4 = some ⟨4, 1, none, true, [[1], [2]]⟩ ∧ portQ.nextOf 5 = none ∧
    (after (exec (.tokenArbitration 6 3 [4]) (machPo portQ))).map (fun t => ((t.port 3).sendSeq,
      (t.port 3).queue.map fun x => x.rest)) = some (9, [[[2]], [[3]], [[4]]]) ∧
    (after (exec (.tokenArbitration 6 3 [4]) (machPo portQ))).map (fun t => t.out.map flitOut) =
      some [some (3, 0x00800420, some 1)] ∧
    (let q := { portQ with queue := [⟨4, 0, some 77, false, [[4]]⟩] }
     (({ machPo q with txns := [⟨77, .read, 1, 1, 3, 0, 4, none⟩] } : State).sendFlit 3 4).txns.map fun x => x.deadline) =
      [some 5000000] ∧
    (machPo { portQ with state := .training }).sendFlit 3 4 = machPo { portQ with state := .training } ∧
    ((after (exec (.portDown 3) { machPo portQ with txns := [⟨77, .read, 1, 1, 3, 0, 4, none⟩] })).map fun t => t.txns) =
      some [] := by
  refine ⟨by decide, by decide, by decide, by decide, by decide, rfl, by decide⟩

/-- The machine whose export 2 is the line at `placeVa`, for every peer, with permissions `perm`. -/
def machEx (perm : DWord) : State :=
  let s := ((base.setReg 0x40300 9).setReg 0x48040 0x100000000).setReg 0x48048 128
  { s.setReg 0x48050 (0x10080000000 ||| perm <<< 8) with home := [lineM] }

/-- A transaction of `len` bytes at `off` of export 2. -/
def txn (off : DWord) (len : BitVec 32) (data : List Byte := []) : Txn := ⟨0, 4, 9, 2, 0, 77, len, off, data, 3⟩

/-- What a request leaves: the line's first bytes, the count of refusals, and the kind of the transaction port 3 is to
send. -/
def answered (o : Host.Outcome State Fault Refusal) : Option (List (List Byte) × DWord × List (Option Byte)) :=
  (after o).map fun t => (t.home.map fun h => h.bytes.take 6, t.reg 0x40310, (t.port 3).queue.map fun x =>
    (x.rest.headD []).head?)

/-- The machine with a port to peer 4. -/
def machEp (perm : DWord) : State :=
  { ((machEx perm).setReg 0x60020 8).setPort { port3 with sent := [] } with parts := [⟨0, 1, 1, 1, 8⟩] }

theorem wit_FabricRequests :
    (machEx 0x87).fabId = 9 ∧ (machEp 0x87).portServes 3 0 = true ∧ (machEp 0x87).usablePorts 0 4 = [3] ∧
    (machEx 0x87).exportOf 2 = ⟨0x100000000, 128, 0, 0x87, 0x8000, 0, true⟩ ∧
    exec (.fabricRead (txn 0 0)) (machEx 0x87) = .next (machEx 0x87) ∧
    answered (exec (.fabricRead (txn 4 4)) (machEp 0x87)) = some ([[0, 1, 2, 3, 4, 5]], 0, [some 5]) ∧
    answered (exec (.fabricWrite (txn 4 2 [0xAA, 0xBB])) (machEp 0x87)) = some ([[0, 1, 2, 3, 0xAA, 0xBB]], 0, [some 6]) ∧
    answered (exec (.fabricWrite (txn 4 2 [0xAA, 0xBB])) (machEp 0x85)) = some ([[0, 1, 2, 3, 4, 5]], 1, [some 7]) ∧
    answered (exec (.fabricRead (txn 127 2)) (machEp 0x87)) = some ([[0, 1, 2, 3, 4, 5]], 1, [some 7]) := by
  refine ⟨by decide, rfl, by decide, by decide, rfl, by decide, by decide, by decide, by decide⟩

/-- A copy of 64 bytes with a read of another package under way, due by 10. -/
def machTx (kind : TxnKind) : State :=
  { machC gO (blkO { op0 with state := .moving, txns := [77] }) with txns := [⟨77, kind, 1, 1, 3, 0, 4, some 10⟩] }

theorem wit_FabricReplies :
    exec (.fabricReadData (txn 0 4 [1])) base = .next base ∧
    ((after (exec (.fabricReadData (txn 0 4 [7, 8, 9, 10])) (machTx .read))).map fun t => (t.txns, (t.block? 1).map fun b =>
      (b.chan 1).queue.map fun x => (x.txns, x.buf.take 4))) = some ([], some [([], [7, 8, 9, 10])]) ∧
    ((after (exec (.fabricAck (txn 0 4)) (machTx .write))).map fun t => (t.txns, (t.block? 1).map fun b =>
      (b.chan 1).queue.map fun x => x.txns)) = some ([], some [[]]) ∧
    exec (.fabricDeadlineExpiry 77) { machTx .read with timebase := 10 } = .next { machTx .read with timebase := 10 } ∧
    ((after (exec (.fabricDeadlineExpiry 77) { machTx .read with timebase := 11 })).map fun t => t.txns) = some [] ∧
    ((after (exec (.fabricRefusal (txn 0 4)) (machTx .read))).map fun t => t.txns) = some [] := by
  refine ⟨rfl, by decide, by decide, rfl, by decide, by decide⟩

theorem wit_FabricRequests_waits :
    answered (exec (.fabricRead (txn 4 4)) ((machEp 0x87).setPort { (machEp 0x87).port 3 with
      queue := List.replicate 40 ⟨5, 1, none, false, [[3]]⟩ })) =
      some ([[0, 1, 2, 3, 4, 5]], 0, List.replicate 40 (some 3) ++ [some 5]) := by decide

theorem wit_HostAccesses :
    exec (.registerWrite 0 4 1) base = .next base.wake ∧
    ((after (exec (.registerWrite 0 0x28 0x1FFFFFFFF) base)).map fun t => t.reg (dieKey 0 0x28)) = some 0xFFFFFFFF ∧
    exec (.physWindowAccess 8 none) base = .next base.wake ∧
    ((after (exec (.physWindowAccess 8 (some 0x0102)) base)).map fun t =>
      (Memory.read t.mem 8, Memory.read t.mem 9, Memory.read t.mem 16)) = some (2, 1, 0) ∧
    ((after (exec (.physWindowAccess 0x4000000 (some 1)) (machRec []))).map fun t => t.staging) = some [] := by
  refine ⟨rfl, by decide, rfl, by decide, by decide⟩

/-- The virtual functions enabled, queue 5 virtual device 3's. -/
def machVf : State := { (machK []).setReg (queueKey 5 0) 0x8000000000000003 with vfEnable := true }

theorem wit_HostAccesses_functions :
    exec (.registerWrite 3 0x200 0x5000) base = .next base.wake ∧
    exec (.registerWrite 3 0x210 1) machVf = .next machVf.wake ∧
    exec (.registerWrite 2 0x10160 1) machVf = .next machVf.wake ∧
    machVf.qVd 5 = 3 ∧ exec (.registerWrite 3 0x10160 1) machVf = exec (.qdoorWrite 5 1) machVf := by
  refine ⟨rfl, rfl, rfl, by decide, rfl⟩

theorem wit_HostAccesses_writes :
    ((after (exec (.registerWrite 3 0x200 0x5000) machVf)).map fun t => t.reg (vdKey 3 0x200)) = some 0x5000 ∧
    ((after (exec (.registerWrite 3 0x108 7) machVf)).map fun t => t.reg (vdKey 3 0x108)) = some 7 := by
  refine ⟨by decide, by decide⟩

end Sys2Proof.Tests
end

section
/-!
What canonical form is kept by: the block updates, the folds and the primitive updates of the state.
-/
namespace Sys2Proof.Machine

/-! ### Memories, blocks and lists -/

/-- A block's tile and scratch memory are in canonical form. -/
def Block.Canonical (b : Block) : Prop := Memory.wf b.tile = true ∧ Memory.wf b.scr = true

theorem Block.Canonical.ite {c : Prop} [Decidable c] {b b' : Block} (h : b.Canonical) (h' : b'.Canonical) :
    (if c then b else b').Canonical := by
  split
  · exact h
  · exact h'

theorem Memory.wf_filter {m : Memory} (h : Memory.wf m = true) (p : Host.Cell → Bool) :
    Memory.wf (m.filter p) = true := by
  rw [Memory.wf_iff] at *; exact Memory.above_filter h p

theorem mem_replaceFirst {α : Type} {p : α → Bool} {x y : α} {l : List α}
    (h : y ∈ replaceFirst p (fun _ => x) l) : y = x ∨ y ∈ l := by
  induction l with
  | nil => exact .inr h
  | cons z t ih =>
    simp only [replaceFirst] at h
    split at h
    · exact (List.mem_cons.1 h).imp_right fun h => List.mem_cons_of_mem _ h
    · rcases List.mem_cons.1 h with rfl | h
      · exact .inr List.mem_cons_self
      · exact (ih h).imp_right fun h => List.mem_cons_of_mem _ h

theorem Block.Canonical.giveBack {b : Block} {x : Grant} (h : b.Canonical) : (b.giveBack x).Canonical := by
  unfold Block.giveBack; split <;> exact h

theorem Block.Canonical.granted {b : Block} {r : ReeveReq} (h : b.Canonical) : (b.granted r).Canonical := by
  unfold Block.granted; split <;> exact h

theorem Block.Canonical.takeUp {b : Block} {ty : RType} {n : Nat} (h : b.Canonical) :
    (b.takeUp ty n).Canonical := by
  cases ty with
  | reg | eng => exact h
  | tile => exact ⟨Memory.wf_below h.1 _, h.2⟩
  | scr => exact ⟨h.1, Memory.wf_below h.2 _⟩

theorem Block.Canonical.releaseTo {b : Block} {ty : RType} {n : Nat} (h : b.Canonical) :
    (b.releaseTo ty n).Canonical := by
  cases ty with
  | reg | eng => exact h
  | tile => exact ⟨Memory.wf_below h.1 _, h.2⟩
  | scr => exact ⟨h.1, Memory.wf_below h.2 _⟩

theorem Block.Canonical.requestStop {b : Block} {why} (h : b.Canonical) : (b.requestStop why).Canonical := by
  unfold Block.requestStop; split <;> exact h

/-- New bytes in a block's tile memory. -/
theorem Block.Canonical.writeTile {b : Block} {a : Nat} {bs : List Byte} (h : b.Canonical) :
    Block.Canonical { b with tile := Memory.writeN b.tile a bs } := ⟨Memory.wf_writeN h.1 _ _, h.2⟩

theorem keptScratch_wf {m : Memory} {notes} (h : Memory.wf m = true) : Memory.wf (keptScratch m notes) = true := by
  unfold keptScratch
  split
  · exact h
  · exact Memory.wf_filter h _

/-! ### Canonical states

An update of a field that `State.Canonical` does not speak of needs no lemma: the two statements are the same by
unfolding. -/

namespace State.Canonical
variable {s t : State} {b : Block}

theorem of_mem_blocks (h : s.Canonical) (hb : b ∈ s.blocks) : b.Canonical := h.2.2.2 b hb

theorem block? {n : Nat} (h : s.Canonical) (hb : s.block? n = some b) : b.Canonical :=
  h.of_mem_blocks (List.mem_of_find?_eq_some hb)

/-- The state of a pair that is known by an equation. -/
theorem snd {α : Type} {x : α × State} {a : α} (h : x.2.Canonical) (hx : x = (a, t)) : t.Canonical := by
  subst hx; exact h

/-- The state of a triple that is known by an equation. -/
theorem thd {α β : Type} {x : α × β × State} {a : α} {b : β} (h : x.2.2.Canonical) (hx : x = (a, b, t)) :
    t.Canonical := by
  subst hx; exact h

theorem ite {c : Prop} [Decidable c] (h : s.Canonical) (ht : t.Canonical) :
    (if c then s else t).Canonical := by
  split
  · exact h
  · exact ht

theorem foldl {α : Type} {f : State → α → State} {l : List α} (h : s.Canonical)
    (hf : ∀ t x, t.Canonical → (f t x).Canonical) : (l.foldl f s).Canonical :=
  List.foldlRecOn l f h fun t ht x _ => hf t x ht

/-- The same with a second result beside the state. -/
theorem foldlSnd {α β : Type} {f : β × State → α → β × State} {l : List α} {y : β} (h : s.Canonical)
    (hf : ∀ (z : β × State) (x : α), z.2.Canonical → (f z x).2.Canonical) : (l.foldl f (y, s)).2.Canonical :=
  List.foldlRecOn (motive := fun z : β × State => z.2.Canonical) l f h fun z hz x _ => hf z x hz

/-- New memory in canonical form. -/
theorem setMem {m : Memory} (h : s.Canonical) (hm : Memory.wf m = true) :
    State.Canonical { s with mem := m } := ⟨hm, h.2⟩

/-- A new staging window in canonical form. -/
theorem setStaging {m : Memory} (h : s.Canonical) (hm : Memory.wf m = true) :
    State.Canonical { s with staging := m } := ⟨h.1, h.2.1, hm, h.2.2.2⟩

/-- New blocks in canonical form. -/
theorem setBlocks {bs : List Block} (h : s.Canonical) (hb : ∀ b ∈ bs, b.Canonical) :
    State.Canonical { s with blocks := bs } := ⟨h.1, h.2.1, h.2.2.1, hb⟩

/-- Blocks changed one by one. -/
theorem mapBlocks {f : Block → Block} (h : s.Canonical) (hf : ∀ b : Block, b.Canonical → (f b).Canonical) :
    State.Canonical { s with blocks := s.blocks.map f } :=
  h.setBlocks fun b hb => by
    obtain ⟨x, hx, rfl⟩ := List.mem_map.1 hb
    exact hf x (h.of_mem_blocks hx)

theorem setBlock (h : s.Canonical) (hb : b.Canonical) : (s.setBlock b).Canonical :=
  h.setBlocks fun x hx => by
    rcases mem_replaceFirst hx with rfl | hx
    · exact hb
    · exact h.of_mem_blocks hx

theorem setGroup {g} (h : s.Canonical) : (s.setGroup g).Canonical := h

theorem setGrid {g} (h : s.Canonical) : (s.setGrid g).Canonical := h

theorem setVdev {d} (h : s.Canonical) : (s.setVdev d).Canonical := h

theorem setCore {k} (h : s.Canonical) : (s.setCore k).Canonical := h

theorem setCluster {k} (h : s.Canonical) : (s.setCluster k).Canonical := h

theorem newId (h : s.Canonical) : s.newId.2.Canonical := h

theorem setReg {k v} (h : s.Canonical) : (s.setReg k v).Canonical := ⟨h.1, RegBank.wf_write h.2.1 _ _, h.2.2⟩

theorem bumpReg {k} (h : s.Canonical) : (s.bumpReg k).Canonical := h.setReg

theorem setKz {vd o v} (h : s.Canonical) : (s.setKz vd o v).Canonical := h.setReg

theorem trLose {vd} (h : s.Canonical) : (s.trLose vd).Canonical := h.setReg

theorem writeMem {a bs} (h : s.Canonical) : State.Canonical { s with mem := Memory.writeN s.mem a bs } :=
  h.setMem (Memory.wf_writeN h.1 _ _)

/-- New bytes in the staging window. -/
theorem writeStaging {a bs} (h : s.Canonical) :
    State.Canonical { s with staging := Memory.writeN s.staging a bs } := by
  have ⟨_, _, hs, _⟩ := h
  exact h.setStaging (Memory.wf_writeN hs _ _)

theorem writeMemMarked {a bs} (h : s.Canonical) :
    State.Canonical { s with mem := Memory.writeMarked s.mem a bs } :=
  h.setMem (Memory.wf_writeMarked h.1 _ _)

theorem raiseHalt {v fdom clock host} (h : s.Canonical) : (s.raiseHalt v fdom clock host).Canonical := by
  dsimp only [State.raiseHalt]
  split
  · exact h
  · split <;> exact h

theorem returnPermits {core n} (h : s.Canonical) : (s.returnPermits core n).Canonical :=
  h.foldl fun _ _ h => h

end State.Canonical
end Sys2Proof.Machine
end

section
namespace Sys2Proof.Machine
namespace State.Canonical
variable {s t : State} {b : Block}

/-! ### Lines, homes and caches -/

theorem putElem {die pfn e q} (h : s.Canonical) : (s.putElem die pfn e q).Canonical :=
  h.setMem (List.foldlRecOn (motive := fun m : Memory => Memory.wf m = true) _ _ h.1
    fun _ hm _ _ => Memory.wf_write hm _ _)

theorem writeBack {x} (h : s.Canonical) : (s.writeBack x).Canonical := by
  dsimp only [State.writeBack]
  split
  · exact h.writeMemMarked
  · exact h.foldl fun t i ht => ht.putElem.ite ht

theorem translate {die vd va l} (h : s.Canonical) (e : s.translate die vd va = .ok (l, t)) : t.Canonical := by
  simp only [State.translate] at e
  split at e
  · split at e
    · nomatch e
    · cases e; exact h
  · split at e
    · cases e; exact h
    · nomatch e

theorem ats {vd vpn} (h : s.Canonical) : (s.ats vd vpn).2.2.Canonical := by
  unfold State.ats
  split
  · exact h
  · exact ite h h

theorem atsForced {vd vpn} (h : s.Canonical) : (s.atsForced vd vpn).2.Canonical := h.ats.ite h.ats

theorem freshen {k bs m} (h : s.Canonical) : (s.freshen k bs m).Canonical := h

theorem freshenHost {vd va bs} (h : s.Canonical) : (s.freshenHost vd va bs).Canonical := ite h h

theorem hostWrite {vd va bs} (h : s.Canonical) : (s.hostWrite vd va bs).Canonical :=
  h.atsForced.freshenHost.writeMem

theorem bankWrite {k bs m} (h : s.Canonical) : (s.bankWrite k bs m).Canonical := by
  unfold State.bankWrite
  split
  · split
    · have hx := h.block? ‹_›
      exact h.setBlock ⟨hx.1, Memory.wf_below (Memory.wf_writeMarked hx.2 _ _) _⟩
    · exact h
  · split
    · have hx := h.block? ‹_›
      exact h.setBlock ⟨Memory.wf_below (Memory.wf_writeMarked hx.1 _ _) _, hx.2⟩
    · exact h
  · exact h

theorem dropHome {x} (h : s.Canonical) : (s.dropHome x).Canonical := h

theorem enterL2 {x} (h : s.Canonical) : (s.enterL2 x).Canonical := by
  dsimp only [State.enterL2]
  split
  · exact h
  · split <;> exact h

theorem setHome {x} (h : s.Canonical) : (s.setHome x).Canonical := by
  dsimp only [State.setHome]
  split
  · split
    · exact h
    · exact h.enterL2
  · split
    · exact h.enterL2
    · split
      · exact h.writeBack.dropHome.enterL2
      · exact h.writeBack

theorem homeFetch {die vd va x} (h : s.Canonical) (e : s.homeFetch die vd va = .ok (x, t)) : t.Canonical := by
  simp only [State.homeFetch] at e
  split at e
  · cases e; exact h.setHome
  · split at e
    · nomatch e
    · cases e; exact (h.translate ‹_›).setHome

theorem arriveLine {k bs m l} (h : s.Canonical) : (s.arriveLine k bs m l).Canonical := by
  unfold State.arriveLine
  split
  · dsimp only
    split
    · exact h.freshen.setHome
    · exact h.freshen
  · exact h.atsForced.writeMemMarked
  all_goals exact State.Canonical.bankWrite h

theorem deviceWrite {vd va bs} (h : s.Canonical) (e : s.deviceWrite vd va bs = some t) : t.Canonical := by
  simp only [State.deviceWrite] at e
  split at e
  · nomatch e
  · split at e
    · nomatch e
    · cases e; exact (h.homeFetch ‹_›).arriveLine

theorem saveArea {vd va bs} (h : s.Canonical) (e : s.saveArea vd va bs = some t) : t.Canonical := by
  simp only [State.saveArea] at e
  split at e
  · nomatch e
  · split at e
    · nomatch e
    · split at e
      · cases e; exact h.homeFetch ‹_›
      · cases e; exact (h.homeFetch ‹_›).arriveLine

theorem countRefusal {die vd a va n} (h : s.Canonical) : (s.countRefusal die vd a va n).Canonical := by
  dsimp only [State.countRefusal]
  split
  · exact h.bumpReg
  · exact h

theorem deviceRead {vd va n bs} (h : s.Canonical) (e : s.deviceRead vd va n = some (bs, t)) : t.Canonical := by
  induction n generalizing s va bs with
  | zero => cases e; exact h
  | succ n ih =>
    simp only [State.deviceRead] at e
    split at e
    · nomatch e
    · split at e
      · nomatch e
      · split at e
        · cases e; exact ih (h.homeFetch ‹_›) ‹_›
        · nomatch e

theorem deviceWriteN {die vd n va bs} (h : s.Canonical) : (s.deviceWriteN die vd n va bs).Canonical := by
  induction n generalizing s va bs with
  | zero => exact h
  | succ n ih =>
    simp only [State.deviceWriteN]
    split
    · exact h
    · refine ih ?_
      split
      · exact h.deviceWrite ‹_›
      · exact h.countRefusal

theorem setL1 {x} (h : s.Canonical) : (s.setL1 x).Canonical := by
  dsimp only [State.setL1]
  split
  · exact h
  · split <;> exact h

theorem setRdc {x} (h : s.Canonical) : (s.setRdc x).Canonical := by
  dsimp only [State.setRdc]
  split
  · exact h
  · split
    · exact h
    · split <;> exact h

theorem send {who die vd a k hidx} (h : s.Canonical) : (s.send who die vd a k hidx).2.Canonical := ite h h

theorem askRemote {st p hidx a k} (h : s.Canonical) : (s.askRemote st p hidx a k).2.2.Canonical := by
  dsimp only [State.askRemote]
  split
  · exact h
  · split
    · exact h
    · exact State.Canonical.send h

theorem belowMem {st p hidx a home vd la} (h : s.Canonical) :
    (s.belowMem st p hidx a home vd la).2.2.Canonical := by
  dsimp only [State.belowMem]
  split
  · split
    · exact h.homeFetch ‹_›
    · exact h
    · exact h
  · split
    · exact h.askRemote
    · split
      · exact h.setRdc
      · exact h.askRemote
    · exact h.askRemote

theorem hostLine {a vd la} (h : s.Canonical) : (s.hostLine a vd la).2.Canonical := by
  dsimp only [State.hostLine]
  split
  · exact h.ats
  · split <;> exact h.ats

theorem belowHost {st p hidx a vd la} (h : s.Canonical) : (s.belowHost st p hidx a vd la).2.2.Canonical := by
  unfold State.belowHost
  split
  · exact h.hostLine
  · exact h.askRemote

theorem belowBank {st p hidx a blk k} (h : s.Canonical) : (s.belowBank st p hidx a blk k).2.2.Canonical := by
  unfold State.belowBank
  split
  · exact h
  · split
    · exact h
    · exact h.askRemote

theorem below {st p hidx a k} (h : s.Canonical) : (s.below st p hidx a k).2.2.Canonical := by
  cases k with
  | mem => exact h.belowMem
  | host => exact h.belowHost
  | scr | tile => exact h.belowBank

theorem confirmRead {st p hidx k} (h : s.Canonical) : (s.confirmRead st p hidx k).2.2.Canonical := by
  unfold State.confirmRead
  split
  · split
    · exact h.below
    · split
      · exact h
      · split
        · exact (h.below.thd ‹_›).setL1.ite (h.below.thd ‹_›)
        · exact h.below
  · split
    · exact (h.below.thd ‹_›).setL1.ite (h.below.thd ‹_›)
    · exact h.below

theorem confirmWrite {st p hidx k} (h : s.Canonical) : (s.confirmWrite st p hidx k).2.2.Canonical := by
  unfold State.confirmWrite
  split
  · split
    · exact h
    · exact h.below
  · exact h.below

theorem confirm {st p hidx a k} (h : s.Canonical) : (s.confirm st p hidx a k).2.2.Canonical := by
  unfold State.confirm
  split
  · exact h
  · cases a with
    | read => exact h.confirmRead
    | write => exact h.confirmWrite
    | atomic | fetch => exact h.below

theorem confirmAll {st p r a las} (h : s.Canonical) : (s.confirmAll st p r a las).2.2.Canonical := by
  induction las generalizing s p with
  | nil => exact h
  | cons la las ih => exact ih h.confirm

theorem acquire {st sc conc} (h : s.Canonical) : (s.acquire st sc conc).Canonical := by
  cases sc <;> exact h

theorem acquireFor {st g sc conc} (h : s.Canonical) : (s.acquireFor st g sc conc).2.Canonical := h.acquire

theorem passRdc {die e} (h : s.Canonical) : (s.passRdc die e).Canonical := by
  dsimp only [State.passRdc]
  split
  · exact State.Canonical.setRdc h
  · exact h

theorem drainEntry {core g e} (h : s.Canonical) : (s.drainEntry core g e).Canonical := h.setL1.passRdc

theorem trimL1 {k} (h : s.Canonical) : (s.trimL1 k).Canonical := h.ite h

theorem arrive {f} (h : s.Canonical) : (s.arrive f).Canonical :=
  trimL1 (s := { s.arriveLine _ _ _ _ with flight := _, rdc := _ }) h.arriveLine

theorem clearL1 {core} (h : s.Canonical) : (s.clearL1 core).Canonical := h.foldl fun _ _ h => h.arrive

theorem saveCounters {g} (h : s.Canonical) : (s.saveCounters g).Canonical := by
  unfold State.saveCounters
  split
  · exact h
  · split
    · exact h
    · split
      · exact h
      · split
        · exact h.deviceWrite ‹_›
        · exact h.countRefusal

theorem ackStore {f} (h : s.Canonical) : (s.ackStore f).Canonical := by
  dsimp only [State.ackStore]
  split
  · exact h
  · exact State.Canonical.saveCounters h

/-- Other stores on their way. -/
theorem addFlight {l} (h : s.Canonical) : State.Canonical { s with flight := l } := h

theorem landDrained {hit} (h : s.Canonical) : (s.landDrained hit).Canonical := h.foldl fun _ _ h => h.arrive

theorem landStores {hit} (h : s.Canonical) : (s.landStores hit).Canonical := by
  refine h.landDrained.foldl fun t g ht => ht.foldl fun u e hu => ?_
  split
  · exact hu
  · dsimp only
    have hf {g l f} : (State.arrive { u.setGroup g with flight := l } f).Canonical := hu.setGroup.addFlight.arrive
    exact hf.ackStore.ite hf

theorem dropLines {hit keep} (h : s.Canonical) : (s.dropLines hit keep).Canonical :=
  show State.Canonical (if keep then _ else s) from (h.foldl fun _ _ h => h.writeBack).ite h

theorem recall' {hit} (h : s.Canonical) : (s.recall hit).Canonical := h

theorem cleanLines {hit} (h : s.Canonical) : (s.cleanLines hit).Canonical :=
  h.foldl fun _ _ h => h.writeBack.setHome

/-! ### Event records and faults -/

theorem putEvent {vd e} (h : s.Canonical) : (s.putEvent vd e).Canonical := h.hostWrite.setReg

theorem event {vd ty q code bs} (h : s.Canonical) : (s.event vd ty q code bs).Canonical := by
  dsimp only [State.event]
  split
  · exact State.Canonical.putEvent h
  · split <;> exact h

theorem faultEvent {vd bs} (h : s.Canonical) : (s.faultEvent vd bs).Canonical := h.event.ite h

theorem drainEvents {vd n} (h : s.Canonical) : (s.drainEvents vd n).Canonical := by
  induction n generalizing s with
  | zero => exact h
  | succ n ih =>
    simp only [State.drainEvents]
    split
    · split
      · exact ih (State.Canonical.putEvent h)
      · exact h
    · split
      · split
        · exact ih (State.Canonical.event h)
        · exact h
      · exact h

theorem sendFault {vd entry va pc lanes wh bits owner} (h : s.Canonical) :
    (s.sendFault vd entry va pc lanes wh bits owner).2.Canonical := State.Canonical.faultEvent h

theorem sendFaults {b g slot pc idx host a l} (h : s.Canonical) :
    (s.sendFaults b g slot pc idx host a l).2.Canonical := by
  induction l generalizing s with
  | nil => exact h
  | cons x l ih =>
    obtain ⟨page, va, lanes⟩ := x
    refine ih (s := (if host then _ else _ : Word × State).2) ?_
    split
    · exact h
    · exact h.sendFault

theorem entriesFor {hidx bs rs} (h : s.Canonical) : (s.entriesFor hidx bs rs).2.Canonical := by
  induction rs generalizing s with
  | nil => exact h
  | cons x rs ih => exact ih (s := s.newId.2) h

end State.Canonical
end Sys2Proof.Machine
end

section
namespace Sys2Proof.Machine

/-! ### Results -/

/-- A meaning that goes on goes on to a canonical state. -/
inductive Kept : Result → Prop
  | next {t : State} (h : t.Canonical) : Kept (.next t)
  | fault (r : Fault) : Kept (.fault r)
  | refused (r : Refusal) : Kept (.refused r)

variable {s : State} {g : Group}

theorem Kept.waking {k : Result} (h : Kept k) : Kept (waking k) := by
  cases h with
  | next h => exact .next h
  | fault r => exact .fault r
  | refused r => exact .refused r

theorem Kept.of_next {k : Result} {t : State} (h : Kept k) (e : k = .next t) : t.Canonical := by
  subst e; cases h; assumption

theorem Kept.ite {p : Prop} [Decidable p] {k k' : Result} (h : Kept k) (h' : Kept k') :
    Kept (if p then k else k') := by
  split
  · exact h
  · exact h'

theorem kept_inService {k : Result} (h : s.Canonical) (hk : Kept k) : Kept (inService s k) := by
  unfold inService
  split
  · exact .next h
  · exact hk.waking

theorem kept_withPath {k : Cur → Group → Path → Result} (hk : ∀ c g p, Kept (k c g p)) :
    Kept (withPath s k) := by
  unfold withPath
  split
  · constructor
  · split
    · constructor
    · split
      · constructor
      · exact hk _ _ _

theorem kept_withBlock {k : Block → Grid → Result} (h : s.Canonical)
    (hk : ∀ b gr, b.Canonical → Kept (k b gr)) : Kept (withBlock s g k) := by
  unfold withBlock
  split
  · constructor
  · split
    · constructor
    · exact hk _ _ (h.block? ‹_›)

theorem kept_retire {c p} (h : s.Canonical) : Kept (retire s c g p) := .next h

theorem kept_stay {c p kind reason} (h : s.Canonical) : Kept (stay s c g p kind reason) := .next h

theorem kept_freeze {slot pc hdr cause lanes code addr} (h : s.Canonical) :
    Kept (s.freeze g slot pc hdr cause lanes code addr) :=
  kept_withBlock h fun _ _ _ => .next (State.Canonical.raiseHalt h)

theorem kept_fatal {c p cause lanes addr} (h : s.Canonical) : Kept (fatal s c g p cause lanes addr) :=
  kept_freeze h

theorem kept_deliver {c p cause lanes code pc hdr u} (h : s.Canonical) :
    Kept (deliver s c g p cause lanes code pc hdr u) := by
  refine kept_withBlock h fun b gr _ => ?_
  dsimp only
  split
  · exact kept_freeze h
  · split
    · exact kept_stay h
    · split
      · exact kept_freeze h
      · exact .next h

theorem kept_trapReturn {c p rest lanes} (h : s.Canonical) : Kept (trapReturn s c g p rest lanes) :=
  kept_withBlock h fun _ _ _ => .next (State.Canonical.ite h h)

theorem kept_guarded {n vs} {k : Cur → Group → Path → Word → Result} (h : s.Canonical)
    (hk : ∀ c g p e, Kept (k c g p e)) : Kept (guarded s n vs k) :=
  kept_withPath fun c g p => by
    split
    · exact kept_fatal h
    · exact hk _ _ _ _

theorem kept_transfer {c gm p t} (h : s.Canonical) : Kept (transfer s c g gm p t) := by
  unfold transfer
  split
  · exact kept_fatal h
  · exact .next h

theorem kept_commit {c p e w} (h : s.Canonical) : Kept (commit s c g p e w) := by
  unfold commit
  split
  · exact kept_retire h
  · exact kept_stay h

theorem kept_groupLevel {n vs} {k : Cur → Group → Path → Word → Result} (h : s.Canonical)
    (hk : ∀ c g p e, Kept (k c g p e)) : Kept (groupLevel s n vs k) :=
  kept_guarded h fun c g p e => by
    split
    · exact kept_retire h
    · exact hk _ _ _ _

theorem kept_completeWait {r} {k : Cur → Group → Path → WaitKind → Result} (h : s.Canonical)
    (hk : ∀ c g p w, Kept (k c g p w)) : Kept (completeWait s r k) := by
  unfold completeWait
  split
  · exact .next h
  · split
    · exact .next h
    · split
      · split
        · exact hk _ _ _ _
        · exact .next h
      · exact .next h

/-! ### Register-only instructions -/

theorem kept_scalar2 {o f} (h : s.Canonical) : Kept (scalar2 o f s) :=
  kept_groupLevel h fun _ _ _ _ => kept_commit h

theorem kept_scalar1 {o f} (h : s.Canonical) : Kept (scalar1 o f s) :=
  kept_groupLevel h fun _ _ _ _ => kept_commit h

theorem kept_vector2 {vv o f} (h : s.Canonical) : Kept (vector2 vv o f s) :=
  kept_guarded h fun _ _ _ _ => kept_commit h

theorem kept_vector1 {o f} (h : s.Canonical) : Kept (vector1 o f s) :=
  kept_guarded h fun _ _ _ _ => kept_commit h

theorem kept_vectorF2 {vv o f} (h : s.Canonical) : Kept (vectorF2 vv o f s) :=
  kept_guarded h fun _ _ _ _ => kept_commit h

theorem kept_vectorF3 {vv o f} (h : s.Canonical) : Kept (vectorF3 vv o f s) :=
  kept_guarded h fun _ _ _ _ => kept_commit h

theorem kept_vectorF1 {o f} (h : s.Canonical) : Kept (vectorF1 o f s) :=
  kept_guarded h fun _ _ _ _ => kept_commit h

theorem kept_vectorFcmp {vv cc o} (h : s.Canonical) : Kept (vectorFcmp vv cc o s) :=
  kept_guarded h fun _ _ _ _ => kept_commit h

theorem kept_vectorMad {vv o} (h : s.Canonical) : Kept (vectorMad vv o s) :=
  kept_guarded h fun _ _ _ _ => kept_commit h

theorem kept_vectorCmp {vv cc u o} (h : s.Canonical) : Kept (vectorCmp vv cc u o s) :=
  kept_guarded h fun _ _ _ _ => kept_commit h

theorem kept_vectorSel {vv o} (h : s.Canonical) : Kept (vectorSel vv o s) :=
  kept_guarded h fun _ _ _ _ => kept_commit h

theorem kept_permute {vv o f} (h : s.Canonical) : Kept (permute vv o f s) :=
  kept_guarded h fun _ _ _ _ => kept_commit h

theorem kept_predOp {o f} (h : s.Canonical) : Kept (predOp o f s) :=
  kept_guarded h fun _ _ _ _ => kept_commit h

/-! ### Branches -/

theorem kept_uniformBranch {o taken} (h : s.Canonical) : Kept (uniformBranch o taken s) :=
  kept_withPath fun c g p => by
    split
    · exact kept_transfer h
    · exact kept_retire h

theorem kept_indirect {o} (h : s.Canonical) : Kept (indirect o s) :=
  kept_withPath fun _ _ _ => kept_transfer h

theorem kept_execBrs {cc o} (h : s.Canonical) : Kept (execBrs cc o s) :=
  kept_withPath fun c g p => by
    dsimp only
    split
    · exact kept_retire h
    · split
      · exact kept_transfer h
      · exact kept_retire h

/-! ### Paths that move -/

theorem State.Canonical.stackAccess {b i n p t} (h : s.Canonical) (e : s.stackAccess b i n p = some t) :
    t.Canonical := by
  simp only [State.stackAccess] at e
  split at e
  · cases e; exact h
  · split at e
    · cases e; exact h
    · exact h.saveArea e

theorem State.Canonical.stackImage {b i l t} (h : s.Canonical) (e : s.stackImage b i l = some t) :
    t.Canonical := by
  induction l generalizing t with
  | nil => cases e; exact h
  | cons p l ih =>
    simp only [State.stackImage] at e
    split at e
    · nomatch e
    · exact (ih ‹_›).stackAccess e

theorem State.Canonical.keepStack {b was g t} (h : s.Canonical) (e : s.keepStack b was g = some t) :
    t.Canonical := by
  simp only [State.keepStack] at e
  split at e
  · cases e; exact h
  · exact h.stackImage e

theorem State.Canonical.movedPath {core grp} (h : s.Canonical) : (s.movedPath core grp).Canonical := h

end Sys2Proof.Machine
end

section
namespace Sys2Proof.Machine
variable {s t : State} {g : Group} {c : Cur} {p : Path} {b : Block} {gr : Grid}

theorem State.Canonical.settle {g' : Group} (h : s.Canonical) (e : s.settle b g = some (t, g')) :
    t.Canonical := by
  unfold State.settle at e
  extract_lets s0 g0 at e
  have h0 : s0.Canonical := State.Canonical.ite h h
  clear_value s0 g0
  split at e
  · split at e
    · cases e; exact h0
    · split at e
      · nomatch e
      · have h1 := h0.stackAccess ‹_›
        split at e
        · cases e; exact h1
        · dsimp only at e
          split at e
          · cases e; exact h1
          · split at e
            · cases e; exact h1
            · split at e
              · nomatch e
              · cases e; exact h1.stackAccess ‹_›
  · cases e; exact h0

theorem State.Canonical.afterMove {was : Group} (h : s.Canonical) (e : s.afterMove b was g = some t) :
    t.Canonical := by
  unfold State.afterMove at e
  split at e
  · nomatch e
  · obtain ⟨u, hu, rfl⟩ := Option.map_eq_some_iff.1 e
    exact ((h.settle ‹_›).keepStack hu).setGroup

theorem State.Canonical.retestAll {k} (h : s.Canonical) : (s.retestAll k).Canonical := h

theorem State.Canonical.endGroup (h : s.Canonical) (hb : b.Canonical) : (s.endGroup b g).Canonical :=
  have hb' {u} : Block.Canonical { b with alloc := u } := hb
  (h.setGroup.setBlock hb').retestAll

theorem State.Canonical.dropPath {slot} (h : s.Canonical) (hb : b.Canonical) :
    (s.dropPath b g slot p).1.Canonical := by
  unfold State.dropPath
  extract_lets s1 s2 s3
  have h1 : s1.Canonical := by
    unfold s1
    split
    · exact (h.setBlock hb.giveBack).retestAll
    · exact h
  have h2 : s2.Canonical := by
    unfold s2
    split <;> exact h1
  exact h2

/-! ### Memory instructions -/

theorem kept_park {gv e a host qs rs} (h : s.Canonical) : Kept (park s c g gv p b e a host qs rs) := by
  unfold park
  split
  · exact kept_stay h
  · exact kept_stay h.sendFaults

theorem kept_memOp {n vs} {k : Cur → Group → Group → Path → Word → Result} (h : s.Canonical)
    (hk : ∀ c g gv p e, Kept (k c g gv p e)) : Kept (memOp s n vs k) :=
  kept_withPath fun c g p => by
    split
    · exact kept_guarded h fun c g p e => hk c g g p e
    · split
      · exact hk _ _ _ _ _
      · exact .next h

theorem kept_memGroup {n vs} {k : Cur → Group → Group → Path → Word → Result} (h : s.Canonical)
    (hk : ∀ c g gv p e, Kept (k c g gv p e)) : Kept (memGroup s n vs k) :=
  kept_memOp h fun c g gv p e => by
    split
    · exact kept_retire h
    · exact hk _ _ _ _ _

theorem kept_withLines {gv e r a qs reason} {k : State → Path → List LineRes → Result} (h : s.Canonical)
    (hk : ∀ t p rs, t.Canonical → Kept (k t p rs)) : Kept (withLines s c g gv p b e r a qs reason k) := by
  dsimp only [withLines]
  split
  · exact kept_stay h.confirmAll
  · exact kept_fatal h.confirmAll
  · exact kept_park h.confirmAll
  · exact hk _ _ _ h.confirmAll

theorem kept_storeRetire {hidx sc bs rs marks} (h : s.Canonical) :
    Kept (storeRetire s c g p hidx sc bs rs marks) := by
  dsimp only [storeRetire]
  split
  · exact kept_retire h.entriesFor
  · exact kept_stay h

theorem kept_withRegion {e slot u} {k : Region → Result} (h : s.Canonical) (hk : ∀ r, Kept (k r)) :
    Kept (withRegion s c g p b gr e slot u k) := by
  unfold withRegion
  split
  · exact kept_fatal h
  · exact hk _

theorem kept_laneAccess {gv e slot u off n reason}
    {k : State → Path → Block → Region → List LaneReq → List LineRes → Result} (h : s.Canonical)
    (hk : ∀ t p b r qs rs, t.Canonical → b.Canonical → Kept (k t p b r qs rs)) :
    Kept (laneAccess s c g gv p e slot u off n reason k) :=
  kept_withBlock h fun b gr hb => kept_withRegion h fun r => by
    dsimp only
    split
    · exact kept_fatal h
    · exact kept_withLines h fun t p rs ht => hk _ _ _ _ _ _ ht hb

theorem kept_uniformAccess {gv e slot u off n reason}
    {k : State → Path → Block → Region → LaneReq → List LineRes → Result} (h : s.Canonical)
    (hk : ∀ t p b r q rs, t.Canonical → b.Canonical → Kept (k t p b r q rs)) :
    Kept (uniformAccess s c g gv p e slot u off n reason k) :=
  kept_withBlock h fun b gr hb => kept_withRegion h fun r => by
    dsimp only
    split
    · exact kept_fatal h
    · exact kept_withLines h fun t p rs ht => hk _ _ _ _ _ _ ht hb

theorem kept_rangeAccess {gv e o u n reason}
    {k : State → Path → Block → Region → List LaneReq → List LineRes → Result} (h : s.Canonical)
    (hk : ∀ t p b r qs rs, t.Canonical → b.Canonical → Kept (k t p b r qs rs)) :
    Kept (rangeAccess s c g gv p e o u n reason k) :=
  kept_withBlock h fun b gr hb => kept_withRegion h fun r => by
    dsimp only
    split
    · exact kept_fatal h
    · exact kept_withLines h fun t p rs ht => hk _ _ _ _ _ _ ht hb

theorem kept_loadRetire {e o rs w} (h : s.Canonical) : Kept (loadRetire s c g p b e o rs w) := by
  dsimp only [loadRetire]
  split
  · exact kept_stay h
  · refine kept_retire ?_
    split
    · exact h.acquireFor
    · exact h

theorem kept_execLd {o} (h : s.Canonical) : Kept (execLd o s) := by
  dsimp only [execLd]
  refine kept_memOp h fun c g gv p e => ?_
  split
  · exact kept_withBlock h fun _ _ _ => kept_loadRetire h
  · exact kept_laneAccess h fun _ _ _ _ _ _ ht _ => kept_loadRetire ht

theorem kept_execLdu {o} (h : s.Canonical) : Kept (execLdu o s) := by
  dsimp only [execLdu]
  refine kept_memOp h fun c g gv p e => ?_
  split
  · exact kept_withBlock h fun _ _ _ => kept_loadRetire h
  · exact kept_uniformAccess h fun _ _ _ _ _ _ ht _ => kept_loadRetire ht

theorem kept_execLds {o} (h : s.Canonical) : Kept (execLds o s) :=
  kept_memGroup h fun _ _ _ _ _ => kept_uniformAccess h fun _ _ _ _ _ _ ht _ => kept_loadRetire ht

theorem kept_execLdm {o} (h : s.Canonical) : Kept (execLdm o s) := by
  dsimp only [execLdm]
  refine kept_memOp h fun c g gv p e => ?_
  split
  · exact kept_withBlock h fun _ _ _ => kept_loadRetire h
  · exact kept_rangeAccess h fun _ _ _ _ _ _ ht _ => kept_loadRetire ht

theorem kept_execSt {o} (h : s.Canonical) : Kept (execSt o s) := by
  dsimp only [execSt]
  refine kept_memOp h fun c g gv p e => ?_
  split
  · exact kept_storeRetire h
  · exact kept_laneAccess h fun _ _ _ _ _ _ ht _ => kept_storeRetire ht

theorem kept_execSts {o} (h : s.Canonical) : Kept (execSts o s) :=
  kept_memGroup h fun _ _ _ _ _ => kept_uniformAccess h fun _ _ _ _ _ _ ht _ => kept_storeRetire ht

theorem kept_execStm {o} (h : s.Canonical) : Kept (execStm o s) := by
  dsimp only [execStm]
  refine kept_memOp h fun c g gv p e => ?_
  split
  · exact kept_storeRetire h
  · exact kept_rangeAccess h fun _ _ _ _ _ _ ht _ => kept_storeRetire ht

theorem State.Canonical.prefetchL1 {core k nl1 bs hidx l} (h : s.Canonical) :
    (s.prefetchL1 core k nl1 bs hidx l).Canonical := h.ite h.setL1

theorem State.Canonical.prefetchLine {st r nl1 a} (h : s.Canonical) : (prefetchLine s st r nl1 a).Canonical := by
  dsimp only [Machine.prefetchLine]
  split
  · exact h
  · split
    · split
      · split
        · exact ((h.homeFetch ‹_›).prefetchL1).ite h
        · exact h
      · split
        · exact h.setRdc.prefetchL1.ite h
        · exact h.ite h.send
    · split
      · split
        · exact (h.hostLine.snd ‹_›).prefetchL1
        · exact h
      · exact h.ite h.send
    · exact h
    · exact h

theorem kept_execPrf {o} (h : s.Canonical) : Kept (execPrf o s) :=
  kept_memGroup h fun c g gv p e => kept_withBlock h fun b gr _ => kept_retire <| by
    dsimp only
    split
    · exact h
    · split
      · exact h
      · split
        · exact h
        · exact h.foldl fun t i ht => ht.prefetchLine.ite ht

theorem kept_execHqry {o} (h : s.Canonical) : Kept (execHqry o s) :=
  kept_groupLevel h fun _ _ _ _ => kept_withBlock h fun _ _ _ => kept_commit h

/-! ### Atomics -/

theorem State.Canonical.atomWrite {st ls as v} (h : s.Canonical) : (s.atomWrite st ls as v).Canonical := by
  dsimp only [State.atomWrite]
  split
  · exact h
  · have h1 {k bs m l rs} : State.Canonical { s.arriveLine k bs m l with rdc := rs } := h.arriveLine
    split
    · exact h1.setL1
    · exact h1

theorem kept_atomRetire {e o hit w} (h : s.Canonical) : Kept (atomRetire s c g p b e o hit w) := by
  dsimp only [atomRetire]
  split
  · exact kept_retire h.acquireFor
  · exact kept_retire h

theorem kept_atomEmpty {o w} (h : s.Canonical) : Kept (atomEmpty s c g p o w) :=
  kept_withBlock h fun b gr _ => by
    split
    · split
      · exact kept_atomRetire h
      · exact kept_stay h
    · exact kept_stay h

theorem kept_atomAccess {gv e slot u off n}
    {k : State → Path → Block → List LaneReq → List LineRes → Result} (h : s.Canonical)
    (hk : ∀ t p b qs rs, t.Canonical → Kept (k t p b qs rs)) :
    Kept (atomAccess s c g gv p e slot u off n k) :=
  kept_withBlock h fun b gr _ => kept_withRegion h fun r => by
    dsimp only
    split
    · exact kept_fatal h
    · split
      · exact kept_fatal h
      · exact kept_withLines h fun t p rs ht => hk _ _ _ _ _ ht

theorem State.Canonical.laneAtoms {st ls f qs} (h : s.Canonical) : (s.laneAtoms st ls f qs).2.Canonical := by
  induction qs generalizing s with
  | nil => exact h
  | cons q qs ih => exact ih h.atomWrite

theorem kept_laneAtomic {o names u f} (h : s.Canonical) : Kept (laneAtomic o names u f s) := by
  dsimp only [laneAtomic]
  refine kept_memOp h fun c g gv p e => ?_
  split
  · exact kept_atomEmpty h
  · refine kept_atomAccess h fun t p b qs rs ht => ?_
    split
    · exact kept_stay ht
    · split
      · exact kept_stay ht
      · exact kept_atomRetire ht.laneAtoms

theorem kept_groupAtomic {o u f} (h : s.Canonical) : Kept (groupAtomic o u f s) :=
  kept_memGroup h fun c g gv p e => kept_atomAccess h fun t p b qs rs ht => by
    dsimp only
    split
    · exact kept_stay ht
    · exact kept_atomRetire ht.laneAtoms

theorem kept_execAhist {o} (h : s.Canonical) : Kept (execAhist o s) :=
  kept_memOp h fun c g gv p e => by
    dsimp only
    split
    · exact kept_atomEmpty h
    · refine kept_atomAccess h fun t p b qs rs ht => ?_
      split
      · exact kept_stay ht
      · exact kept_atomRetire ht.laneAtoms

theorem State.Canonical.takeWords {st ls a n} (h : s.Canonical) : (s.takeWords st ls a n).2.Canonical := by
  induction n generalizing s a with
  | zero => exact h
  | succ n ih => exact ih h.atomWrite

theorem kept_execCsnap {o} (h : s.Canonical) : Kept (execCsnap o s) :=
  kept_memGroup h fun c g gv p e => kept_withBlock h fun b gr _ => kept_withRegion h fun r => by
    dsimp only
    split
    · exact kept_fatal h
    · split
      · exact kept_fatal h
      · refine kept_withRegion h fun rd => ?_
        split
        · exact kept_fatal h
        · split
          · exact kept_fatal h
          · refine kept_withLines h fun t p rs ht => kept_withLines ht fun u p rsd hu => ?_
            split
            · exact kept_stay hu
            · exact kept_atomRetire hu.takeWords.entriesFor

end Sys2Proof.Machine
end

section
namespace Sys2Proof.Machine
variable {s t : State} {g : Group} {c : Cur} {p : Path} {b : Block} {gr : Grid}

/-! ### Barriers -/

theorem State.Canonical.arriveBar {l n} (h : s.Canonical) (hb : b.Canonical) : (s.arriveBar b gr l n).Canonical := by
  have hb' {x} : Block.Canonical { b with bars := x } := hb
  cases l with
  | blk => exact h.setBlock hb'
  | clu | die | gang => exact h.setGrid

theorem kept_barrierOp {o} {k : Cur → Group → Path → Block → Grid → BarLevel → Nat → Result} (h : s.Canonical)
    (hk : ∀ c g p b gr l n, b.Canonical → Kept (k c g p b gr l n)) : Kept (barrierOp o s k) :=
  kept_groupLevel h fun _ _ _ _ => kept_withBlock h fun _ _ hb => hk _ _ _ _ _ _ _ hb

theorem kept_execBara {o} (h : s.Canonical) : Kept (execBara o s) :=
  kept_barrierOp h fun c g p b gr l n hb => by
    split
    · exact kept_fatal h
    · split
      · exact kept_stay h
      · exact kept_retire (h.arriveBar hb)

theorem kept_execBarw {o} (h : s.Canonical) : Kept (execBarw o s) :=
  kept_barrierOp h fun c g p b gr l n hb => by
    split
    · exact kept_fatal h
    · split
      · exact kept_fatal h
      · exact kept_stay h
      · exact kept_fatal h
      · exact kept_retire h.acquireFor

theorem State.Canonical.setParties {r x} (h : s.Canonical) : (s.setParties r x).Canonical := h

theorem State.Canonical.sendRound {d es} (h : s.Canonical) : (s.sendRound d es).2.Canonical :=
  h.foldlSnd fun _ _ h => h

theorem State.Canonical.gangLocal {d x} (h : s.Canonical) : (s.gangLocal gr d x).Canonical := h.sendRound.setGrid

theorem State.Canonical.gangPhase {d x r} (h : s.Canonical) : (s.gangPhase gr d x r).Canonical := h

theorem State.Canonical.expireGang {slot} (h : s.Canonical) : (s.expireGang gr slot).Canonical :=
  h.foldl fun _ _ h => h

theorem kept_execBarrierPhaseComplete {r} (h : s.Canonical) : Kept (execBarrierPhaseComplete r s) := by
  dsimp only [execBarrierPhaseComplete]
  cases r with
  | blk bid n =>
    dsimp only
    split
    · have hb := h.block? ‹_›
      split
      · exact .next (.setParties (.setBlock h hb))
      · exact .next h
    · exact .next h
  | clu gid dl cl n =>
    dsimp only
    split
    · exact .ite (.next h) (.next h)
    · exact .next h
  | die gid dl n =>
    dsimp only
    split
    · split
      · exact .ite (.next h) (.next h)
      · exact .next h
    · exact .next h
  | gang gid dl n =>
    dsimp only
    split
    · split
      · exact .ite (.next h.gangLocal) (.ite (.next h.gangPhase) (.next h))
      · exact .next h
    · exact .next h

theorem kept_execGangRoundMessage {grid dst frm slot} (h : s.Canonical) :
    Kept (execGangRoundMessage grid dst frm slot s) := by
  unfold execGangRoundMessage
  split
  · exact .next h
  · split
    · split
      · exact .next h
      · exact .ite (.next h.setGrid.expireGang) (.next h.setGrid)
    · exact .next h

/-! ### Observing, fetching -/

theorem State.Canonical.acquireRange {x n} (h : s.Canonical) : (s.acquireRange b x n).Canonical := h

theorem State.Canonical.observeDone {pick} (h : s.Canonical) : (s.observeDone b g pick).2.Canonical :=
  h.foldl fun _ _ h => h.acquireRange

theorem State.Canonical.observeBatches (h : s.Canonical) : (s.observeBatches b g).2.Canonical :=
  h.foldl fun _ _ h => h.acquireRange

theorem State.Canonical.observeWait {w} (h : s.Canonical) : (s.observeWait b g w).2.Canonical := by
  unfold State.observeWait
  split
  · exact h.observeBatches
  · exact h.observeDone
  · exact h

theorem State.Canonical.codeWord {st p a} (h : s.Canonical) : (s.codeWord st p a).2.2.Canonical := by
  dsimp only [State.codeWord]
  split <;> exact h.confirm.thd ‹_›

theorem State.Canonical.codeWords {st p a n} (h : s.Canonical) : (s.codeWords st p a n).2.2.Canonical := by
  induction n generalizing s p a with
  | zero => exact h
  | succ n ih =>
    simp only [State.codeWords]
    split
    · split
      · exact (ih (h.codeWord.thd ‹_›)).thd ‹_›
      · exact ih (h.codeWord.thd ‹_›)
    · exact h.codeWord

theorem State.Canonical.clauseIndex {st p pc a k n} (h : s.Canonical) :
    (s.clauseIndex st p pc a k n).2.2.Canonical := by
  induction n generalizing s p a k with
  | zero => exact h
  | succ n ih =>
    simp only [State.clauseIndex]
    split
    · exact h
    · split
      · exact ih (h.codeWord.thd ‹_›)
      · exact h.codeWord.thd ‹_›

/-- The state that fetching leaves. -/
def Fetched.state : Fetched → State
  | .idle s => s
  | .run s _ => s

theorem State.Canonical.fetchInstr {st g p hd k} (h : s.Canonical) :
    (s.fetchInstr st g p hd k).state.Canonical := by
  unfold State.fetchInstr
  have h1 := h.codeWord (st := st) (p := p) (a := p.pc)
  generalize s.codeWord st p p.pc = x at h1 ⊢
  obtain ⟨out, p1, s1⟩ := x
  rcases out with ⟨_ | ⟨w, _ | ⟨w', l⟩⟩⟩ | _ | _
  case ok.cons.nil =>
    dsimp only
    split
    · have h2 := h1.codeWords.thd ‹_›
      split
      · exact h2.setGroup
      · split
        · exact h2.setGroup
        · exact h2
    · exact (h1.codeWords.thd ‹_›).setGroup
    · exact (h1.codeWords.thd ‹_›).setGroup
  all_goals exact h1.setGroup

theorem State.Canonical.fetchClause {st b g p} (h : s.Canonical) :
    (s.fetchClause st b g p).state.Canonical := by
  unfold State.fetchClause
  have h1 := h.codeWord (st := st) (p := p) (a := p.hdr)
  generalize s.codeWord st p p.hdr = x at h1 ⊢
  obtain ⟨out, p1, s1⟩ := x
  rcases out with ⟨_ | ⟨w, _ | ⟨w', l⟩⟩⟩ | _ | _
  case ok.cons.nil =>
    dsimp only
    split
    · exact h1.setGroup
    · split
      · split
        · exact h1.observeWait.fetchInstr
        · exact h1.setGroup
      · split
        · exact (h1.clauseIndex.thd ‹_›).fetchInstr
        · exact (h1.clauseIndex.thd ‹_›).setGroup
        · exact (h1.clauseIndex.thd ‹_›).setGroup
  all_goals exact h1.setGroup

theorem State.Canonical.dfltReturn {grp slot} (h : s.Canonical) : (s.dfltReturn grp slot).Canonical := by
  unfold State.dfltReturn
  split
  · exact h
  · split
    · split
      · exact h
      · split
        · have hr {c g p rest lanes} : Kept (trapReturn s c g p rest lanes) := kept_trapReturn h
          split
          · exact hr.of_next ‹_›
          · exact h
        · exact h
    · exact h

theorem State.Canonical.fetch {r} (h : s.Canonical) : (fetch s r).state.Canonical := by
  dsimp only [Machine.fetch]
  split
  · exact h
  · split
    · split
      · exact h
      · split
        · exact h
        · split
          · exact h
          · split
            · exact h
            · split
              · exact h.fetchClause
              · have hgo {u : State} {g p} {hd : Option (List Nat)} {st b} (hu : u.Canonical) :
                    (if hd.isSome then Fetched.idle (u.dfltReturn r.grp r.slot)
                      else u.fetchClause st b g p).state.Canonical := by
                  split
                  · exact hu.dfltReturn
                  · exact hu.fetchClause
                split
                · exact hgo h
                · split
                  · exact hgo h.setCore.setGroup
                  · exact h
    · exact h

end Sys2Proof.Machine
end

section
namespace Sys2Proof.Machine
variable {s t : State} {g : Group} {c : Cur} {p : Path} {b : Block} {gr : Grid}

/-! ### Control -/

theorem kept_execCall {o} (h : s.Canonical) : Kept (execCall o s) :=
  kept_withPath fun _ _ _ => kept_transfer h

theorem kept_execBrv {o} (h : s.Canonical) : Kept (execBrv o s) :=
  kept_withPath fun c g p => by
    dsimp only
    split
    · exact kept_transfer h
    · split
      · exact kept_retire h
      · split
        · exact kept_fatal h
        · split
          · exact .next h
          · refine kept_withBlock h fun b gr hb => ?_
            split
            · exact kept_fatal h
            · split
              · exact kept_stay h
              · split
                · exact kept_stay h
                · have hx {c : Prop} [Decidable c] {q} : (if c then s.dropPath b g (!‹Cur›.p.slot) q else (s, g)).1.Canonical := by
                    split
                    · exact h.dropPath hb
                    · exact h
                  split
                  · exact kept_fatal h
                  · exact .next (.setGroup (.stackImage hx ‹_›))

theorem kept_execJoin {o} (h : s.Canonical) : Kept (execJoin o s) :=
  kept_withPath fun c g p => by
    split
    · exact kept_retire h
    · refine kept_withBlock h fun b gr _ => ?_
      dsimp only
      split
      · exact kept_stay h
      · have hs {a : Prop} [Decidable a] : (if a then s.returnPermit b.core else s).Canonical := .ite h h
        split
        · exact kept_fatal hs
        · exact .next (hs.afterMove ‹_›)

theorem State.Canonical.checkResume {r p pc hdr} (h : s.Canonical) :
    (s.checkResume b r p pc hdr).2.2.Canonical := by
  dsimp only [State.checkResume]
  split
  · exact h
  · have h1 := h.codeWord (st := ⟨b.core, b.vd, r⟩) (p := p) (a := hdr.setWidth 56)
    generalize s.codeWord ⟨b.core, b.vd, r⟩ p (hdr.setWidth 56) = x at h1 ⊢
    obtain ⟨out, p1, s1⟩ := x
    rcases out with ⟨_ | ⟨w, _ | ⟨w', l⟩⟩⟩ | _ | _
    case ok.cons.nil =>
      dsimp only
      split
      · exact h1
      · split
        · exact h1
        · split <;> exact h1.clauseIndex.thd ‹_›
    all_goals exact h1

theorem kept_execExit {o} (h : s.Canonical) : Kept (execExit o s) :=
  kept_withPath fun c g p => by
    dsimp only
    split
    · exact kept_retire h
    · split
      · exact kept_retire h
      · refine kept_withBlock h fun b gr hb => ?_
        have leave {u : State} {g'} (hu : u.Canonical) : Kept
            (if g'.paths.isEmpty then .next (u.endGroup b g')
             else if !g.stack.isEmpty && s.stackBusy b g.idx then stay s c g p .retry 3
             else match u.afterMove b g g' with
              | none => fatal s c g p 0x20 p.mask 0
              | some s => .next s) := by
          split
          · exact .next (hu.endGroup hb)
          · split
            · exact kept_stay h
            · split
              · exact kept_fatal h
              · exact .next (hu.afterMove ‹_›)
        split
        · exact leave h
        · split
          · exact leave (.ite h h)
          · split
            · exact kept_trapReturn (h.checkResume.thd ‹_›)
            · exact kept_stay (h.checkResume.thd ‹_›)
            · exact kept_fatal (h.checkResume.thd ‹_›)

theorem kept_execSleep {o} (h : s.Canonical) : Kept (execSleep o s) :=
  kept_withPath fun c g p => by
    dsimp only
    split
    · exact kept_retire h
    · split
      · exact kept_retire h
      · exact kept_stay h

theorem kept_execSleepWake {r} (h : s.Canonical) : Kept (execSleepWake r s) :=
  kept_completeWait h fun c g p w => by
    split
    · exact .ite (kept_retire h) (.next h)
    · exact .next h

theorem kept_execYield {o} (h : s.Canonical) : Kept (execYield o s) :=
  kept_groupLevel h fun c g p e => kept_withBlock h fun b gr _ => by
    split
    · split
      · exact kept_stay h
      · dsimp only
        split
        · exact kept_fatal h
        · exact .next (h.stackImage ‹_›).setGroup
    · exact kept_retire h

theorem kept_execAgeingSwap {grp} (h : s.Canonical) : Kept (execAgeingSwap grp s) := by
  dsimp only [execAgeingSwap]
  split
  · exact .next h
  · split
    · have hb := h.block? ‹_›
      split
      · exact .next h
      · split
        · exact .next h
        · split
          · exact .next h
          · have hx {c : Prop} [Decidable c] {g slot q} :
                (if c then (s, g) else s.dropPath ‹Block› g slot q).1.Canonical := by
              split
              · exact h
              · exact h.dropPath hb
            split
            · exact kept_freeze h
            · exact .next (.setGroup (.stackImage hx ‹_›))
    · exact .next h

theorem kept_execCompaction {grp} (h : s.Canonical) : Kept (execCompaction grp s) := by
  dsimp only [execCompaction]
  split
  · exact .next h
  · exact .ite (.next h) (.next h)

/-! ### Ordering -/

theorem kept_execFence {o} (h : s.Canonical) : Kept (execFence o s) :=
  kept_groupLevel h fun c g p e => kept_withBlock h fun b gr _ => by
    split
    · exact kept_stay h
    · refine kept_retire ?_
      split
      · exact h.acquireFor
      · exact h

theorem kept_syncObject {o u} {k : Cur → Group → Path → Block → Grid → SyncObj → Result} (h : s.Canonical)
    (hk : ∀ c g p b gr f, Kept (k c g p b gr f)) : Kept (syncObject o u s k) :=
  kept_groupLevel h fun c g p e => kept_withBlock h fun b gr _ => kept_withRegion h fun r => by
    dsimp only
    split
    · exact kept_fatal h
    · split
      · exact kept_fatal h
      · exact hk _ _ _ _ _ _

theorem kept_execSynca {o} (h : s.Canonical) : Kept (execSynca o s) :=
  kept_syncObject h fun _ _ _ _ _ _ => kept_retire h.acquireFor

theorem kept_execSyncr {o} (h : s.Canonical) : Kept (execSyncr o s) :=
  kept_syncObject h fun _ _ _ _ _ _ => .ite (kept_retire h) (kept_stay h)

theorem kept_execSack {o} (h : s.Canonical) : Kept (execSack o s) :=
  kept_groupLevel h fun _ _ _ _ => .ite (kept_retire h) (kept_stay h)

/-! ### Homes and messages between dies -/

theorem kept_execStoreBufferDrain {grp n} (h : s.Canonical) : Kept (execStoreBufferDrain grp n s) := by
  dsimp only [execStoreBufferDrain]
  split
  · exact .next h
  · split
    · exact .ite (.next h.drainEntry) (.next h)
    · exact .next h

theorem State.Canonical.serve {q} (h : s.Canonical) : (s.serve q).2.Canonical := by
  dsimp only [State.serve]
  split
  · split
    · split
      · exact h.homeFetch ‹_›
      · exact (h.homeFetch ‹_›).bumpReg
    · exact h
    · exact h.bumpReg
  · exact h
  · exact h
  · split <;> exact h.hostLine.snd ‹_›

theorem kept_execHomeRequest {n} (h : s.Canonical) : Kept (execHomeRequest n s) := by
  dsimp only [execHomeRequest]
  split
  · split
    · exact .next h
    · exact .next h.serve
  · split
    · exact .ite (.next h.arrive) (.next h)
    · exact .next h

theorem State.Canonical.answer {q r} (h : s.Canonical) : (s.answer q r).Canonical := by
  dsimp only [State.answer]
  split <;> exact h

theorem State.Canonical.fillRdc {q bs l} (h : s.Canonical) : (s.fillRdc q bs l).Canonical := by
  dsimp only [State.fillRdc]
  split
  · exact h.setRdc
  · exact h.setRdc
  · exact h

theorem State.Canonical.fillCopies {q bs l} (h : s.Canonical) : (s.fillCopies q bs l).Canonical := by
  dsimp only [State.fillCopies]
  split
  · exact .ite h.fillRdc h.fillRdc.setL1
  all_goals exact h.fillRdc

theorem State.Canonical.deliverAnswer {x} (h : s.Canonical) : (s.deliverAnswer x).Canonical := by
  unfold State.deliverAnswer
  split
  · exact h.answer
  · split
    · exact h.fillCopies.answer
    · exact h.answer

theorem kept_execMemoryResponse {n} (h : s.Canonical) : Kept (execMemoryResponse n s) := by
  unfold execMemoryResponse
  split
  · exact .ite (.next h) (.next h.deliverAnswer)
  · exact .next h

theorem kept_execRemoteNak {n} (h : s.Canonical) : Kept (execRemoteNak n s) := by
  unfold execRemoteNak
  split
  · exact .ite (.next h.deliverAnswer) (.next h)
  · exact .next h

theorem kept_freezeStore {f} (h : s.Canonical) : Kept (s.freezeStore f) := by
  dsimp only [State.freezeStore]
  split
  · exact .next h
  · exact .ite (.next h) (kept_freeze h)

theorem kept_execStoreAck {n} (h : s.Canonical) : Kept (execStoreAck n s) := by
  unfold execStoreAck
  split
  · exact .ite (.next h) (.ite (kept_freezeStore h) (.next h.ackStore))
  · exact .next h

theorem State.Canonical.lateRound {slot m} (h : s.Canonical) : (s.lateRound gr slot m).Canonical :=
  h.setGrid.expireGang

theorem kept_execDeadlineExpiry {n} (h : s.Canonical) : Kept (execDeadlineExpiry n s) := by
  unfold execDeadlineExpiry
  split
  · exact .ite (.next (.answer h)) (.next h)
  · split
    · exact .ite (.next h.answer) (.next h)
    · split
      · exact .ite (kept_freezeStore h) (.next h)
      · split
        · exact .ite (.next h.lateRound) (.next h)
        · exact .next h

theorem kept_execPageWalk {die vd va} (h : s.Canonical) : Kept (execPageWalk die vd va s) := by
  unfold execPageWalk
  split
  · exact .next h
  · split
    · exact .next (h.translate ‹_›)
    · exact .next h

/-- Lines that are written back, dropped and asked for again. -/
theorem State.Canonical.flush {hit : LineKey → Bool} {keep} (h : s.Canonical) :
    (((s.landStores hit).dropLines hit keep).recall hit).Canonical := h.landStores.dropLines

theorem kept_execPginv {vd v} (h : s.Canonical) : Kept (execPginv vd v s) :=
  kept_inService h (.ite (.next h) (.next h))

theorem kept_execPginvComplete {vd} (h : s.Canonical) : Kept (execPginvComplete vd s) := by
  unfold execPginvComplete
  split
  · exact .next h
  · exact .next (.setVdev h.flush)

theorem kept_execAtsInvalidation {vd vpn n} (h : s.Canonical) : Kept (execAtsInvalidation vd vpn n s) :=
  .next h.flush

theorem kept_dcfChecked {e o} {k : Block → DcfRanges → Result} (h : s.Canonical)
    (hk : ∀ b x, Kept (k b x)) : Kept (dcfChecked s c g p e o k) :=
  kept_withBlock h fun b gr _ => by
    dsimp only
    split
    · exact kept_fatal h
    · refine .ite (kept_fatal h) ?_
      split
      · exact kept_fatal h
      · exact .ite (kept_fatal h) (.ite (kept_fatal h) (.ite (kept_fatal h) (hk _ _)))

theorem kept_execDcf {o} (h : s.Canonical) : Kept (execDcf o s) :=
  kept_groupLevel h fun _ _ _ _ => kept_dcfChecked h fun _ _ => .ite (kept_stay h) (kept_stay h)

theorem kept_execDcfWritebackDone {r} (h : s.Canonical) : Kept (execDcfWritebackDone r s) :=
  kept_completeWait h fun c g p w => by
    split
    · refine kept_dcfChecked h fun b x => ?_
      refine .ite (.next h) ?_
      dsimp only
      split
      · exact .fault _
      · exact kept_retire h.landDrained.cleanLines.dropLines
    · exact .next h

end Sys2Proof.Machine
end

section
namespace Sys2Proof.Machine
variable {s t : State} {g : Group} {c : Cur} {p : Path} {b : Block} {gr : Grid}

/-! ### Claims at the Reeve -/

theorem kept_reeveApply {cl r} (h : s.Canonical) (hb : b.Canonical) : Kept (s.reeveApply cl r b) := by
  dsimp only [State.reeveApply]
  have hb' : (if r.raise then b else b.markAcq r.ty).Canonical := by
    split <;> exact hb
  have tell {u : State} {x} (hu : u.Canonical) : (match u.group? r.path.grp with
      | some g => u.setGroup (g.reeveAnswer r.id x)
      | none => u).Canonical := by
    split <;> exact hu
  split
  · exact .next (tell (h.setBlock hb'.granted).setCluster)
  · exact .ite (.next (tell (h.setBlock hb').setCluster)) (.next (h.setBlock hb').setCluster)
  · split
    · exact .next h.setCluster
    · split
      · exact kept_freeze h.setCluster
      · exact .next h.setCluster

theorem kept_execReeveTest {cl} (h : s.Canonical) : Kept (execReeveTest cl s) := by
  dsimp only [execReeveTest]
  split
  · exact .next h
  · split
    · split
      · exact .ite (.next h) (kept_reeveApply h (h.block? ‹_›))
      · exact .next h
    · exact .next h

theorem kept_request {ty amt raise try' e i} (h : s.Canonical) : Kept (request s c g p b ty amt raise try' e i) :=
  .ite (kept_stay h) (kept_stay h.newId.setCluster)

theorem kept_answeredOr {k : Result} {f : Cur → Group → Path → Grant → Result} (hk : Kept k)
    (hf : ∀ c g p x, Kept (f c g p x)) : Kept (answeredOr s k f) :=
  kept_withPath fun c g p => by
    split
    · exact hf _ _ _ _
    · exact hk

theorem kept_execClaim {ty o} (h : s.Canonical) : Kept (execClaim ty o s) := by
  refine kept_answeredOr (kept_groupLevel h fun c g p e => kept_withBlock h fun b gr hb => ?_)
    fun _ _ _ _ => kept_retire h
  refine .ite (kept_fatal h) (.ite (.ite (kept_fatal h) (.ite (kept_fatal h) (kept_request h)))
    (.ite (kept_retire ?_) (kept_retire h)))
  exact .retestAll (.setBlock h hb)

theorem kept_acquired {e o try' ok} (h : s.Canonical) : Kept (acquired s c g p e o try' ok) :=
  .ite (kept_commit h) (kept_retire h)

theorem kept_acquireUnits {ty o try' i} (h : s.Canonical) : Kept (acquireUnits ty o try' i s) := by
  refine kept_answeredOr (kept_groupLevel h fun c g p e => kept_withBlock h fun b gr hb => ?_)
    fun c g p x => kept_withBlock h fun b gr hb => ?_
  · exact .ite (kept_acquired (.setBlock h hb)) (.ite (kept_fatal h) (kept_request h))
  · exact .ite (kept_acquired (h.setBlock hb.takeUp)) (kept_acquired h)

theorem kept_execRel {ty o} (h : s.Canonical) : Kept (execRel ty o s) :=
  kept_groupLevel h fun _ _ _ _ => kept_withBlock h fun _ _ hb =>
    .ite (kept_retire h) (.ite (kept_stay h) (.ite (kept_fatal h)
      (.ite (kept_retire (.retestAll (.setBlock h hb))) (kept_stay h))))

theorem kept_execRstat {ty it o} (h : s.Canonical) : Kept (execRstat ty it o s) :=
  kept_groupLevel h fun _ _ _ _ => kept_withBlock h fun _ _ _ => kept_commit h

theorem kept_execRelTakesEffect {r} (h : s.Canonical) : Kept (execRelTakesEffect r s) :=
  kept_completeWait h fun c g p w => by
    split
    · exact kept_withBlock h fun b gr hb => .ite (kept_fatal h) (.ite (.next h)
        (kept_retire (h.setBlock hb.releaseTo).retestAll))
    · exact .next h

/-! ### What the engines reach -/

theorem State.Canonical.askOp {die vd who a k} (h : s.Canonical) : (s.askOp die vd who a k).2.Canonical := by
  dsimp only [State.askOp]
  split
  · exact h
  · split
    · exact h
    · exact h.send

theorem State.Canonical.forgetAnswers {who} (h : s.Canonical) : (s.forgetAnswers who).Canonical := h

theorem State.Canonical.reachLine {die vd who a k} (h : s.Canonical) :
    (s.reachLine die vd who a k).2.Canonical := by
  unfold State.reachLine
  split
  · exact h
  · split
    · exact h.askOp
    · split
      · split
        · exact h.homeFetch ‹_›
        · exact h
        · exact h
      · exact h.hostLine
      · exact h
      · exact h

theorem State.Canonical.reachAll {st who r a l} (h : s.Canonical) : (s.reachAll st who r a l).2.Canonical := by
  induction l generalizing s with
  | nil => exact h
  | cons la l ih => exact ih h.reachLine

theorem State.Canonical.reachKeep {st who r a l} (h : s.Canonical) : (s.reachKeep st who r a l).2.Canonical :=
  h.reachAll

theorem State.Canonical.reach {st who r a l} (h : s.Canonical) : (s.reach st who r a l).2.Canonical := by
  dsimp only [State.reach]
  split
  · exact h.reachKeep.snd ‹_›
  · exact (h.reachKeep.snd ‹_›).forgetAnswers

theorem State.Canonical.storeAt {die rs bs} (h : s.Canonical) : (s.storeAt die rs bs).Canonical :=
  h.foldl fun t x ht => by
    dsimp only
    split
    · exact ht.arriveLine.setRdc
    · exact ht.arriveLine

theorem State.Canonical.sendAt {st who rs bs} (h : s.Canonical) : (s.sendAt st who rs bs).Canonical :=
  h.foldl fun _ _ ht => .ite ht.arriveLine ht.newId.passRdc

theorem State.Canonical.disown {who} (h : s.Canonical) : (s.disown who).Canonical := h

theorem State.Canonical.atomAt {die rs bs} (h : s.Canonical) : (s.atomAt die rs bs).Canonical :=
  .storeAt (h.foldl fun _ _ h => h)

theorem State.Canonical.addAt {die op rs as new} (h : s.Canonical) : (s.addAt die op rs as new).Canonical :=
  h.atomAt

theorem State.Canonical.copyPiece {st who op rs as new} (h : s.Canonical) :
    (s.copyPiece st who op rs as new).Canonical := .ite h.sendAt h.addAt

/-! ### Fabric ports, tracing -/

theorem State.Canonical.setPort {x} (h : s.Canonical) : (s.setPort x).Canonical := h

theorem State.Canonical.sendTxn {ports kind vc x tag} (h : s.Canonical)
    (e : s.sendTxn ports kind vc x tag = some t) : t.Canonical := by
  simp only [State.sendTxn] at e
  split at e
  · cases e; exact h
  · nomatch e

theorem State.Canonical.sendFlit {n vd} (h : s.Canonical) : (s.sendFlit n vd).Canonical := by
  dsimp only [State.sendFlit]
  split
  · exact h
  · exact .ite h h

theorem State.Canonical.trace {die vd rs} (h : s.Canonical) : (s.trace die vd rs).Canonical := by
  dsimp only [State.trace]
  split
  · exact h.trLose
  · split
    · exact h.countRefusal.trLose
    · next u e =>
      have hu : u.Canonical := by
        refine List.foldlRecOn (motive := fun x : Option State × Word => ∀ t, x.1 = some t → t.Canonical)
          rs _ ?_ ?_ u e
        · rintro t ⟨⟩
          exact h
        · rintro x hx r _ t ht
          obtain ⟨v, hv, hw⟩ := Option.bind_eq_some_iff.1 ht
          exact (hx v hv).deviceWrite hw
      exact .ite hu.setKz hu.setKz

/-! ### Traps, points of preemption, special registers -/

theorem kept_execTrap {o} (h : s.Canonical) : Kept (execTrap o s) :=
  kept_groupLevel h fun _ _ _ _ => kept_deliver h

theorem kept_execTret {o} (h : s.Canonical) : Kept (execTret o s) :=
  kept_withPath fun c g p => by
    split
    · exact kept_fatal h
    · refine kept_withBlock h fun b gr _ => ?_
      split
      · exact kept_trapReturn (h.checkResume.thd ‹_›)
      · exact kept_stay (h.checkResume.thd ‹_›)
      · exact kept_fatal (h.checkResume.thd ‹_›)

theorem kept_execBrk {o} (h : s.Canonical) : Kept (execBrk o s) :=
  kept_groupLevel h fun _ _ _ _ => kept_withBlock h fun _ _ hb =>
    .ite (kept_retire (h.setBlock hb.requestStop)) (kept_deliver h)

theorem State.Canonical.forgetPaths {core grp} (h : s.Canonical) : (s.forgetPaths core grp).Canonical := h

theorem Block.Canonical.giveBackAll {l : List Grant} (h : b.Canonical) : (l.foldl Block.giveBack b).Canonical :=
  List.foldlRecOn l _ h fun _ hb _ _ => hb.giveBack

theorem State.Canonical.stopGroup {note} (h : s.Canonical) (hb : b.Canonical) :
    (s.stopGroup b g note).Canonical := by
  unfold State.stopGroup
  extract_lets grants s1 s2 s3
  have h1 : s1.Canonical := .ite h (h.setBlock hb.giveBackAll).retestAll
  have h2 : s2.Canonical := by
    unfold s2
    split
    · exact h1.stackImage ‹_›
    · exact h1
  clear_value s2
  have h3 : s3.Canonical := h2
  exact h3.forgetPaths.returnPermits

theorem kept_execPpt {o} (h : s.Canonical) : Kept (execPpt o s) :=
  kept_withPath fun c g p => kept_withBlock h fun b gr hb => by
    dsimp only
    split
    · exact kept_fatal h
    · split
      · exact kept_stay h
      · split
        · exact kept_retire h.countRefusal
        · have h1 := h.deviceRead ‹_›
          split
          · exact kept_fatal h1
          · split
            · exact .ite (kept_stay h1) (.ite (.next (h1.stopGroup hb)) (kept_retire h1))
            · exact kept_retire h1

theorem kept_special {o} {k : Cur → Group → Path → Word → Nat → Result} (h : s.Canonical)
    (hk : ∀ c g p e n, Kept (k c g p e n)) : Kept (special o s k) :=
  kept_withPath fun _ _ _ => .ite (kept_fatal h) (.ite (kept_fatal h) (.ite (kept_retire h) (hk _ _ _ _ _)))

theorem kept_execRdsr {o} (h : s.Canonical) : Kept (execRdsr o s) :=
  kept_special h fun _ _ _ _ _ => kept_withBlock h fun _ _ _ => kept_commit h

theorem kept_execWrsr {o} (h : s.Canonical) : Kept (execWrsr o s) :=
  kept_special h fun _ _ _ _ _ => kept_retire h

theorem kept_execTrmark {o} (h : s.Canonical) : Kept (execTrmark o s) :=
  kept_groupLevel h fun _ _ _ _ => kept_withBlock h fun _ _ _ => kept_retire (.ite h.trace h)

theorem State.Canonical.bistClear {grp cls} (h : s.Canonical) : (s.bistClear b grp cls).Canonical := by
  cases cls with
  | vrf | tile | scr => exact h
  | l1 => exact h.clearL1

theorem kept_execBist {cls o} (h : s.Canonical) : Kept (execBist cls o s) :=
  kept_withPath fun _ _ _ => kept_withBlock h fun _ _ _ =>
    .ite (kept_fatal h) (.ite (kept_retire h) (.ite (kept_stay h) (kept_commit (.bistClear h))))

theorem kept_execIllegalInstructionWord {r addr cause} (h : s.Canonical) :
    Kept (execIllegalInstructionWord r addr cause s) := by
  unfold execIllegalInstructionWord
  have hf := h.fetch (r := r)
  split
  · next s' _ _ _ e =>
    rw [e] at hf
    split
    · split
      · exact .next h
      · split
        · exact .next h
        · exact kept_freeze hf
    · exact .next h
  · exact .next h

theorem kept_execFetchFault {r} (h : s.Canonical) : Kept (execFetchFault r s) := by
  unfold execFetchFault
  have hf := h.fetch (r := r)
  split
  · next s' _ e =>
    rw [e] at hf
    split
    · exact .next h
    · split
      · split
        · exact .next hf
        · exact .ite (.next (.setGroup (.sendFault hf))) (kept_freeze hf)
      · exact .next h
  · exact .next h

theorem kept_execClauseWaitSatisfied {r} (h : s.Canonical) : Kept (execClauseWaitSatisfied r s) :=
  kept_completeWait h fun c g p w => by
    split
    · split
      · split
        · exact .ite (.next (.setGroup (.observeWait (h.codeWord.thd ‹_›)))) (.next h)
        · exact .next h
      · exact .next h
    · exact .next h

theorem kept_execTrapBackoffRetry {r} (h : s.Canonical) : Kept (execTrapBackoffRetry r s) :=
  kept_completeWait h fun c g p w => by
    split <;> exact .next h

end Sys2Proof.Machine
end

section
namespace Sys2Proof.Machine
variable {s t : State} {g : Group} {c : Cur} {p : Path} {b : Block} {gr : Grid}

/-! ### Carters -/

theorem kept_execCopy {op ch o} (h : s.Canonical) : Kept (execCopy op ch o s) :=
  kept_groupLevel h fun c g p e => kept_withBlock h fun b gr hb => by
    dsimp only
    refine .ite (kept_fatal h) (.ite (kept_fatal h) ?_)
    split
    · refine .ite (kept_fatal h) (.ite (kept_fatal h) (.ite (kept_fatal h) (.ite (kept_stay h) ?_)))
      exact .ite (kept_commit h.newId) (.ite (kept_stay h) (kept_commit (.setBlock h.newId hb)))
    · exact kept_fatal h

theorem kept_execQfence {mask o} (h : s.Canonical) : Kept (execQfence mask o s) :=
  kept_groupLevel h fun _ _ _ _ => kept_withBlock h fun _ _ hb =>
    .ite (kept_fatal h) (kept_retire (h.setBlock
      (List.foldlRecOn (motive := Block.Canonical) _ _ hb fun _ hb _ _ => hb)))

theorem kept_execCpoll {mask o} (h : s.Canonical) : Kept (execCpoll mask o s) :=
  kept_groupLevel h fun _ _ _ _ => kept_withBlock h fun _ _ _ =>
    .ite (kept_fatal h) (kept_commit h.observeDone)

theorem kept_sleeptEnd {e o n} (h : s.Canonical) : Kept (sleeptEnd s c g p e o n) :=
  kept_withBlock h fun b gr hb => by
    split
    · exact kept_retire h.observeDone
    · exact kept_deliver h

theorem kept_execSleept {o} (h : s.Canonical) : Kept (execSleept o s) :=
  kept_groupLevel h fun _ _ _ _ => .ite (kept_stay h) (kept_sleeptEnd h)

theorem kept_execSleeptWake {r} (h : s.Canonical) : Kept (execSleeptWake r s) :=
  kept_completeWait h fun c g p w => by
    split
    · exact .ite (kept_sleeptEnd h) (.next h)
    · exact .next h

theorem State.Canonical.retireOp {n x ok} (h : s.Canonical) (hb : b.Canonical) :
    (s.retireOp b n x ok).Canonical := by
  have h1 : State.Canonical (s.setBlock _) := h.setBlock hb
  dsimp only [State.retireOp]
  split
  · exact .disown (.setCore (.setBlock h hb))
  · exact .setGroup (.disown (.setCore (.setBlock h hb)))

theorem State.Canonical.copyFault {n x cause} (h : s.Canonical) (hb : b.Canonical) :
    (s.copyFault b n x cause).Canonical := by
  dsimp only [State.copyFault]
  have h1 := h.retireOp (n := n) (x := x) (ok := false) hb
  split
  · exact h1
  · have hb1 := h1.block? ‹_›
    have h2 : State.Canonical ((s.retireOp b n x false).setBlock _) := h1.setBlock hb1
    split
    · exact .setBlock h1 hb1
    · exact .raiseHalt (.setVdev (.setBlock h1 hb1))

theorem State.Canonical.putOp {blk n x} (h : s.Canonical) : (s.putOp blk n x).Canonical := by
  unfold State.putOp
  split
  · exact .setBlock h (h.block? (b := ‹Block›) ‹_›)
  · exact h

theorem State.Canonical.sendPri {vd vpn owner} (h : s.Canonical) : (s.sendPri vd vpn owner).2.Canonical := h

theorem State.Canonical.copyStopped {n x hd a cause addr} (h : s.Canonical) (hb : b.Canonical) :
    (s.copyStopped b n x hd a cause addr).Canonical := by
  dsimp only [State.copyStopped]
  split
  · split
    · exact h.sendPri.putOp
    · exact h.sendFault.putOp
  · exact h.copyFault hb

theorem State.Canonical.copySend {ch x e kind i n data next} (h : s.Canonical) (hb : b.Canonical) :
    (s.copySend b ch x e kind i n data next).Canonical := by
  dsimp only [State.copySend]
  split
  · exact h.copyFault hb
  · split
    · exact h
    · have h1 := h.newId.sendTxn ‹_›
      exact .putOp h1

theorem State.Canonical.copyRead {n x} (h : s.Canonical) (hb : b.Canonical) :
    (s.copyRead b gr n x).Canonical := by
  dsimp only [State.copyRead]
  split
  · exact h.copyFault hb
  · split
    · exact h.copySend hb
    · split
      · exact h
      · split
        · exact h.reach.snd ‹_›
        · exact (h.reach.snd ‹_›).copyStopped hb
        · exact (h.reach.snd ‹_›).putOp

theorem State.Canonical.copyWrite {n x} (h : s.Canonical) (hb : b.Canonical) :
    (s.copyWrite b gr n x).Canonical := by
  dsimp only [State.copyWrite]
  split
  · exact h.copyFault hb
  · split
    · exact h.copySend hb
    · split
      · exact h.reach.snd ‹_›
      · exact (h.reach.snd ‹_›).copyStopped hb
      · exact (h.reach.snd ‹_›).copyPiece.putOp

theorem kept_execCarterOperationStart {blk ch} (h : s.Canonical) : Kept (execCarterOperationStart blk ch s) := by
  unfold execCarterOperationStart
  split
  · exact .next h
  · have hb := h.block? ‹_›
    split
    · exact .ite (.next h) (.ite (.next (h.copyFault hb)) (.ite (.next (h.copyFault hb))
        (.ite (.next (h.copyRead hb)) (.ite (.next h) (.ite (.next (h.copyWrite hb)) (.next h))))))
    · exact .next h

theorem kept_execCarterOperationComplete {blk ch} (h : s.Canonical) :
    Kept (execCarterOperationComplete blk ch s) := by
  unfold execCarterOperationComplete
  split
  · exact .next h
  · have hb := h.block? ‹_›
    split
    · refine .ite ?_ (.next h)
      dsimp only
      split
      · exact .next (h.retireOp hb)
      · exact .next (h.retireOp hb).setGroup.dfltReturn.dfltReturn
    · exact .next h

/-! ### The array -/

theorem kept_handOver {e op state marks} (h : s.Canonical) : Kept (handOver s c g p b e op state marks) :=
  kept_retire h

theorem kept_gathered {o state} (h : s.Canonical) : Kept (gathered o state s) :=
  kept_guarded h fun c g p e => .ite (kept_retire h) <| kept_withBlock h fun b gr _ => by
    dsimp only
    split
    · exact kept_fatal h
    · exact .ite (kept_fatal h) (.ite (kept_fatal h) (.ite (kept_fatal h) (.ite (kept_stay h) (kept_handOver h))))

theorem kept_tileMove {st o} (h : s.Canonical) : Kept (tileMove st o s) :=
  kept_memGroup h fun c g gv p e => kept_withBlock h fun b gr _ => by
    dsimp only
    split
    · exact kept_fatal h
    · exact .ite (kept_fatal h) (.ite (kept_fatal h) (.ite (kept_fatal h)
        (kept_withLines h fun t p rs ht => .ite (kept_stay ht) (kept_handOver ht))))

theorem kept_execMzero {o} (h : s.Canonical) : Kept (execMzero o s) :=
  kept_groupLevel h fun _ _ _ _ => kept_withBlock h fun _ _ _ =>
    .ite (kept_fatal h) (.ite (kept_stay h) (kept_handOver h))

theorem kept_execMbatch {o} (h : s.Canonical) : Kept (execMbatch o s) :=
  kept_groupLevel h fun _ _ _ _ => kept_commit h

theorem kept_execMwait {o} (h : s.Canonical) : Kept (execMwait o s) :=
  kept_groupLevel h fun _ _ _ _ => kept_withBlock h fun _ _ _ =>
    .ite (kept_retire h) (.ite (kept_stay h) (kept_retire h.observeBatches))

theorem kept_execGleanerGather {core} (h : s.Canonical) : Kept (execGleanerGather core s) := by
  dsimp only [execGleanerGather]
  split
  · exact .next h
  · split
    · exact .ite (.next h) (.next h)
    · exact .next h

theorem kept_execArrayOperationStart {core} (h : s.Canonical) : Kept (execArrayOperationStart core s) := by
  dsimp only [execArrayOperationStart]
  refine .ite (.next h) ?_
  split
  · exact .next h
  · refine .ite (.next h) ?_
    split
    · exact .ite (.next h) (.next h)
    · exact .ite (.next h) (.next h)
    all_goals exact .next h

theorem State.Canonical.finishMat {core x idle} (h : s.Canonical) : (s.finishMat core x idle).Canonical := by
  dsimp only [State.finishMat]
  have h1 {k x} : (((s.setCore k).forgetAnswers x).disown x).Canonical := h.setCore.forgetAnswers.disown
  split
  · exact h1
  · exact h1.setGroup

theorem kept_matFault {core x cause a} (h : s.Canonical) : Kept (s.matFault core x cause a) := by
  dsimp only [State.matFault]
  split
  · exact .next h.finishMat
  · exact .ite (.next h.finishMat) (kept_freeze h.finishMat)

theorem State.Canonical.matReach {core x d a n} (h : s.Canonical) :
    (s.matReach core b gr x d a n).2.2.Canonical := by
  dsimp only [State.matReach]
  split
  · exact h
  · split
    · exact h
    · exact h.reachAll

theorem State.Canonical.abandon {core x} (h : s.Canonical) (hb : b.Canonical) :
    (s.abandon core b gr x).Canonical := by
  dsimp only [State.abandon]
  have onTile {off bs n} : State.Canonical { s.setBlock { b with tile := Memory.writeN b.tile off bs } with free := n } :=
    h.setBlock hb.writeTile
  split
  · exact onTile
  · exact onTile
  · exact h.sendAt
  · exact h

theorem kept_execArrayOperationComplete {core} (h : s.Canonical) : Kept (execArrayOperationComplete core s) := by
  dsimp only [execArrayOperationComplete]
  split
  · exact .next h
  · split
    · exact .next h.finishMat
    · have hb := h.block? ‹_›
      split
      · exact .fault _
      · split
        · exact .next (h.setBlock hb.writeTile).finishMat
        · exact .next (h.setBlock hb.writeTile).finishMat
        · split
          · exact .next (h.matReach.thd ‹_›)
          · exact kept_matFault ((h.matReach.thd ‹_›).abandon hb)
          · exact .next ((h.matReach.thd ‹_›).setBlock hb.writeTile).finishMat
        · split
          · exact .next (h.matReach.thd ‹_›)
          · exact kept_matFault ((h.matReach.thd ‹_›).abandon hb)
          · have h1 := h.matReach.thd ‹_›
            exact .ite (.next h1.sendAt.setCore) (.next h1.sendAt.finishMat)
        · exact .ite (kept_matFault h) (.ite (.next h) (.next h.finishMat))
        · exact .next h

theorem kept_execSubarrayGate {core} (h : s.Canonical) : Kept (execSubarrayGate core s) :=
  .ite (.next h) (.next h)

/-! ### Arbitration and dispatch -/

theorem State.Canonical.setBucket {x} (h : s.Canonical) : (s.setBucket x).Canonical := h

theorem State.Canonical.accrue {arb inst} (h : s.Canonical) : (s.accrue arb inst).Canonical := h

theorem State.Canonical.charge {arb inst vd} (h : s.Canonical) : (s.charge arb inst vd).Canonical := h

theorem State.Canonical.lend {arb inst qs} (h : s.Canonical) : (s.lend arb inst qs).Canonical :=
  h.foldl fun _ _ h => h.setBucket

theorem State.Canonical.drr {arb inst vds} (h : s.Canonical) : (s.drr arb inst vds).2.Canonical := by
  unfold State.drr
  extract_lets spend
  have hs {u : State} (hu : u.Canonical) : (spend u).2.Canonical := by
    unfold spend
    split
    · exact hu
    · exact hu
  split
  · exact hs h
  · exact hs (h.foldl fun _ _ h => h.setBucket)

theorem State.Canonical.cross {inst vd} (h : s.Canonical) : (s.cross inst vd).Canonical := by
  dsimp only [State.cross]
  split <;> exact h

theorem State.Canonical.won {arb inst vd} (h : s.Canonical) : (s.won arb inst vd).Canonical :=
  .ite h.cross (.ite h.sendFlit h)

theorem kept_execTokenArbitration {arb inst qs} (h : s.Canonical) : Kept (execTokenArbitration arb inst qs s) := by
  dsimp only [execTokenArbitration]
  refine .ite (.next h) ?_
  split
  · exact .next h.accrue.charge.won
  · split
    · exact .next (h.accrue.drr.snd ‹_›).charge.won
    · split
      · exact .next (h.accrue.drr.snd ‹_›).setBucket.lend.won
      · exact .next (h.accrue.drr.snd ‹_›)

theorem State.Canonical.nextEntry {r} (h : s.Canonical) : (s.nextEntry b g p r).2.Canonical := by
  dsimp only [State.nextEntry]
  split
  · have hf := State.Canonical.fetch (s := { s with cur := none }) (r := r) h
    split
    · next e => rw [e] at hf; exact hf
    · next e => rw [e] at hf; exact hf
  · split
    · exact h
    · split
      · exact h
      · split <;> exact h

theorem State.Canonical.candOf {k grp slot} (h : s.Canonical) : (s.candOf k b grp slot).2.Canonical := by
  dsimp only [State.candOf]
  split
  · exact h
  · split
    · exact h
    · split
      · exact h
      · split <;> exact h.nextEntry.snd ‹_›

theorem State.Canonical.candidates {k} (h : s.Canonical) : (s.candidates k).2.Canonical :=
  h.foldlSnd fun _ _ h => h.candOf.candOf

theorem State.Canonical.pickOne {core cs ok} (h : s.Canonical) : (s.pickOne core cs ok).2.Canonical := by
  dsimp only [State.pickOne]
  split
  · exact h.charge
  · split
    · exact h.lend
    · exact h

theorem State.Canonical.picks {core pin cs} (h : s.Canonical) : (s.picks core pin cs).2.2.Canonical := by
  dsimp only [State.picks]
  split
  · exact h.pickOne.snd ‹_›
  · split <;> exact (h.pickOne.snd ‹_›).pickOne.snd ‹_›

theorem State.Canonical.dispatches {x} (h : s.Canonical) : (s.dispatches x).Canonical := by
  unfold State.dispatches
  split <;> exact h

theorem State.Canonical.enterMerges {core cycle} (h : s.Canonical) : (s.enterMerges core cycle).Canonical :=
  h.foldl fun _ _ h => .ite h h

theorem State.Canonical.begins {core cycle x} (h : s.Canonical) : (s.begins core cycle x).Canonical := by
  unfold State.begins
  split
  · exact h
  · split <;> exact h

theorem State.Canonical.afterPicks {k tokens cs picks passed} (h : s.Canonical) :
    (s.afterPicks k tokens cs picks passed).Canonical := by
  refine State.Canonical.foldl (State.Canonical.foldl (.setCore h) fun t x ht => ?_) fun _ _ h => h.dispatches
  split <;> exact ht

theorem State.Canonical.setAgenda {x} (h : s.Canonical) : State.Canonical { s with agenda := x } := h

theorem kept_execCoreDispatchCycle {core} (h : s.Canonical) : Kept (execCoreDispatchCycle core s) := by
  unfold execCoreDispatchCycle
  refine .ite (.next h) ?_
  refine .next (.setAgenda (.foldl (.enterMerges (.afterPicks (.picks (.candidates ?_)))) fun _ _ h => h.begins))
  exact .foldl h.accrue.setCore fun _ _ h => h.setGroup

theorem kept_execPassedOverPin {core} (h : s.Canonical) : Kept (execPassedOverPin core s) :=
  .ite (.next h) (.next h)

theorem kept_execAgePriority {r} (h : s.Canonical) : Kept (execAgePriority r s) := by
  dsimp only [execAgePriority]
  split
  · exact .next h
  · split
    · exact .ite (.next h) (.next h)
    · exact .next h

end Sys2Proof.Machine
end

section
namespace Sys2Proof.Machine
variable {s t : State} {g : Group} {c : Cur} {p : Path} {b : Block} {gr : Grid}

/-! ### Feed queues, ENQ and signals -/

theorem kept_popRetire {e o f x} (h : s.Canonical) : Kept (popRetire s c g p b gr e o f x) := by
  dsimp only [popRetire]
  refine .ite (kept_stay h) (kept_retire ?_)
  split
  · exact h.setGrid.acquireFor
  · exact h

theorem kept_execWpop {o} (h : s.Canonical) : Kept (execWpop o s) :=
  kept_groupLevel h fun c g p e => kept_withBlock h fun b gr _ => by
    split
    · exact kept_fatal h
    · dsimp only
      split
      · exact kept_popRetire h
      · exact kept_stay h

theorem kept_execWpopWaitExpiry {r} (h : s.Canonical) : Kept (execWpopWaitExpiry r s) :=
  kept_completeWait h fun c g p w => by
    split
    · refine kept_withBlock h fun b gr _ => ?_
      split
      · refine .ite ?_ (.next h)
        split
        · exact kept_popRetire h
        · exact .next h
      · exact .next h
    · exact .next h

theorem kept_locatorRegion {e loc ok bit n} {k : Region → Result} (h : s.Canonical) (hk : ∀ r, Kept (k r)) :
    Kept (locatorRegion s c g p b gr e loc ok bit n k) := by
  dsimp only [locatorRegion]
  split
  · exact kept_fatal h
  · exact .ite (hk _) (kept_fatal h)

theorem kept_execEnq {o} (h : s.Canonical) : Kept (execEnq o s) :=
  kept_memGroup h fun c g gv p e => kept_withBlock h fun b gr _ =>
    kept_locatorRegion h fun r => kept_withLines h fun t p rs ht => by
      dsimp only
      refine .ite (kept_fatal ht) (.ite (kept_fatal ht) (.ite (kept_stay ht) (.ite (kept_stay ht) ?_)))
      exact kept_withLines ht fun u p rs hu => kept_retire hu.storeAt.setReg

theorem kept_signalOp {o} {k : State → Cur → Group → Group → Path → Block → Word → List AtomLine → List Nat → Result}
    (h : s.Canonical) (hk : ∀ t c g gv p b e ls as, t.Canonical → Kept (k t c g gv p b e ls as)) :
    Kept (signalOp o s k) :=
  kept_memGroup h fun _ _ _ _ _ => kept_withBlock h fun _ _ _ =>
    kept_locatorRegion h fun _ => .ite (kept_fatal h) <| kept_withLines h fun _ _ _ ht =>
      .ite (kept_stay ht) (hk _ _ _ _ _ _ _ _ _ ht)

theorem kept_execSigop {op sc acq o} (h : s.Canonical) : Kept (execSigop op sc acq o s) :=
  kept_signalOp h fun t c g gv p b e ls as ht => by
    dsimp only
    refine .ite (kept_stay ht) (kept_retire ?_)
    split
    · exact ht.atomWrite.acquireFor
    · exact ht.atomWrite

theorem kept_execSigwait {cd sc o} (h : s.Canonical) : Kept (execSigwait cd sc o s) :=
  kept_signalOp h fun _ _ _ _ _ _ _ _ _ ht => .ite (kept_retire ht.acquireFor) (kept_stay ht)

/-! ### Nodes and windows -/

theorem State.Canonical.readNode {vd va l x} (h : s.Canonical) (e : s.readNode vd va l = some x) :
    x.2.2.Canonical := by
  simp only [State.readNode] at e
  split at e
  · nomatch e
  · cases e; exact h.deviceRead ‹_›

theorem State.Canonical.rereadNode {vd n} (h : s.Canonical) : (s.rereadNode vd n).2.Canonical := by
  dsimp only [State.rereadNode]
  split
  · exact h
  · split
    · exact h.readNode ‹_›
    · exact h

theorem State.Canonical.rereadNodes {vd l} (h : s.Canonical) : (s.rereadNodes vd l).2.Canonical := by
  induction l generalizing s with
  | nil => exact h
  | cons n l ih => exact ih h.rereadNode

theorem State.Canonical.readHandle {vd r y x} (h : s.Canonical) (e : s.readHandle vd r y = some x) :
    x.2.Canonical := by
  simp only [State.readHandle] at e
  split at e
  · nomatch e
  · split at e
    · nomatch e
    · split at e
      · nomatch e
      · cases e; exact h.deviceRead ‹_›

theorem State.Canonical.readWindow {die vd r l} (h : s.Canonical) : (s.readWindow die vd r l).2.Canonical :=
  h.foldlSnd fun z x hz => by
    split
    · exact hz.readHandle ‹_›
    · exact hz.countRefusal

/-! ### Residence -/

theorem State.Canonical.bearGroups (h : s.Canonical) : (s.bearGroups b gr).Canonical :=
  h.foldl fun _ _ h => h.newId.acquireFor

theorem State.Canonical.wakeGroups (h : s.Canonical) : (s.wakeGroups b).Canonical :=
  h.foldl fun _ _ h => h.setGroup.acquire

theorem State.Canonical.traceStart (h : s.Canonical) : (s.traceStart b).Canonical := h.trace.ite h

theorem State.Canonical.makeResident {core} (h : s.Canonical) (hb : b.Canonical) :
    (s.makeResident gr b core).Canonical := by
  dsimp only [State.makeResident]
  split
  · exact h
  · have hw {d w die r l} : State.Canonical ((s.setVdev d).readWindow die w r l).2 := h.setVdev.readWindow
    refine .ite (.traceStart (.setBlock ?_ hb)) (.setBlock ?_ hb)
    all_goals exact .ite hw.bearGroups hw.wakeGroups

theorem State.Canonical.of_waitingBlocks {dl cl} (h : s.Canonical) (hb : b ∈ s.waitingBlocks gr dl cl) :
    b.Canonical := by
  obtain ⟨n, _, hb⟩ := List.mem_flatMap.1 hb
  exact h.of_mem_blocks (List.mem_filter.1 hb).1

theorem State.Canonical.refreshCaps {dl cl} (h : s.Canonical) : (s.refreshCaps gr dl cl).1.Canonical := by
  dsimp only [State.refreshCaps]
  split
  · exact h
  · exact h.rereadNodes.setGrid

theorem State.Canonical.placeLevel {dl cl hw bs} (h : s.Canonical) (hb : ∀ x ∈ bs, x.1.Canonical) :
    (s.placeLevel gr dl cl hw bs).Canonical :=
  .setGrid <| List.foldlRecOn bs _ h fun _ ht x hx => ht.makeResident (hb x hx)

theorem State.Canonical.admitLevel {dl cl hw cores} (h : s.Canonical) (e : s.admitLevel gr dl cl hw cores = .ok t) :
    t.Canonical := by
  simp only [State.admitLevel] at e
  have hr := h.refreshCaps (gr := gr) (dl := dl) (cl := cl)
  split at e
  · nomatch e
  · split at e
    · nomatch e
    · split at e
      · nomatch e
      · split at e
        · cases e
          exact hr.setCluster.placeLevel fun x hx => hr.of_waitingBlocks (List.of_mem_zip hx).1
        · nomatch e

/-! ### Stops and saves -/

theorem State.Canonical.requestStop (h : s.Canonical) : (s.requestStop b).Canonical :=
  h.mapBlocks fun _ hb => .ite hb hb

theorem kept_execStopRequest {blk} (h : s.Canonical) : Kept (execStopRequest blk s) := by
  unfold execStopRequest
  split
  · exact .ite (.next h.requestStop) (.next h)
  · exact .next h

theorem State.Canonical.removeCore {core out} (h : s.Canonical) : (s.removeCore core out).Canonical :=
  .ite (h.setCore.mapBlocks fun _ hb => .ite hb hb) h.setCore.retestAll

theorem kept_execVdstopGo {vd} (h : s.Canonical) : Kept (execVdstopGo vd s) :=
  kept_inService h <| .next <| h.mapBlocks fun _ hb => .ite hb hb

theorem kept_execVdstopHold {vd on} (h : s.Canonical) : Kept (execVdstopHold vd on s) :=
  kept_inService h <| .next h.setVdev.setReg

theorem kept_execPptWindowExpiry {grp} (h : s.Canonical) : Kept (execPptWindowExpiry grp s) := by
  unfold execPptWindowExpiry
  split
  · exact .next h
  · refine kept_withBlock h fun b gr hb => ?_
    split
    · exact .next h
    · exact .ite (.next (h.stopGroup hb)) (.next h)

theorem kept_execForcedSave {grp} (h : s.Canonical) : Kept (execForcedSave grp s) := by
  unfold execForcedSave
  split
  · exact .next h
  · refine kept_withBlock h fun b gr hb => ?_
    split
    · exact .next h
    · exact .ite (.next (h.stopGroup hb)) (.next h)

theorem State.Canonical.saveGroup {die vd area all} (h : s.Canonical) :
    (s.saveGroup die vd area g all).Canonical := by
  dsimp only [State.saveGroup]
  have reg {p : Prop} [Decidable p] {u : State} {n va bs} (hu : u.Canonical) :
      State.Canonical (if p then u.deviceWriteN die vd n va bs else u) := hu.deviceWriteN.ite hu
  split
  · refine .deviceWriteN (.foldl (.foldl (.foldl ?_ fun _ _ h => h.deviceWriteN) ?_) fun _ _ h => h.deviceWriteN)
    · exact .deviceWriteN (.deviceWriteN (.foldl (.foldl h.deviceWriteN.deviceWriteN fun _ _ => reg) fun _ _ => reg))
    · exact fun _ _ => reg
  · refine .foldl (.foldl (.deviceWriteN (.deviceWriteN ?_)) fun _ _ h => h.deviceWriteN) fun _ _ => reg
    exact .foldl (.foldl h.deviceWriteN.deviceWriteN fun _ _ => reg) fun _ _ => reg

theorem State.Canonical.leaveCluster (h : s.Canonical) : (s.leaveCluster b).Canonical := by
  unfold State.leaveCluster
  split
  · exact h
  · split <;> exact h

theorem State.Canonical.saveUnits {base notes} (h : s.Canonical) : (s.saveUnits b base notes).Canonical :=
  h.deviceWriteN.foldl fun _ _ h => h.deviceWriteN

theorem State.Canonical.saveImage {gs} (h : s.Canonical) : (s.saveImage b gr gs).Canonical := by
  unfold State.saveImage
  split
  · exact .saveUnits (h.deviceWriteN.foldl fun _ _ h => h.saveGroup)
  · exact h

theorem State.Canonical.setGroups {l} (h : s.Canonical) : State.Canonical { s with groups := l } := h

theorem kept_execBlockSaveComplete {blk} (h : s.Canonical) : Kept (execBlockSaveComplete blk s) := by
  dsimp only [execBlockSaveComplete]
  split
  · exact .next h
  · have hb := h.block? ‹_›
    refine .ite (.next h) ?_
    split
    · exact .fault _
    · exact .next (.leaveCluster (.retestAll (.setGrid (.setBlock h.saveImage.setGroups
        ⟨hb.1, keptScratch_wf hb.2⟩))))

/-! ### Completion -/

theorem State.Canonical.traceBlock {gs} (h : s.Canonical) : (s.traceBlock b gs).Canonical := h.trace.ite h

theorem State.Canonical.releaseBlock (h : s.Canonical) : (s.releaseBlock b).Canonical :=
  .leaveCluster (.retestAll (.setBlock (.setVdev (h.foldl fun _ _ h => h.forgetPaths.returnPermits)) ⟨rfl, rfl⟩))

theorem kept_execBlockComplete {blk} (h : s.Canonical) : Kept (execBlockComplete blk s) := by
  unfold execBlockComplete
  split
  · exact .next h
  · exact .ite (.next h.traceBlock.releaseBlock) (.next h)

end Sys2Proof.Machine
end

section
namespace Sys2Proof.Machine
variable {s t : State} {g : Group} {c : Cur} {p : Path} {b : Block} {gr : Grid} {q : BitVec 10}

namespace State.Canonical

/-! ### Threads -/

theorem setThread {x} (h : s.Canonical) : (s.setThread x).Canonical := h

theorem setBlk {on} (h : s.Canonical) : (s.setBlk q on).Canonical := h.setReg

theorem setDone {n} (h : s.Canonical) : (s.setDone q n).Canonical := h.setReg

theorem abortQueue {code} (h : s.Canonical) : (s.abortQueue q code).Canonical :=
  .ite h h.setReg.setReg.setThread.forgetAnswers

theorem pauseThread {pc x a what} (h : s.Canonical) : (s.pauseThread q pc x a what).Canonical :=
  h.sendFault.setThread.forgetAnswers

theorem threadReach {pc va n a what} {bad : State → State} {k : List LineRes → List Nat → State → State}
    (h : s.Canonical) (hb : ∀ u, u.Canonical → (bad u).Canonical)
    (hk : ∀ rs as u, u.Canonical → (k rs as u).Canonical) :
    (s.threadReach q pc va n a what bad k).Canonical := by
  unfold State.threadReach
  split
  · exact h.reachKeep.snd ‹_›
  · exact hk _ _ _ (h.reachKeep.snd ‹_›)
  · exact .ite (h.reachKeep.snd ‹_›).pauseThread (hb _ (h.reachKeep.snd ‹_›))

theorem threadRead {pc va n} {k : List Byte → State → State} (h : s.Canonical)
    (hk : ∀ bs u, u.Canonical → (k bs u).Canonical) : (s.threadRead q pc va n k).Canonical :=
  h.threadReach (fun _ hu => hu.abortQueue) fun _ _ _ hu => hk _ _ hu

theorem threadAtomic {pc va what} {bad : State → State} {f : DWord → DWord} {k : State → State} (h : s.Canonical)
    (hb : ∀ u, u.Canonical → (bad u).Canonical) (hk : ∀ u, u.Canonical → (k u).Canonical) :
    (s.threadAtomic q pc va what bad f k).Canonical :=
  h.threadReach hb fun _ _ _ hu => hk _ hu.atomAt.forgetAnswers

theorem signalDone {pc sig what} {bad : State → State} {k : State → State} (h : s.Canonical)
    (hb : ∀ u, u.Canonical → (bad u).Canonical) (hk : ∀ u, u.Canonical → (k u).Canonical) :
    (s.signalDone q pc sig what bad k).Canonical :=
  .ite (hk _ h) (h.threadAtomic hb hk)

theorem qsigDone (h : s.Canonical) : (s.qsigDone q).Canonical := by
  dsimp only [State.qsigDone]
  split <;> exact h

theorem endAbort (h : s.Canonical) : (s.endAbort q).Canonical := by
  dsimp only [State.endAbort]
  split
  · exact h
  · exact .ite h.setThread.event (.ite h.qsigDone
      (h.threadReach (fun _ hu => hu.qsigDone) fun _ _ _ hu => hu.storeAt.qsigDone))

theorem meterQueue (h : s.Canonical) : (s.meterQueue q).Canonical := h

theorem startPacket {n} (h : s.Canonical) : (s.startPacket q n).Canonical :=
  h.setDone.setBlk.setThread.forgetAnswers.meterQueue

theorem holdPacket {bs blk} (h : s.Canonical) : (s.holdPacket q bs blk).Canonical :=
  h.setThread.setBlk.forgetAnswers

theorem unhold (h : s.Canonical) : (s.unhold q).Canonical := h.setThread.setBlk.forgetAnswers

theorem keepRunning {x} (h : s.Canonical) : (s.keepRunning q x).Canonical := h

theorem dropRunning {n} (h : s.Canonical) : (s.dropRunning q n).Canonical := h

theorem keepSignal {x} (h : s.Canonical) : (s.keepSignal q x).Canonical := h

theorem dropSignal {n} (h : s.Canonical) : (s.dropSignal q n).Canonical := h

/-! ### Packets -/

theorem addBlock (h : s.Canonical) (hb : b.Canonical) :
    State.Canonical { s with blocks := s.blocks ++ [b] } :=
  h.setBlocks fun x hx => by
    rcases List.mem_append.1 hx with hx | hx
    · exact h.of_mem_blocks hx
    · exact List.mem_singleton.1 hx ▸ hb

theorem newBlocks {grid vd l} (h : s.Canonical) : (s.newBlocks grid vd l).Canonical :=
  h.foldl fun _ _ h => h.foldl fun _ _ h => h.foldl fun _ _ h => h.newId.addBlock ⟨rfl, rfl⟩

theorem fillBuckets {vd} (h : s.Canonical) : (s.fillBuckets vd).Canonical := h

theorem addGrid (h : s.Canonical) : State.Canonical { s with grids := s.grids ++ [gr] } := h

theorem startLaunch {n bar sig l} (h : s.Canonical) : (s.startLaunch q n bar sig l).Canonical :=
  h.newId.addGrid.newBlocks.startPacket.fillBuckets.keepRunning

theorem doLaunch {r n pc bs} (h : s.Canonical) : (s.doLaunch q r n pc bs).Canonical := by
  unfold State.doLaunch
  refine h.threadRead fun _ _ h => ?_
  split
  · exact h.abortQueue
  refine h.threadRead fun _ _ h => h.threadRead fun _ _ h => ?_
  split
  · exact h
  split
  · exact h.abortQueue
  · exact .ite h.abortQueue (.ite h.abortQueue (.ite h.startLaunch h.holdPacket))

theorem doFeed {n pc bs} (h : s.Canonical) : (s.doFeed q n pc bs).Canonical := by
  dsimp only [State.doFeed]
  split
  · exact h.abortQueue
  · split
    · exact h.abortQueue
    · exact .ite h.abortQueue (.ite h.holdPacket (h.threadRead fun _ _ h =>
        .ite h.setGrid.startPacket h.setGrid.startPacket.keepSignal))

theorem doCopy {n pc bs} (h : s.Canonical) : (s.doCopy q n pc bs).Canonical := h.startPacket.keepRunning.setThread

theorem readSignals {pc bs i n} {k : List DWord → State → State} (h : s.Canonical)
    (hk : ∀ vs u, u.Canonical → (k vs u).Canonical) : (s.readSignals q pc bs i k n).Canonical := by
  induction n generalizing s i k with
  | zero => exact hk _ _ h
  | succ n ih => exact h.threadRead fun _ _ h => ih h fun _ _ h => hk _ _ h

theorem doWait {n pc bs} (h : s.Canonical) : (s.doWait q n pc bs).Canonical :=
  h.readSignals fun _ _ h => by
    dsimp only
    split
    · exact h.abortQueue
    · exact .ite h.startPacket (.ite h.holdPacket.abortQueue h.holdPacket)

theorem doSignal {n bs} (h : s.Canonical) : (s.doSignal q n bs).Canonical := h.startPacket.keepRunning.keepSignal

theorem actOn {r bs} (h : s.Canonical) : (s.actOn q r bs).Canonical := by
  dsimp only [State.actOn]
  refine .ite h.abortQueue (.ite h.abortQueue ?_)
  split
  · exact h.startPacket
  · exact h.doLaunch
  · exact h.doFeed
  · exact h.doCopy
  · exact h.doWait
  · exact h.doSignal

theorem readPacket {r} (h : s.Canonical) : (s.readPacket q r).Canonical := by
  dsimp only [State.readPacket]
  refine .ite (h.threadRead fun _ _ h => h.actOn) ?_
  split
  · exact h.reachKeep.snd ‹_›
  · exact (h.reachKeep.snd ‹_›).actOn
  · exact (h.reachKeep.snd ‹_›).abortQueue

theorem laneDone {n} (h : s.Canonical) : (s.laneDone q n).Canonical := h

/-- Only some blocks are left. -/
theorem filterBlocks {f : Block → Bool} (h : s.Canonical) :
    State.Canonical { s with blocks := s.blocks.filter f } :=
  h.setBlocks fun _ hb => h.of_mem_blocks (List.mem_filter.1 hb).1

theorem dropGrid (h : s.Canonical) : (s.dropGrid gr).Canonical := h.filterBlocks

theorem failDone {n} (h : s.Canonical) : (s.failDone q n).Canonical := by
  dsimp only [State.failDone]
  refine .abortQueue (.dropRunning (.dropSignal (.laneDone ?_)))
  split
  · exact h.dropGrid
  · exact h

theorem runSignal (h : s.Canonical) : (s.runSignal q).Canonical := by
  dsimp only [State.runSignal]
  split
  · exact h
  · exact .ite h (h.threadAtomic (fun _ h => h.failDone) fun _ h => h.dropSignal.dropRunning)

theorem completePacket {n} {k : State → State} (h : s.Canonical) (hk : ∀ u, u.Canonical → (k u).Canonical) :
    (s.completePacket q n k).Canonical :=
  h.signalDone (fun _ h => h.failDone) fun _ h => (hk _ h).dropRunning

theorem failLaunch (h : s.Canonical) : (s.failLaunch gr).Canonical := by
  dsimp only [State.failLaunch]
  have hr {l : List Block} : State.Canonical (l.foldl (fun (s : State) b => s.releaseBlock b) s) :=
    h.foldl fun _ _ h => h.releaseBlock
  refine .abortQueue (.dropRunning (.ite hr.dropGrid ?_))
  exact hr.setGrid.mapBlocks fun _ hb => .ite hb hb

theorem laneMoved {n} (h : s.Canonical) : (s.laneMoved q n).Canonical :=
  h.setThread.forgetAnswers.meterQueue

theorem laneFault {n} (h : s.Canonical) : (s.laneFault q n).Canonical :=
  h.laneDone.dropRunning.abortQueue.forgetAnswers.disown

theorem laneReach {x va n a} {k : List LineRes → List Nat → State → State} (h : s.Canonical)
    (hk : ∀ rs as u, u.Canonical → (k rs as u).Canonical) : (s.laneReach q x va n a k).Canonical := by
  dsimp only [State.laneReach]
  split
  · exact h.reachKeep.snd ‹_›
  · exact hk _ _ _ (h.reachKeep.snd ‹_›)
  · have h1 := h.reachKeep.snd ‹_›
    exact .ite h1.sendFault.setThread.forgetAnswers h1.laneFault

theorem laneEnd {n} (h : s.Canonical) : (s.laneEnd q n).Canonical :=
  .ite h.laneFault (.ite h (h.completePacket fun _ h => h.laneDone))

theorem writeQdoor {v} (h : s.Canonical) : (s.writeQdoor q v).Canonical :=
  .ite h (.ite h.setReg.setThread (.ite h.setReg.unhold h.setReg))

end State.Canonical

/-! ### The Mill's events and the host's writes -/

theorem kept_execPacketConsume (h : s.Canonical) : Kept (execPacketConsume q s) := by
  dsimp only [execPacketConsume]
  have h1 := h.runSignal (q := q)
  refine .ite (.next (.ite h1 h1.endAbort)) (.ite (.next h1) (.ite (.next h1.abortQueue) (.ite (.next h1.setDone) ?_)))
  split
  · exact .next h1
  · exact .ite (.next h1.setThread.readPacket) (.next h1)

theorem kept_retryHeld {ty} (h : s.Canonical) : Kept (s.retryHeld q ty) := by
  unfold State.retryHeld
  split
  · exact .ite (.next h.actOn) (.next h)
  · exact .next h

theorem kept_execLaunchComplete {grid} (h : s.Canonical) : Kept (execLaunchComplete grid s) := by
  unfold execLaunchComplete
  split
  · exact .next h
  · exact .ite (.next h) (.next (h.completePacket fun _ h => h.dropGrid))

theorem kept_execCopyPacketComplete (h : s.Canonical) : Kept (execCopyPacketComplete q s) := by
  dsimp only [execCopyPacketComplete]
  split
  · exact .next h
  · exact .ite (.next h) (.ite (.next h.laneEnd) (.next (h.laneReach fun _ _ _ h => h.laneReach fun _ _ _ h =>
      h.copyPiece.laneMoved.laneEnd)))

theorem kept_execQcfgWrite {v} (h : s.Canonical) : Kept (execQcfgWrite q v s) :=
  kept_inService h <| .ite (.next h) (.ite (.next h.setReg.setReg.setReg.setThread.unhold) (.next h.setReg))

theorem kept_execQdoorWrite {v} (h : s.Canonical) : Kept (execQdoorWrite q v s) :=
  kept_inService h (.next h.writeQdoor)

theorem kept_execQabort {v} (h : s.Canonical) : Kept (execQabort q v s) :=
  kept_inService h (.ite (.next h.abortQueue) (.next h))

theorem kept_execEvackWrite {vd v} (h : s.Canonical) : Kept (execEvackWrite vd v s) :=
  kept_inService h (.next h.setReg.drainEvents)

end Sys2Proof.Machine
end

section
namespace Sys2Proof.Machine
variable {s t : State} {g : Group} {c : Cur} {p : Path} {b : Block} {gr : Grid} {q : BitVec 10} {vd : BitVec 8}

/-! ### The block dispatchers -/

namespace State.Canonical

theorem tryCluster {dl cl hw} (h : s.Canonical) (e : s.tryCluster gr dl cl hw = .ok t) : t.Canonical := by
  simp only [State.tryCluster] at e
  split at e
  · exact h.admitLevel e
  · nomatch e

theorem tryClusters {dl cl l} (h : s.Canonical) (e : s.tryClusters gr dl cl l = .ok t) : t.Canonical := by
  induction l with
  | nil => nomatch e
  | cons hw l ih =>
    simp only [State.tryClusters] at e
    split at e
    · exact ih e
    · exact h.tryCluster e

theorem admitGang {grid l} {own : Grid → State → Nat → Nat → Option Admit} (h : s.Canonical)
    (ho : ∀ gr u d c v, State.Canonical u → own gr u d c = some (.ok v) → State.Canonical v)
    (e : s.admitGang grid own l = .ok t) : t.Canonical := by
  induction l generalizing s with
  | nil => cases e; exact h
  | cons x l ih =>
    simp only [State.admitGang] at e
    split at e
    · nomatch e
    · split at e
      · next hr =>
        refine ih ?_ e
        split at hr
        · next hown => exact ho _ _ _ _ _ h (hown.trans (congrArg some hr))
        · exact h.tryClusters hr
      · next hr => exact absurd e (hr _)

theorem admitted {r : Admit} (h : s.Canonical) (hr : ∀ t, r = .ok t → t.Canonical) :
    (s.admitted gr r).Canonical := by
  cases r with
  | ok t => exact hr t rfl
  | withdrawn => exact h
  | failed => exact h.failLaunch

theorem meter (h : s.Canonical) : s.meter.Canonical := h.foldl fun _ _ h => h

theorem payOffer {l x} (h : s.Canonical) : (s.payOffer l x).Canonical := h

theorem offerGrid {die x} (h : s.Canonical) (e : s.offerGrid die gr x = .ok t) : t.Canonical := by
  simp only [State.offerGrid] at e
  split at e
  · exact h.admitGang (by rintro _ _ _ _ _ _ ⟨⟩) e
  · split at e
    · exact h.tryClusters e
    · nomatch e

theorem tryOffers {die all l} (h : s.Canonical) : (s.tryOffers die all l).Canonical := by
  induction l with
  | nil => exact h
  | cons x l ih =>
    simp only [State.tryOffers]
    split
    · exact ih
    · split
      · exact (h.offerGrid ‹_›).payOffer
      · exact h.admitted fun _ e => nomatch e
      · exact ih

end State.Canonical

theorem kept_execAdmission {grid dl cl hw cores} (h : s.Canonical) : Kept (execAdmission grid dl cl hw cores s) := by
  dsimp only [execAdmission]
  split
  · exact .next h
  · refine .next (h.admitted fun t e => ?_)
    split at e
    · refine h.admitGang (fun _ _ _ _ _ hu e => ?_) e
      split at e
      · exact hu.admitLevel (Option.some.inj e)
      · nomatch e
    · exact h.admitLevel e

theorem kept_execEnergyWindow (h : s.Canonical) : Kept (execEnergyWindow s) := .ite (.next h) (.next h)

theorem kept_execBlockDispatch {die} (h : s.Canonical) : Kept (execBlockDispatch die s) := .next h.meter.tryOffers

theorem kept_execSlicePreempt {die} (h : s.Canonical) : Kept (execSlicePreempt die s) := by
  dsimp only [execSlicePreempt]
  refine .ite (.next h) ?_
  split
  · exact .next h.requestStop
  · exact .next h

/-! ### Halts -/

namespace State.Canonical

theorem abandonWork {grs} (h : s.Canonical) : (s.abandonWork grs).Canonical :=
  h.foldl fun _ _ h => h.foldl fun _ _ h => by
    split
    · have hb := h.block? ‹_›
      refine .ite ?_ h
      split
      · exact h.abandon hb
      · exact h
    · exact h

theorem withdraw {grp} (h : s.Canonical) : (s.withdraw grp).Canonical := h

theorem haltStop {x} (h : s.Canonical) : (s.haltStop vd x).Canonical := by
  unfold State.haltStop
  extract_lets s1 up cause now isUp gs d chans s2 s3
  have h3 : s3.Canonical := h.abandonWork.setVdev.foldl fun _ _ h => h.withdraw
  clear_value s3
  exact h3.mapBlocks fun _ hb => .ite hb hb

theorem setRecordIndex {n i} (h : s.Canonical) : (s.setRecordIndex vd n i).Canonical :=
  .ite h.writeMem h.deviceWriteN

theorem putRecord {n bs} (h : s.Canonical) : (s.putRecord vd n bs).Canonical :=
  .ite h.setRecordIndex.deviceWriteN h.setRecordIndex

theorem partyRecord {x f o} (h : s.Canonical) : (s.partyRecord vd x f o).Canonical := by
  dsimp only [State.partyRecord]
  split
  · exact h
  · split
    · exact h
    · split
      · exact h
      · exact h.putRecord

theorem threadRecord {x r} (h : s.Canonical) : (s.threadRecord vd x r q).Canonical := h.putRecord

theorem discardGrid (h : s.Canonical) : (s.discardGrid gr).Canonical :=
  .abortQueue (.dropRunning (.dropGrid (h.foldl fun _ _ h => h.releaseBlock)))

theorem haltFinish {x} (h : s.Canonical) : (s.haltFinish vd x).Canonical := by
  dsimp only [State.haltFinish]
  refine .event (.setVdev (.foldl ?_ fun _ _ h => h.discardGrid))
  have h1 {l : List Frozen} {f : Frozen → Frozen} {o : Frozen → Bool} :
      State.Canonical (l.foldl (fun (s : State) y => s.partyRecord vd x (f y) (o y)) s) :=
    h.foldl fun _ _ h => h.partyRecord
  split
  · exact .foldl h1 fun _ _ h => h.threadRecord
  · exact h1

theorem hostHalt {f} (h : s.Canonical) : (s.hostHalt vd f).Canonical := by
  dsimp only [State.hostHalt]
  refine .ite ?_ h.raiseHalt
  split
  · exact h.raiseHalt.haltFinish
  · exact h.raiseHalt

end State.Canonical

theorem kept_execHaltRaise {f} (h : s.Canonical) : Kept (execHaltRaise vd f s) := by
  dsimp only [execHaltRaise]
  split
  · exact .next h
  · exact .ite (.next h.haltStop) (.ite (.next h.haltFinish) (.next h))

theorem kept_execVdhaltRaise {f} (h : s.Canonical) : Kept (execVdhaltRaise vd f s) :=
  kept_inService h (.next h.setReg.hostHalt)

theorem kept_execVdhaltClear {f} (h : s.Canonical) : Kept (execVdhaltClear vd f s) :=
  kept_inService h (.ite (.next h.setReg) (.next h.setReg.setVdev))

theorem State.Canonical.setClkFault {x} (h : s.Canonical) : State.Canonical { s with clkFault := x } := h

theorem kept_execPackageClockFault (h : s.Canonical) : Kept (execPackageClockFault s) :=
  .ite (.next h) (.next (.event (.foldl h.setClkFault.setReg fun _ _ h => h.foldl fun _ _ h => h.raiseHalt)))

theorem State.Canonical.setHomes {l} (h : s.Canonical) : State.Canonical { s with home := l } := h

theorem kept_execCxlMemError {die va} (h : s.Canonical) : Kept (execCxlMemError die vd va s) := by
  dsimp only [execCxlMemError]
  split
  · exact .ite (.next h.setHomes.raiseHalt) (.next h)
  · exact .next h

/-! ### Functions that are reset -/

namespace State.Canonical

theorem zeroPage {va} (h : s.Canonical) : (s.zeroPage vd va).Canonical := by
  dsimp only [State.zeroPage]
  split
  · exact h
  · have ht := h.translate ‹_›
    exact ht.dropLines.setMem (Memory.wf_filter ht.1 _)

theorem zeroSlots {bs} (h : s.Canonical) : (s.zeroSlots vd bs).Canonical := by
  unfold State.zeroSlots
  split
  · exact h
  · refine h.foldl fun _ _ h => ?_
    split
    · exact h
    · exact h.foldl fun _ _ h => h.zeroPage

theorem endResize (h : s.Canonical) : (s.endResize vd).Canonical := by
  unfold State.endResize
  split
  · split
    · exact State.Canonical.event h
    · exact h
  · exact h

theorem endPri {f} (h : s.Canonical) : (s.endPri f).Canonical := h

theorem discardVd (h : s.Canonical) : (s.discardVd vd).Canonical := by
  unfold State.discardVd
  extract_lets s1 doms grs bs s2 gone s3 d s4 s5
  have h1 : s1.Canonical := h.endResize
  have h2 : s2.Canonical := h1.zeroSlots.foldl fun _ _ h => h.releaseBlock
  have h3 : s3.Canonical := h2.foldl fun _ _ h => h.dropGrid
  have h5 : s5.Canonical := h3.setVdev.endPri
  clear_value s5
  exact h5

end State.Canonical

theorem State.Canonical.setVfEnable {x} (h : s.Canonical) : State.Canonical { s with vfEnable := x } := h

theorem kept_execVfEnableClear (h : s.Canonical) : Kept (execVfEnableClear s) :=
  Kept.waking (.ite (.next h.setVfEnable) (.next (.event (.foldl h.setVfEnable fun _ _ h => h.discardVd))))

theorem kept_execFunctionLevelReset (h : s.Canonical) : Kept (execFunctionLevelReset vd s) :=
  Kept.waking (.ite (.next h) (.next h.discardVd.event))

/-! ### The host's answers -/

theorem kept_answerReplay {grp pc sl tag host ok} (h : s.Canonical) :
    Kept (s.answerReplay grp pc sl tag host ok) := by
  dsimp only [State.answerReplay]
  split
  · exact .next h
  · split
    · exact .next h
    · refine .ite (.next h.setGroup) ?_
      split <;> exact kept_freeze h.setGroup

theorem kept_answerFetch {r tag va ok} (h : s.Canonical) : Kept (s.answerFetch r tag va ok) := by
  unfold State.answerFetch
  split
  · exact .next h
  · split
    · exact .next h
    · exact .ite (.next h.setGroup) (kept_freeze h)

theorem State.Canonical.answerCarter {blk ch tag ok} (h : s.Canonical) : (s.answerCarter blk ch tag ok).Canonical := by
  unfold State.answerCarter
  split
  · exact h
  · have hb := h.block? ‹_›
    split
    · exact h
    · exact .ite (.setBlock h hb) (h.copyFault hb)

theorem State.Canonical.answerLane {tag ok} (h : s.Canonical) : (s.answerLane q tag ok).Canonical := by
  dsimp only [State.answerLane]
  split
  · exact h
  · exact .ite h.setThread h.laneFault

theorem State.Canonical.answerThread {tag ok} (h : s.Canonical) : (s.answerThread q tag ok).Canonical := by
  dsimp only [State.answerThread]
  split
  · exact h
  · refine .ite h (.ite h.setThread ?_)
    split
    · exact h.setThread.abortQueue
    · exact h.setThread.failDone
    · exact h.setThread.qsigDone

theorem kept_answerOwner {o tag va host ok} (h : s.Canonical) : Kept (s.answerOwner o tag va host ok) := by
  cases o with
  | replay grp pc slot => exact kept_answerReplay h
  | fetch r => exact kept_answerFetch h
  | carter blk ch => exact .next h.answerCarter
  | lane q => exact .next h.answerLane
  | thread q => exact .next h.answerThread

theorem kept_execFaultResponse {v} (h : s.Canonical) : Kept (execFaultResponse vd v s) := by
  refine kept_inService h ?_
  dsimp only
  split
  · exact .next h
  · exact kept_answerOwner h.setVdev

theorem kept_execPriResponse {tag ok} (h : s.Canonical) : Kept (execPriResponse tag ok s) := by
  unfold execPriResponse
  split
  · exact .next h
  · exact kept_answerOwner h.endPri

end Sys2Proof.Machine
end

section
namespace Sys2Proof.Machine
variable {s t : State} {g : Group} {c : Cur} {p : Path} {b : Block} {gr : Grid} {q : BitVec 10} {vd : BitVec 8}

/-! ### Partitions and roots -/

theorem State.Canonical.setPartPend {x} (h : s.Canonical) : State.Canonical { s with partPend := x } := h

theorem kept_execPartctlGo {v} (h : s.Canonical) : Kept (execPartctlGo v s) :=
  kept_inService h <| .ite (.next h) <| .ite (.next h.setReg) <|
    .next (h.setReg.setPartPend.foldl fun _ _ h => h.requestStop)

theorem State.Canonical.flushBanks {x m} (h : s.Canonical) : (s.flushBanks x m).Canonical := h

theorem State.Canonical.setParts {l x} (h : s.Canonical) : State.Canonical { s with parts := l, partPend := x } := h

theorem kept_execPartitionChangeDone (h : s.Canonical) : Kept (execPartitionChangeDone s) := by
  dsimp only [execPartitionChangeDone]
  split
  · exact .next h
  · exact .ite (.next h) (.next (.event (.setParts h.flushBanks)))

theorem State.Canonical.setWalks {l} (h : s.Canonical) : State.Canonical { s with walks := l } := h

theorem State.Canonical.flushVd (h : s.Canonical) : (s.flushVd vd).Canonical :=
  State.Canonical.setWalks (State.Canonical.recall' h.landStores.dropLines)

theorem kept_execVdrcbWrite {v} (h : s.Canonical) : Kept (execVdrcbWrite vd v s) :=
  kept_inService h <| .ite (.next h) (.next h.flushVd.setReg.setVdev)

/-! ### The debugger -/

namespace State.Canonical

theorem kzBlock {wh} (h : s.Canonical) (e : s.kzBlock vd wh = some b) : b.Canonical := by
  simp only [State.kzBlock] at e
  split at e
  · next hf => cases e; exact h.of_mem_blocks (List.mem_of_find?_eq_some hf)
  · exact h.of_mem_blocks (List.mem_of_find?_eq_some e)

theorem storeKzctl {v} (h : s.Canonical) : (s.storeKzctl v).Canonical := h.setKz

theorem endStep {blk} (h : s.Canonical) : (s.endStep blk).Canonical := h

theorem dump {bs} (h : s.Canonical) : (s.dump vd bs).Canonical := h.foldl fun _ _ h => h.setKz

end State.Canonical

theorem kept_execKzctlStop {v} (h : s.Canonical) : Kept (execKzctlStop v s) := by
  refine kept_inService h (.ite (.next h) ?_)
  have h1 := h.storeKzctl (v := v)
  dsimp only
  split
  · exact .next h1
  · have hb := (h1.kzBlock ‹_›).requestStop (why := none)
    exact .next (.endStep (.setBlock h1 hb))

theorem kept_execKzctlRun {v} (h : s.Canonical) : Kept (execKzctlRun v s) := by
  refine kept_inService h (.ite (.next h) ?_)
  have h1 := h.storeKzctl (v := v)
  dsimp only
  split
  · exact .next h1
  · have hb := h1.kzBlock ‹_›
    exact .ite (.next (.retestAll (.endStep (.setBlock h1 hb)))) (.next h1)

theorem kept_execKzctlStep {v} (h : s.Canonical) : Kept (execKzctlStep v s) := by
  refine kept_inService h (.ite (.next h) ?_)
  have h1 := h.storeKzctl (v := v)
  dsimp only
  split
  · exact .next h1
  · have hb := h1.kzBlock ‹_›
    split
    · exact .next h1
    · split
      · exact .next h1
      · exact .ite (.next (.retestAll (.setBlock h1.setGroup hb))) (.next h1)

theorem kept_execKzctlQui {v} (h : s.Canonical) : Kept (execKzctlQui v s) :=
  kept_inService h (.ite (.next h) (.next h.storeKzctl))

theorem kept_execBlockDebugStopped {blk} (h : s.Canonical) : Kept (execBlockDebugStopped blk s) := by
  dsimp only [execBlockDebugStopped]
  split
  · exact .next h
  · have hb := h.block? ‹_›
    refine .ite (.next h) (.ite (.next (.dump (.ite (.trace (.setBlock h hb)) (.setBlock h hb)))) ?_)
    split
    · exact .next h
    · exact .ite (.next (.ite (.trace (.endStep (.setBlock h hb))) (.endStep (.setBlock h hb)))) (.next h)

theorem kept_execBreakpointStop {r} (h : s.Canonical) : Kept (execBreakpointStop r s) := by
  have hf := h.fetch (r := r)
  unfold execBreakpointStop
  split
  · next e =>
    rw [e] at hf
    split
    · exact .next h
    · dsimp only
      split
      · have hb := State.Canonical.block? hf ‹_›
        exact .next (.setBlock (.setGroup hf) hb.requestStop)
      · exact .next h
  · exact .next h

theorem kept_execKzshselWrite {v} (h : s.Canonical) : Kept (execKzshselWrite v s) :=
  kept_inService h (.next h.setKz.setKz.setKz)

/-! ### Power, tests, firmware and resets -/

theorem State.Canonical.sense {die} (h : s.Canonical) : (s.sense die).Canonical := h.setReg

theorem State.Canonical.setClocks {l n} (h : s.Canonical) : State.Canonical { s with clocks := l, free := n } := h

theorem kept_execPowerWindow {l} (h : s.Canonical) : Kept (execPowerWindow l s) :=
  .ite (.next (h.setClocks.foldl fun _ _ h => h.sense)) (.next h)

theorem State.Canonical.loseCaches (h : s.Canonical) : s.loseCaches.Canonical := h.dropLines

theorem State.Canonical.setPower {x} (h : s.Canonical) : State.Canonical { s with power := x } := h

theorem kept_execIdleEntry (h : s.Canonical) : Kept (execIdleEntry s) := by
  dsimp only [execIdleEntry]
  refine .ite (.next h) ?_
  split
  · exact .next h
  · exact .ite (.next h) (.next (.setPower (.ite h.loseCaches h)))

theorem kept_execIdleWake (h : s.Canonical) : Kept (execIdleWake s) := .next h

theorem kept_execBistctlGo {die v} (h : s.Canonical) : Kept (execBistctlGo die v s) :=
  Kept.waking (.ite (.next h.setReg) (.ite (.next h) (.ite (.next h.setReg) (.next h.setReg))))

theorem State.Canonical.setBist {n l} (h : s.Canonical) : State.Canonical { s with free := n, bist := l } := h

theorem kept_execBistComplete {die} (h : s.Canonical) : Kept (execBistComplete die s) := by
  dsimp only [execBistComplete]
  split
  · exact .next h
  · exact .next (.setBist (.setReg (.ite h.clearL1 h)))

theorem kept_execLmargctlGo {die v} (h : s.Canonical) : Kept (execLmargctlGo die v s) :=
  Kept.waking (.ite (.next h.setReg) (.ite (.next h) (.ite (.next h.setReg) (.next h.setReg))))

theorem kept_execLmargScanComplete {die} (h : s.Canonical) : Kept (execLmargScanComplete die s) := by
  dsimp only [execLmargScanComplete]
  split
  · exact .next h
  · exact .ite (.next h) (.next h.setReg)

theorem kept_execRecgo {v} (h : s.Canonical) : Kept (execRecgo v s) :=
  Kept.waking (.ite (.next h) (.next h.setReg))

theorem kept_execRecgoCheckComplete (h : s.Canonical) : Kept (execRecgoCheckComplete s) := by
  dsimp only [execRecgoCheckComplete]
  refine .ite (.next h) ?_
  split
  · exact .next h.setReg
  · exact .next h.setReg

theorem kept_execAttestationRequest {nonce} (h : s.Canonical) : Kept (execAttestationRequest nonce s) := .next h

theorem State.Canonical.verify (h : s.Canonical) : s.verify.Canonical := by
  dsimp only [State.verify]
  have h1 : State.Canonical { s with free := s.free + 1, staging := [] } := h.setStaging rfl
  split <;> exact h1

/-- Nothing but memory is kept. -/
theorem State.Canonical.of_mem (hm : Memory.wf s.mem = true) (hr : s.regs = []) (hs : s.staging = [])
    (hb : s.blocks = []) : s.Canonical := by
  refine ⟨hm, ?_, ?_, ?_⟩
  · rw [hr]; rfl
  · rw [hs]; rfl
  · rw [hb]; exact fun _ h => nomatch h

theorem kept_execColdReset {mfg} (_ : s.Canonical) : Kept (execColdReset mfg s) :=
  .next (.verify (.of_mem rfl rfl rfl rfl))

theorem kept_execWarmReset (h : s.Canonical) : Kept (execWarmReset s) := by
  refine .next (.verify (.ite (.setReg ?_) ?_))
  all_goals exact .of_mem h.1 rfl rfl rfl

/-! ### Links and the fabric -/

namespace State.Canonical

theorem sendNak {x} (h : s.Canonical) : (s.sendNak x).Canonical := .ite h h

theorem replay {x} (h : s.Canonical) : (s.replay x).Canonical := h.setReg

theorem nakked {x n} (h : s.Canonical) : (s.nakked x n).Canonical := .ite h.replay h.setPort

theorem setTxns {l} (h : s.Canonical) : State.Canonical { s with txns := l } := h

theorem txnFailed {x} (h : s.Canonical) : (s.txnFailed x).Canonical := by
  dsimp only [State.txnFailed]
  have h1 {l} := h.setTxns (l := l)
  split
  · exact h1
  · have hb := State.Canonical.block? h1 ‹_›
    split
    · exact State.Canonical.copyFault h1 hb
    · exact h1

theorem dropPort {n st} (h : s.Canonical) : (s.dropPort n st).Canonical := h.setPort.foldl fun _ _ h => h.txnFailed

end State.Canonical

theorem kept_execFlitReceive {n f} (h : s.Canonical) : Kept (execFlitReceive n f s) :=
  Kept.waking (.ite (.next h) (.ite (.next h.sendNak) (.ite (.next h.nakked) (.ite (.next h.setPort)
    (.ite (.next h.setPort) (.next h.sendNak))))))

theorem kept_execFlitNak {n d} (h : s.Canonical) : Kept (execFlitNak n d s) :=
  Kept.waking (.ite (.next h.nakked) (.next h))

theorem kept_execReplayTimeout {n} (h : s.Canonical) : Kept (execReplayTimeout n s) :=
  .ite (.next h.replay) (.next h)

theorem kept_execPortDown {n} (h : s.Canonical) : Kept (execPortDown n s) :=
  .ite (.next h.dropPort) (.next h)

theorem kept_execPortRetrainTimeout {n} (h : s.Canonical) : Kept (execPortRetrainTimeout n s) := by
  dsimp only [execPortRetrainTimeout]
  split
  · exact .ite (.next h.setPort) (.next h)
  · exact .next h

theorem kept_execFabricPortUp {n} (h : s.Canonical) : Kept (execFabricPortUp n s) :=
  .ite (.next h.setPort) (.next h)

/-- The state an exported range's lines leave; none while one of them is busy. -/
def Exported.state? : Exported → Option State
  | .ok _ s | .refuse _ s => some s
  | .wait => none

namespace State.Canonical

theorem exportLines {die a l} (h : s.Canonical) (e : (s.exportLines die vd a l).state? = some t) : t.Canonical := by
  induction l generalizing s with
  | nil => cases e; exact h
  | cons la l ih =>
    simp only [State.exportLines] at e
    split at e
    · nomatch e
    · split at e
      · cases e; exact h
      · cases e; exact h.countRefusal
      · split at e
        · cases e; exact h.countRefusal
        · split at e
          · next hr => cases e; exact ih (h.homeFetch ‹_›) (by rw [hr]; rfl)
          · exact ih (h.homeFetch ‹_›) e

theorem reply {ports x kind svd why data} (h : s.Canonical) : (s.reply ports x kind svd why data).Canonical := by
  dsimp only [State.reply]
  split
  · exact h.sendTxn ‹_›
  · split
    · exact h.setPort
    · exact h

theorem refuseTxn {x svd why} (h : s.Canonical) : (s.refuseTxn x svd why).Canonical := h.bumpReg.reply

end State.Canonical

theorem kept_serveTxn {x bit a kind} {act : State → List LineRes → List Nat → State × List Byte}
    (h : s.Canonical) (ha : ∀ u rs as, u.Canonical → (act u rs as).1.Canonical) : Kept (s.serveTxn x bit a act kind) := by
  dsimp only [State.serveTxn]
  refine .ite (.next h) (.ite (.next h.refuseTxn) ?_)
  split
  · exact .next h
  · next e => exact .next (State.Canonical.refuseTxn (h.exportLines (by rw [e]; rfl)))
  · next e => exact .next (State.Canonical.reply (ha _ _ _ (h.exportLines (by rw [e]; rfl))))

theorem kept_execFabricRead {x} (h : s.Canonical) : Kept (execFabricRead x s) :=
  kept_serveTxn h fun _ _ _ h => h

theorem kept_execFabricWrite {x} (h : s.Canonical) : Kept (execFabricWrite x s) :=
  kept_serveTxn h fun _ _ _ h => h.storeAt

theorem kept_execFabricAddFp32 {x} (h : s.Canonical) : Kept (execFabricAddFp32 x s) :=
  kept_serveTxn h fun _ _ _ h => h.addAt

theorem kept_execFabricAddBf16 {x} (h : s.Canonical) : Kept (execFabricAddBf16 x s) :=
  kept_serveTxn h fun _ _ _ h => h.addAt

theorem State.Canonical.txnDone {x data} (h : s.Canonical) : (s.txnDone x data).Canonical := by
  dsimp only [State.txnDone]
  have h1 {l} := h.setTxns (l := l)
  split
  · exact h1
  · have hb := State.Canonical.block? h1 ‹_›
    split
    · exact h1
    · exact .setBlock h1 hb

theorem kept_execFabricReadData {x} (h : s.Canonical) : Kept (execFabricReadData x s) := by
  unfold execFabricReadData
  split
  · exact .ite (.next h.txnDone) (.next h)
  · exact .next h

theorem kept_execFabricAck {x} (h : s.Canonical) : Kept (execFabricAck x s) := by
  unfold execFabricAck
  split
  · exact .ite (.next h) (.next h.txnDone)
  · exact .next h

theorem kept_execFabricRefusal {x} (h : s.Canonical) : Kept (execFabricRefusal x s) := by
  unfold execFabricRefusal
  split
  · exact .next h.txnFailed
  · exact .next h

theorem kept_execFabricDeadlineExpiry {n} (h : s.Canonical) : Kept (execFabricDeadlineExpiry n s) := by
  unfold execFabricDeadlineExpiry
  split
  · exact .ite (.next h.txnFailed) (.next h)
  · exact .next h

/-! ### The host's accesses -/

namespace State.Canonical

theorem bankWriteReg {k v} (h : s.Canonical) : (s.bankWriteReg k v).Canonical := by
  unfold State.bankWriteReg
  split
  · exact h
  · exact .ite h h.setReg

theorem portsFollow (h : s.Canonical) : s.portsFollow.Canonical := .ite (h.foldl fun _ _ h => h.dropPort) h

theorem pfWrite {off v} (h : s.Canonical) : (s.pfWrite off v).Canonical :=
  .ite h (.ite h (.ite h.bankWriteReg.portsFollow h.bankWriteReg))

theorem vfWrite {n off v} (h : s.Canonical) : (s.vfWrite n off v).Canonical :=
  .ite h (.ite (.ite h.writeQdoor h) (.ite h.bankWriteReg h))

end State.Canonical

theorem kept_execRegisterWrite {fn off v} (h : s.Canonical) : Kept (execRegisterWrite fn off v s) :=
  Kept.waking (.ite (.next h) (.ite (.next h.pfWrite) (.next h.vfWrite)))

theorem kept_execPhysWindowAccess {off wr} (h : s.Canonical) : Kept (execPhysWindowAccess off wr s) := by
  refine Kept.waking ?_
  dsimp only
  split
  · exact .next h
  · exact .ite (.ite (.next h.writeStaging) (.next h)) (.ite (.next h.writeMem) (.next h))

end Sys2Proof.Machine
end

section
namespace Sys2Proof.Machine
variable {s t : State}

/-! ### Instructions whose definitions name a part first -/

theorem kept_execVcvti {cv o} (h : s.Canonical) : Kept (execVcvti cv o s) := by
  dsimp only [execVcvti]
  exact kept_guarded h fun _ _ _ _ => kept_commit h

theorem kept_execFcvt {cv o} (h : s.Canonical) : Kept (execFcvt cv o s) := by
  dsimp only [execFcvt]
  exact kept_guarded h fun _ _ _ _ => kept_commit h

theorem kept_execHcvt2 {cv o} (h : s.Canonical) : Kept (execHcvt2 cv o s) := by
  dsimp only [execHcvt2]
  exact kept_guarded h fun _ _ _ _ => kept_commit h

theorem kept_execAcas {o} (h : s.Canonical) : Kept (execAcas o s) := by
  dsimp only [execAcas]
  exact kept_laneAtomic h

/-! ### Every instruction, event and step -/

theorem kept_exec (h : s.Canonical) (i : Instr) : Kept (exec i s) :=
  match i with
  | .bra o => show Kept (execBra o s) from kept_uniformBranch h
  | .brx o => show Kept (execBrx o s) from kept_indirect h
  | .brs _ _ => kept_execBrs h
  | .ball o => show Kept (execBall o s) from kept_uniformBranch h
  | .bany o => show Kept (execBany o s) from kept_uniformBranch h
  | .brv _ => kept_execBrv h
  | .join o => show Kept (execJoin o s) from kept_execJoin h
  | .call _ => kept_execCall h
  | .ret o => show Kept (execRet o s) from kept_indirect h
  | .exit _ => kept_execExit h
  | .nop o => show Kept (execNop o s) from kept_withPath fun _ _ _ => kept_retire h
  | .sleep _ => kept_execSleep h
  | .sleepWake _ => kept_execSleepWake h
  | .yield _ => kept_execYield h
  | .sadd o => show Kept (execSadd o s) from kept_scalar2 h
  | .ssub o => show Kept (execSsub o s) from kept_scalar2 h
  | .smul o => show Kept (execSmul o s) from kept_scalar2 h
  | .smulh o => show Kept (execSmulh o s) from kept_scalar2 h
  | .smulhU o => show Kept (execSmulhU o s) from kept_scalar2 h
  | .sdiv o => show Kept (execSdiv o s) from kept_scalar2 h
  | .sdivU o => show Kept (execSdivU o s) from kept_scalar2 h
  | .srem o => show Kept (execSrem o s) from kept_scalar2 h
  | .sremU o => show Kept (execSremU o s) from kept_scalar2 h
  | .sand o => show Kept (execSand o s) from kept_scalar2 h
  | .sor o => show Kept (execSor o s) from kept_scalar2 h
  | .sxor o => show Kept (execSxor o s) from kept_scalar2 h
  | .sshl o => show Kept (execSshl o s) from kept_scalar2 h
  | .sshr o => show Kept (execSshr o s) from kept_scalar2 h
  | .ssra o => show Kept (execSsra o s) from kept_scalar2 h
  | .smin o => show Kept (execSmin o s) from kept_scalar2 h
  | .sminU o => show Kept (execSminU o s) from kept_scalar2 h
  | .smax o => show Kept (execSmax o s) from kept_scalar2 h
  | .smaxU o => show Kept (execSmaxU o s) from kept_scalar2 h
  | .scmp cc u o => show Kept (execScmp cc u o s) from kept_groupLevel h fun _ _ _ _ => kept_commit h
  | .ssel cc o => show Kept (execSsel cc o s) from kept_groupLevel h fun _ _ _ _ => kept_commit h
  | .smov o => show Kept (execSmov o s) from kept_scalar1 h
  | .slit o => show Kept (execSlit o s) from kept_groupLevel h fun _ _ _ _ => kept_commit h
  | .shi o => show Kept (execShi o s) from kept_groupLevel h fun _ _ _ _ => kept_commit h
  | .sclz o => show Kept (execSclz o s) from kept_scalar1 h
  | .spopc o => show Kept (execSpopc o s) from kept_scalar1 h
  | .vaddVv o => show Kept (execVaddVv o s) from kept_vector2 h
  | .vaddVs o => show Kept (execVaddVs o s) from kept_vector2 h
  | .vsubVv o => show Kept (execVsubVv o s) from kept_vector2 h
  | .vsubVs o => show Kept (execVsubVs o s) from kept_vector2 h
  | .vmulVv o => show Kept (execVmulVv o s) from kept_vector2 h
  | .vmulVs o => show Kept (execVmulVs o s) from kept_vector2 h
  | .vmulhVv o => show Kept (execVmulhVv o s) from kept_vector2 h
  | .vmulhVs o => show Kept (execVmulhVs o s) from kept_vector2 h
  | .vmulhUVv o => show Kept (execVmulhUVv o s) from kept_vector2 h
  | .vmulhUVs o => show Kept (execVmulhUVs o s) from kept_vector2 h
  | .vmadVv o => show Kept (execVmadVv o s) from kept_vectorMad h
  | .vmadVs o => show Kept (execVmadVs o s) from kept_vectorMad h
  | .vandVv o => show Kept (execVandVv o s) from kept_vector2 h
  | .vandVs o => show Kept (execVandVs o s) from kept_vector2 h
  | .vorVv o => show Kept (execVorVv o s) from kept_vector2 h
  | .vorVs o => show Kept (execVorVs o s) from kept_vector2 h
  | .vxorVv o => show Kept (execVxorVv o s) from kept_vector2 h
  | .vxorVs o => show Kept (execVxorVs o s) from kept_vector2 h
  | .vshlVv o => show Kept (execVshlVv o s) from kept_vector2 h
  | .vshlVs o => show Kept (execVshlVs o s) from kept_vector2 h
  | .vshrVv o => show Kept (execVshrVv o s) from kept_vector2 h
  | .vshrVs o => show Kept (execVshrVs o s) from kept_vector2 h
  | .vsraVv o => show Kept (execVsraVv o s) from kept_vector2 h
  | .vsraVs o => show Kept (execVsraVs o s) from kept_vector2 h
  | .vminVv o => show Kept (execVminVv o s) from kept_vector2 h
  | .vminVs o => show Kept (execVminVs o s) from kept_vector2 h
  | .vminUVv o => show Kept (execVminUVv o s) from kept_vector2 h
  | .vminUVs o => show Kept (execVminUVs o s) from kept_vector2 h
  | .vmaxVv o => show Kept (execVmaxVv o s) from kept_vector2 h
  | .vmaxVs o => show Kept (execVmaxVs o s) from kept_vector2 h
  | .vmaxUVv o => show Kept (execVmaxUVv o s) from kept_vector2 h
  | .vmaxUVs o => show Kept (execVmaxUVs o s) from kept_vector2 h
  | .vabsdVv o => show Kept (execVabsdVv o s) from kept_vector2 h
  | .vabsdVs o => show Kept (execVabsdVs o s) from kept_vector2 h
  | .vabsdUVv o => show Kept (execVabsdUVv o s) from kept_vector2 h
  | .vabsdUVs o => show Kept (execVabsdUVs o s) from kept_vector2 h
  | .vcmpVv cc u o => show Kept (execVcmpVv cc u o s) from kept_vectorCmp h
  | .vcmpVs cc u o => show Kept (execVcmpVs cc u o s) from kept_vectorCmp h
  | .vselVv o => show Kept (execVselVv o s) from kept_vectorSel h
  | .vselVs o => show Kept (execVselVs o s) from kept_vectorSel h
  | .vnot o => show Kept (execVnot o s) from kept_vector1 h
  | .vclz o => show Kept (execVclz o s) from kept_vector1 h
  | .vpopc o => show Kept (execVpopc o s) from kept_vector1 h
  | .vmov o => show Kept (execVmov o s) from kept_vector1 h
  | .vbcast o => show Kept (execVbcast o s) from kept_guarded h fun _ _ _ _ => kept_commit h
  | .vlid o => show Kept (execVlid o s) from kept_guarded h fun _ _ _ _ => kept_commit h
  | .vcvti _ _ => kept_execVcvti h
  | .faddVv o => show Kept (execFaddVv o s) from kept_vectorF2 h
  | .faddVs o => show Kept (execFaddVs o s) from kept_vectorF2 h
  | .fsubVv o => show Kept (execFsubVv o s) from kept_vectorF2 h
  | .fsubVs o => show Kept (execFsubVs o s) from kept_vectorF2 h
  | .fmulVv o => show Kept (execFmulVv o s) from kept_vectorF2 h
  | .fmulVs o => show Kept (execFmulVs o s) from kept_vectorF2 h
  | .ffmaVv o => show Kept (execFfmaVv o s) from kept_vectorF3 h
  | .ffmaVs o => show Kept (execFfmaVs o s) from kept_vectorF3 h
  | .fminVv o => show Kept (execFminVv o s) from kept_vectorF2 h
  | .fminVs o => show Kept (execFminVs o s) from kept_vectorF2 h
  | .fmaxVv o => show Kept (execFmaxVv o s) from kept_vectorF2 h
  | .fmaxVs o => show Kept (execFmaxVs o s) from kept_vectorF2 h
  | .fcmpVv cc o => show Kept (execFcmpVv cc o s) from kept_vectorFcmp h
  | .fcmpVs cc o => show Kept (execFcmpVs cc o s) from kept_vectorFcmp h
  | .fdivVv o => show Kept (execFdivVv o s) from kept_vectorF2 h
  | .fdivVs o => show Kept (execFdivVs o s) from kept_vectorF2 h
  | .frcp o => show Kept (execFrcp o s) from kept_vectorF1 h
  | .frsq o => show Kept (execFrsq o s) from kept_vectorF1 h
  | .fsqrt o => show Kept (execFsqrt o s) from kept_vectorF1 h
  | .fexp2 o => show Kept (execFexp2 o s) from kept_vectorF1 h
  | .flog2 o => show Kept (execFlog2 o s) from kept_vectorF1 h
  | .frnd o => show Kept (execFrnd o s) from kept_vectorF1 h
  | .fcvt _ _ => kept_execFcvt h
  | .hadd2Vv o => show Kept (execHadd2Vv o s) from kept_vectorF2 h
  | .hadd2Vs o => show Kept (execHadd2Vs o s) from kept_vectorF2 h
  | .hmul2Vv o => show Kept (execHmul2Vv o s) from kept_vectorF2 h
  | .hmul2Vs o => show Kept (execHmul2Vs o s) from kept_vectorF2 h
  | .hfma2Vv o => show Kept (execHfma2Vv o s) from kept_vectorF3 h
  | .hfma2Vs o => show Kept (execHfma2Vs o s) from kept_vectorF3 h
  | .hmin2Vv o => show Kept (execHmin2Vv o s) from kept_vectorF2 h
  | .hmin2Vs o => show Kept (execHmin2Vs o s) from kept_vectorF2 h
  | .hmax2Vv o => show Kept (execHmax2Vv o s) from kept_vectorF2 h
  | .hmax2Vs o => show Kept (execHmax2Vs o s) from kept_vectorF2 h
  | .hcvt2 _ _ => kept_execHcvt2 h
  | .xshf o => show Kept (execXshf o s) from kept_permute h
  | .xbrd o => show Kept (execXbrd o s) from kept_permute h
  | .xxor o => show Kept (execXxor o s) from kept_permute h
  | .xup o => show Kept (execXup o s) from kept_permute h
  | .xdn o => show Kept (execXdn o s) from kept_permute h
  | .xred op o => show Kept (execXred op o s) from kept_guarded h fun _ _ _ _ => kept_commit h
  | .xscan op ex o => show Kept (execXscan op ex o s) from kept_guarded h fun _ _ _ _ => kept_commit h
  | .xvote vt o => show Kept (execXvote vt o s) from kept_groupLevel h fun _ _ _ _ => kept_commit h
  | .pand o => show Kept (execPand o s) from kept_predOp h
  | .por o => show Kept (execPor o s) from kept_predOp h
  | .pxor o => show Kept (execPxor o s) from kept_predOp h
  | .pnot o => show Kept (execPnot o s) from kept_predOp h
  | .pfrom o => show Kept (execPfrom o s) from kept_guarded h fun _ _ _ _ => kept_commit h
  | .pto o => show Kept (execPto o s) from kept_guarded h fun _ _ _ _ => kept_commit h
  | .pcnt o => show Kept (execPcnt o s) from kept_groupLevel h fun _ _ _ _ => kept_commit h
  | .ld _ => kept_execLd h
  | .st _ => kept_execSt h
  | .lds _ => kept_execLds h
  | .sts _ => kept_execSts h
  | .ldu _ => kept_execLdu h
  | .ldm _ => kept_execLdm h
  | .stm _ => kept_execStm h
  | .prf _ => kept_execPrf h
  | .hqry _ => kept_execHqry h
  | .aop o => show Kept (execAop o s) from kept_laneAtomic h
  | .acas _ => kept_execAcas h
  | .saop o => show Kept (execSaop o s) from kept_groupAtomic h
  | .sacas o => show Kept (execSacas o s) from kept_groupAtomic h
  | .ahist _ => kept_execAhist h
  | .csnap _ => kept_execCsnap h
  | .fence _ => kept_execFence h
  | .synca _ => kept_execSynca h
  | .syncr _ => kept_execSyncr h
  | .sack _ => kept_execSack h
  | .bara _ => kept_execBara h
  | .barw _ => kept_execBarw h
  | .barrierPhaseComplete _ => kept_execBarrierPhaseComplete h
  | .gangRoundMessage _ _ _ _ => kept_execGangRoundMessage h
  | .dcf _ => kept_execDcf h
  | .claim _ _ => kept_execClaim h
  | .acq ty o => show Kept (execAcq ty o s) from kept_acquireUnits h
  | .acqTry ty o => show Kept (execAcqTry ty o s) from kept_acquireUnits h
  | .rel _ _ => kept_execRel h
  | .relTakesEffect _ => kept_execRelTakesEffect h
  | .rstat _ _ _ => kept_execRstat h
  | .reeveTest _ => kept_execReeveTest h
  | .reeveFreeze cl req => show Kept (execReeveFreeze cl req s) from .next h
  | .admission _ _ _ _ _ => kept_execAdmission h
  | .blockComplete _ => kept_execBlockComplete h
  | .copy _ _ _ => kept_execCopy h
  | .qfence _ _ => kept_execQfence h
  | .cpoll _ _ => kept_execCpoll h
  | .sleept _ => kept_execSleept h
  | .sleeptWake _ => kept_execSleeptWake h
  | .carterOperationStart _ _ => kept_execCarterOperationStart h
  | .carterOperationComplete _ _ => kept_execCarterOperationComplete h
  | .mma o => show Kept (execMma o s) from kept_gathered h
  | .copym o => show Kept (execCopym o s) from kept_gathered h
  | .mld o => show Kept (execMld o s) from kept_tileMove h
  | .mst o => show Kept (execMst o s) from kept_tileMove h
  | .mzero _ => kept_execMzero h
  | .mbatch _ => kept_execMbatch h
  | .mwait _ => kept_execMwait h
  | .gleanerGather _ => kept_execGleanerGather h
  | .arrayOperationStart _ => kept_execArrayOperationStart h
  | .arrayOperationComplete _ => kept_execArrayOperationComplete h
  | .subarrayGate _ => kept_execSubarrayGate h
  | .vquant o => show Kept (execVquant o s) from kept_guarded h fun _ _ _ _ => kept_commit h
  | .vdeq km1 ctr bf o => show Kept (execVdeq km1 ctr bf o s) from kept_guarded h fun _ _ _ _ => kept_commit h
  | .wpop _ => kept_execWpop h
  | .enq _ => kept_execEnq h
  | .sigop _ _ _ _ => kept_execSigop h
  | .sigwait _ _ _ => kept_execSigwait h
  | .trap _ => kept_execTrap h
  | .tret o => show Kept (execTret o s) from kept_execTret h
  | .brk _ => kept_execBrk h
  | .ppt _ => kept_execPpt h
  | .rdsr _ => kept_execRdsr h
  | .wrsr _ => kept_execWrsr h
  | .trmark _ => kept_execTrmark h
  | .bist _ _ => kept_execBist h
  | .clauseWaitSatisfied _ => kept_execClauseWaitSatisfied h
  | .fetchFault _ => kept_execFetchFault h
  | .coreDispatchCycle _ => kept_execCoreDispatchCycle h
  | .passedOverPin _ => kept_execPassedOverPin h
  | .agePriority _ => kept_execAgePriority h
  | .ageingSwap _ => kept_execAgeingSwap h
  | .compaction _ => kept_execCompaction h
  | .trapBackoffRetry _ => kept_execTrapBackoffRetry h
  | .permitHoldExpiry core => show Kept (execPermitHoldExpiry core s) from .next h
  | .storeBufferDrain _ _ => kept_execStoreBufferDrain h
  | .storeAck _ => kept_execStoreAck h
  | .memoryResponse _ => kept_execMemoryResponse h
  | .homeRequest _ => kept_execHomeRequest h
  | .remoteNak _ => kept_execRemoteNak h
  | .deadlineExpiry _ => kept_execDeadlineExpiry h
  | .packageClockFault => kept_execPackageClockFault h
  | .pageWalk _ _ _ => kept_execPageWalk h
  | .faultResponse _ _ => kept_execFaultResponse h
  | .pginv _ _ => kept_execPginv h
  | .pginvComplete _ => kept_execPginvComplete h
  | .atsInvalidation _ _ _ => kept_execAtsInvalidation h
  | .priResponse _ _ => kept_execPriResponse h
  | .partctlGo _ => kept_execPartctlGo h
  | .partitionChangeDone => kept_execPartitionChangeDone h
  | .vdrcbWrite _ _ => kept_execVdrcbWrite h
  | .tokenArbitration _ _ _ => kept_execTokenArbitration h
  | .stopRequest _ => kept_execStopRequest h
  | .pptWindowExpiry _ => kept_execPptWindowExpiry h
  | .forcedSave _ => kept_execForcedSave h
  | .blockSaveComplete _ => kept_execBlockSaveComplete h
  | .haltRaise _ _ => kept_execHaltRaise h
  | .vfEnableClear => kept_execVfEnableClear h
  | .vdstopGo _ => kept_execVdstopGo h
  | .vdstopHold _ _ => kept_execVdstopHold h
  | .vdhaltRaise _ _ => kept_execVdhaltRaise h
  | .vdhaltClear _ _ => kept_execVdhaltClear h
  | .blockDispatch _ => kept_execBlockDispatch h
  | .energyWindow => kept_execEnergyWindow h
  | .slicePreempt _ => kept_execSlicePreempt h
  | .qcfgWrite _ _ => kept_execQcfgWrite h
  | .qdoorWrite _ _ => kept_execQdoorWrite h
  | .qabort _ _ => kept_execQabort h
  | .packetConsume _ => kept_execPacketConsume h
  | .launchStartDeferred q => show Kept (execLaunchStartDeferred q s) from kept_retryHeld h
  | .launchComplete _ => kept_execLaunchComplete h
  | .feedStartDeferred q => show Kept (execFeedStartDeferred q s) from kept_retryHeld h
  | .copyPacketComplete _ => kept_execCopyPacketComplete h
  | .waitEvaluation q => show Kept (execWaitEvaluation q s) from kept_retryHeld h
  | .waitDeadlineExpiry q => show Kept (execWaitDeadlineExpiry q s) from kept_retryHeld h
  | .millPrefetch q => show Kept (execMillPrefetch q s) from .next h
  | .evackWrite _ _ => kept_execEvackWrite h
  | .kzctlStop _ => kept_execKzctlStop h
  | .blockDebugStopped _ => kept_execBlockDebugStopped h
  | .kzctlRun _ => kept_execKzctlRun h
  | .kzctlStep _ => kept_execKzctlStep h
  | .kzctlQui _ => kept_execKzctlQui h
  | .kzshselWrite _ => kept_execKzshselWrite h
  | .breakpointStop _ => kept_execBreakpointStop h
  | .powerWindow _ => kept_execPowerWindow h
  | .idleEntry => kept_execIdleEntry h
  | .idleWake => kept_execIdleWake h
  | .bistctlGo _ _ => kept_execBistctlGo h
  | .bistComplete _ => kept_execBistComplete h
  | .lmargctlGo _ _ => kept_execLmargctlGo h
  | .lmargScanComplete _ => kept_execLmargScanComplete h
  | .recgo _ => kept_execRecgo h
  | .recgoCheckComplete => kept_execRecgoCheckComplete h
  | .attestationRequest _ => kept_execAttestationRequest h
  | .coldReset _ => kept_execColdReset h
  | .warmReset => kept_execWarmReset h
  | .functionLevelReset _ => kept_execFunctionLevelReset h
  | .cxlMemError _ _ _ => kept_execCxlMemError h
  | .physWindowAccess _ _ => kept_execPhysWindowAccess h
  | .flitReceive _ _ => kept_execFlitReceive h
  | .flitNak _ _ => kept_execFlitNak h
  | .replayTimeout _ => kept_execReplayTimeout h
  | .portDown _ => kept_execPortDown h
  | .portRetrainTimeout _ => kept_execPortRetrainTimeout h
  | .fabricRead _ => kept_execFabricRead h
  | .fabricWrite _ => kept_execFabricWrite h
  | .fabricAddFp32 _ => kept_execFabricAddFp32 h
  | .fabricAddBf16 _ => kept_execFabricAddBf16 h
  | .fabricReadData _ => kept_execFabricReadData h
  | .fabricAck _ => kept_execFabricAck h
  | .fabricRefusal _ => kept_execFabricRefusal h
  | .fabricDeadlineExpiry _ => kept_execFabricDeadlineExpiry h
  | .registerWrite _ _ _ => kept_execRegisterWrite h
  | .illegalInstructionWord _ _ _ => kept_execIllegalInstructionWord h
  | .wpopWaitExpiry _ => kept_execWpopWaitExpiry h
  | .dcfWritebackDone _ => kept_execDcfWritebackDone h
  | .fabricPortUp _ => kept_execFabricPortUp h

theorem State.Canonical.evictHome {die vd va} (h : s.Canonical) : (s.evictHome die vd va).Canonical := by
  unfold State.evictHome
  split
  · exact h
  · exact h.writeBack.dropHome

theorem kept_run {r} (h : s.Canonical) : Kept (stepItem exec (.run r) s) := by
  have hf := h.fetch (r := r)
  dsimp only [stepItem]
  split
  · next e => rw [e] at hf; exact .next hf
  · next e => rw [e] at hf; exact kept_exec hf _

theorem kept_stepItem (h : s.Canonical) (x : Item) : Kept (stepItem exec x s) := by
  cases x with
  | ev i => exact .ite (kept_exec h i) (.next h)
  | run r => exact kept_run h
  | retire r => exact .ite (.next h) (kept_run h)
  | evictHome d v a => exact .next h.evictHome
  | evictRdc d k => exact .next h
  | evictL1 c k => exact .next h
  | dropWalk d v n => exact .next h
  | portLost n => exact kept_execPortDown h
  | powerWindow => exact kept_execPowerWindow h
  | tick n => exact .next (.ite h h)
  | removeCore c out => exact .next h.removeCore
  | setVfEnable => exact .next h
  | softError vd fdom => exact .next h.raiseHalt

theorem kept_step (h : s.Canonical) : Kept (step s) := by
  unfold step
  split
  · exact .next h.setAgenda
  · exact kept_stepItem h.setAgenda _

/-- Settles O7: the canonical form holds of every state that an agenda item leaves, because memory, the register bank
and every block's tile and scratch memory change only by the operations that keep it. -/
theorem canonicalStep : Obligations.CanonicalStep := fun _ _ h e => (kept_step h).of_next e

end Sys2Proof.Machine
end

section
/-!
What a host's access does: the two functions' register writes case by case, and the physical window.
-/
namespace Sys2Proof.Machine
variable {s : State} {k : Nat} {v : DWord} {fn : BitVec 8}

/-! ### Bytes of a number -/

@[simp] theorem length_bytesOfNat (n v : Nat) : (bytesOfNat n v).length = n := by
  induction n generalizing v with
  | zero => rfl
  | succ n ih => simp [bytesOfNat, ih]

theorem getD_bytesOfNat {n i : Nat} (v : Nat) (h : i < n) :
    (bytesOfNat n v).getD i 0 = BitVec.ofNat 8 (v / 2 ^ (8 * i)) := by
  induction n generalizing v i with
  | zero => omega
  | succ n ih =>
    cases i with
    | zero => simp [bytesOfNat]
    | succ i =>
      have hp : 2 ^ (8 * (i + 1)) = 256 * 2 ^ (8 * i) := by rw [Nat.mul_add, Nat.pow_add]; omega
      rw [bytesOfNat, List.getD_cons_succ, ih _ (by omega), hp, Nat.div_div_eq_div_mul]

/-- A byte of memory after a number of 8 bytes is written. -/
theorem Memory.read_writeN_dword {m : Memory} (h : Memory.wf m = true) (d a n : Nat) :
    Memory.read (Memory.writeN m d (bytesOfNat 8 n)) a =
      if d ≤ a ∧ a < d + 8 then BitVec.ofNat 8 (n / 2 ^ (8 * (a - d))) else Memory.read m a := by
  rw [Memory.read_writeN h, length_bytesOfNat]
  split
  · exact getD_bytesOfNat n (by omega)
  · rfl

/-! ### Registers under their access codes -/

theorem State.bankWriteReg_of_some {r : RegInfo} (hr : regInfo k = some r) (hl : s.marginLocked k = false) :
    s.bankWriteReg k v = s.setReg k (r.merge (s.reg k) v) := by
  simp [State.bankWriteReg, hr, hl]

theorem State.bankWriteReg_of_none (hr : regInfo k = none) : s.bankWriteReg k v = s := by
  simp [State.bankWriteReg, hr]

/-- A virtual device's function block lies above the die control spaces, whose margining registers alone are locked. -/
theorem State.marginLocked_vdKey (o : Nat) : s.marginLocked (vdKey fn o) = false := by
  have : ¬ vdKey fn o < 0x40000 := by unfold vdKey; omega
  simp [State.marginLocked, this]

theorem regInfo_vdKey {o : Nat} (ho : o < 0x1000) (h8 : o % 8 = 0) : regInfo (vdKey fn o) = functionReg o := by
  have hfn := fn.isLt
  have hk : 0x100000 ≤ vdKey fn o ∧ vdKey fn o < 0x200000 ∧ vdKey fn o % 8 = 0 := by unfold vdKey; omega
  have ho : vdKey fn o % 0x1000 = o := by unfold vdKey; omega
  simp only [regInfo, Bool.and_eq_true, decide_eq_true_eq]
  rw [if_neg (by omega), if_neg (by omega), if_neg (by omega), if_neg (by omega), if_neg (by omega),
    if_neg (by omega), if_neg (by omega), if_pos (by omega), ho]

theorem selectsHalt_vdKey {o : Nat} (ho : o < 0x1000) :
    selectsHalt (vdKey fn o) v = (o == 0x108 && (v.extractLsb' 62 2) == 0) := by
  have hfn := fn.isLt
  have h1 : 0x100000 ≤ vdKey fn o := by unfold vdKey; omega
  have h2 : vdKey fn o < 0x200000 := by unfold vdKey; omega
  have h3 : vdKey fn o % 0x1000 = o := by unfold vdKey; omega
  simp [selectsHalt, h1, h2, h3]

theorem RegInfo.merge_allOnes (old : DWord) : RegInfo.merge ⟨0, 0xFFFFFFFFFFFFFFFF, 0⟩ old v = v := by
  refine BitVec.eq_of_getLsbD_eq fun i hi => ?_
  have hrw : (0xFFFFFFFFFFFFFFFF : DWord) = BitVec.allOnes 64 := rfl
  rw [RegInfo.merge_bit, if_pos (by rw [hrw, BitVec.getLsbD_allOnes, decide_eq_true hi])]

theorem RegInfo.merge_low4 (old : DWord) :
    RegInfo.merge ⟨0, 0xF, 0⟩ old v = (v &&& 0xF) ||| (old &&& 0xFFFFFFFFFFFFFFF0) := by
  have hnot : ~~~(v &&& (0 : DWord)) = BitVec.allOnes 64 :=
    congrArg _ (BitVec.and_zero (x := v))
  rw [RegInfo.merge, hnot, BitVec.and_allOnes]
  rfl

/-! ### The physical function's writes -/

theorem exec_registerWrite_misaligned {off : BitVec 24} (h : off.toNat % 8 ≠ 0) :
    exec (.registerWrite fn off v) s = .next s.wake := by
  change execRegisterWrite fn off v s = _
  rw [execRegisterWrite, if_pos h]; rfl

theorem exec_registerWrite_pf {off : BitVec 24} (h : off.toNat % 8 = 0) :
    exec (.registerWrite 0 off v) s = .next (s.pfWrite off.toNat v).wake := by
  change execRegisterWrite 0 off v s = _
  rw [execRegisterWrite, if_neg (by omega), if_pos rfl]; rfl

theorem exec_registerWrite_vf {off : BitVec 24} (h : off.toNat % 8 = 0) (hf : fn ≠ 0) :
    exec (.registerWrite fn off v) s = .next (s.vfWrite fn off.toNat v).wake := by
  change execRegisterWrite fn off v s = _
  rw [execRegisterWrite, if_neg (by omega), if_neg hf]; rfl

theorem State.pfWrite_closed {off : Nat}
    (h : s.recovery = true ∧ 0x40000 ≤ off ∨ regInfo (s.bar0Key off) = none ∧ s.bar0Key off ≠ 0x40300 ∨
      (ownEvent (s.bar0Key off) = true ∧ selectsHalt (s.bar0Key off) v = false)) : s.pfWrite off v = s := by
  unfold State.pfWrite
  obtain ⟨hr, ho⟩ | ⟨hn, hk⟩ | ⟨he, hs⟩ := h
  · simp [hr, ho]
  · simp [State.bankWriteReg_of_none hn, hk]
  · simp [he, hs]

theorem State.pfWrite_open {off : Nat} {r : RegInfo} (ho : s.recovery = false ∨ off < 0x40000)
    (he : ownEvent (s.bar0Key off) = false) (hl : s.marginLocked (s.bar0Key off) = false)
    (hk : s.bar0Key off ≠ 0x40300) (hr : regInfo (s.bar0Key off) = some r) :
    s.pfWrite off v = s.setReg (s.bar0Key off) (r.merge (s.reg (s.bar0Key off)) v) := by
  have hc : ¬ (s.recovery = true ∧ 0x40000 ≤ off) := by
    rintro ⟨hrec, hoff⟩
    rcases ho with ho | ho
    · simp [ho] at hrec
    · omega
  simp [State.pfWrite, hc, he, hk, State.bankWriteReg_of_some hr hl]

/-! ### A virtual function's writes -/

/-- The offsets of a virtual function's BAR0 that take no write of it: neither its own registers nor the doorbell of
a queue of its own. -/
def State.vfIgnores (s : State) (fn : BitVec 8) (off : Nat) : Prop :=
  (0x1000 ≤ off ∧ (off < 0x10000 ∨ 0x20000 ≤ off ∨ off % 64 ≠ 0x20 ∨
      s.qVd (BitVec.ofNat 10 ((off - 0x10000) / 64)) ≠ fn)) ∨
    (off < 0x1000 ∧ off ≠ 0x200 ∧ off ≠ 0x208 ∧ off ≠ 0x108)

theorem State.vfWrite_closed {off : Nat} (h : s.vfEnable = false ∨ s.recovery = true) : s.vfWrite fn off v = s := by
  unfold State.vfWrite
  rcases h with h | h <;> simp [h]

theorem State.vfWrite_ignored {off : Nat} (h : s.vfIgnores fn off) : s.vfWrite fn off v = s := by
  unfold State.vfWrite
  dsimp only
  split
  · rfl
  · obtain ⟨ho, hq⟩ | ⟨ho, h1, h2, h3⟩ := h
    · rw [if_pos ho, if_neg]
      simp only [Bool.and_eq_true, decide_eq_true_eq, beq_iff_eq]
      rintro ⟨⟨⟨ha, hb⟩, hc⟩, hd⟩
      rcases hq with hq | hq | hq | hq
      · omega
      · omega
      · exact hq hc
      · exact hq hd
    · rw [if_neg (by omega), selectsHalt_vdKey ho, if_neg]
      simp [h1, h2, h3]

/-- A register of its own takes the function's value under its access codes. -/
theorem State.vfWrite_own {off : Nat} {r : RegInfo} (hv : s.vfEnable = true) (hr : s.recovery = false)
    (ho : off = 0x200 ∨ off = 0x208 ∨ off = 0x108 ∧ v.extractLsb' 62 2 = 0) (hi : functionReg off = some r) :
    s.vfWrite fn off v = s.setReg (vdKey fn off) (r.merge (s.reg (vdKey fn off)) v) := by
  have hlt : off < 0x1000 := by omega
  have hk : regInfo (vdKey fn off) = some r := by rw [regInfo_vdKey hlt (by omega), hi]
  unfold State.vfWrite
  dsimp only
  rw [if_neg (by simp [hv, hr]), if_neg (by omega), selectsHalt_vdKey hlt, if_pos (by simpa [or_assoc] using ho),
    State.bankWriteReg_of_some hk (State.marginLocked_vdKey off)]

/-- A VDHALT write that raises or clears is an event of its own. -/
theorem State.vfWrite_vdhalt_action (h : v.extractLsb' 62 2 ≠ 0) : s.vfWrite fn 0x108 v = s := by
  unfold State.vfWrite
  dsimp only
  split
  · rfl
  · rw [if_neg (by omega), selectsHalt_vdKey (by omega), if_neg (by simpa using h)]

/-- The doorbell of a queue of its own, by its place in the function's BAR0. -/
theorem State.vfWrite_doorbell {q : BitVec 10} (hv : s.vfEnable = true) (hr : s.recovery = false)
    (hq : s.qVd q = fn) : s.vfWrite fn (0x10020 + 64 * q.toNat) v = s.writeQdoor q v := by
  have hlt := q.isLt
  have hn : (0x10020 + 64 * q.toNat - 0x10000) / 64 = q.toNat := by omega
  have hd : 0x10000 ≤ 0x10020 + 64 * q.toNat ∧ 0x10020 + 64 * q.toNat < 0x20000 ∧
      (0x10020 + 64 * q.toNat) % 64 = 0x20 := by omega
  unfold State.vfWrite
  dsimp only
  rw [if_neg (by simp [hv, hr]), if_pos (by omega), hn, BitVec.ofNat_toNat, BitVec.setWidth_eq, if_pos]
  simp [hq, hd]

theorem exec_qdoorWrite {q : BitVec 10} (hr : s.recovery = false) :
    exec (.qdoorWrite q v) s = .next (s.writeQdoor q v).wake := by
  change execQdoorWrite q v s = _
  rw [execQdoorWrite, inService, if_neg (by simp [hr])]; rfl

/-! ### The physical window -/

theorem exec_physWindowAccess_frame {w : BitVec 38} (hr : s.recovery = false) :
    exec (.physWindowAccess w (some v)) s =
      if s.backed (s.windowPa w).1 (s.windowPa w).2 then
        .next (State.wake { s with
          mem := Memory.writeN s.mem (frameKey (s.windowPa w).1 (s.windowPa w).2) (bytesOfNat 8 v.toNat) })
      else .next s.wake := by
  change execPhysWindowAccess w (some v) s = _
  simp only [execPhysWindowAccess, hr, Bool.false_eq_true, if_false]
  split <;> rfl

theorem exec_physWindowAccess_staging {w : BitVec 38} (hr : s.recovery = true) :
    exec (.physWindowAccess w (some v)) s =
      if w.toNat + 8 ≤ 0x4000000 then
        .next (State.wake { s with staging := Memory.writeN s.staging w.toNat (bytesOfNat 8 v.toNat) })
      else .next s.wake := by
  change execPhysWindowAccess w (some v) s = _
  simp only [execPhysWindowAccess, hr, if_true, stagingBytes]
  split <;> rfl

/-! ### The statement -/

theorem physicalFunctionWrites {off : BitVec 24} {r : RegInfo} (hw : RegBank.wf s.regs = true)
    (h8 : off.toNat % 8 = 0) (hk : k = s.bar0Key off.toNat) :
    (s.recovery = true ∧ 0x40000 ≤ off.toNat ∨ regInfo k = none ∧ k ≠ 0x40300 ∨
        (ownEvent k = true ∧ selectsHalt k v = false) →
      exec (.registerWrite 0 off v) s = .next s.wake) ∧
    (s.recovery = false ∨ off.toNat < 0x40000 → ownEvent k = false → s.marginLocked k = false → k ≠ 0x40300 →
      regInfo k = some r → ∃ t, exec (.registerWrite 0 off v) s = .next t ∧
        t = (s.setReg k (t.reg k)).wake ∧ ∀ i, i < 64 → (t.reg k).getLsbD i =
          (if r.rw.getLsbD i then v.getLsbD i
           else if r.w1c.getLsbD i && v.getLsbD i then false else (s.reg k).getLsbD i)) := by
  subst hk
  rw [exec_registerWrite_pf h8]
  refine ⟨fun h => by rw [State.pfWrite_closed h], fun ho he hl hk hr => ⟨_, rfl, ?_⟩⟩
  rw [State.pfWrite_open ho he hl hk hr]
  generalize s.bar0Key off.toNat = k
  have hv : (s.setReg k (r.merge (s.reg k) v)).wake.reg k = r.merge (s.reg k) v := by
    change (s.setReg k _).reg k = _
    rw [State.reg_setReg hw, if_pos rfl]
  rw [hv]
  refine ⟨rfl, fun i _ => ?_⟩
  rw [RegInfo.merge_bit]
  split
  · rfl
  · rw [Bool.and_comm (v.getLsbD i)]
    cases r.w1c.getLsbD i && v.getLsbD i <;> simp

theorem virtualFunctionWrites {off : BitVec 24} (h8 : off.toNat % 8 = 0) (hf : fn ≠ 0) :
    (s.vfEnable = false ∨ s.recovery = true ∨ (0x1000 ≤ off.toNat ∧ (off.toNat < 0x10000 ∨ 0x20000 ≤ off.toNat ∨
          off.toNat % 64 ≠ 0x20 ∨ s.qVd (BitVec.ofNat 10 ((off.toNat - 0x10000) / 64)) ≠ fn)) ∨
        (off.toNat < 0x1000 ∧ off.toNat ≠ 0x200 ∧ off.toNat ≠ 0x208 ∧ off.toNat ≠ 0x108) →
      exec (.registerWrite fn off v) s = .next s.wake) ∧
    (s.vfEnable = true → s.recovery = false → off.toNat = 0x200 →
      exec (.registerWrite fn off v) s = .next (s.setReg (vdKey fn 0x200) v).wake) ∧
    (s.vfEnable = true → s.recovery = false → off.toNat = 0x108 →
      (v.extractLsb' 62 2 ≠ 0 → exec (.registerWrite fn off v) s = .next s.wake) ∧
      (v.extractLsb' 62 2 = 0 → ∃ x, regInfo (vdKey fn 0x108) = some x ∧ exec (.registerWrite fn off v) s =
        .next (s.setReg (vdKey fn 0x108) (x.merge (s.reg (vdKey fn 0x108)) v)).wake)) ∧
    (s.vfEnable = true → s.recovery = false → off.toNat = 0x208 →
      exec (.registerWrite fn off v) s = .next (s.setReg (vdKey fn 0x208)
        ((v &&& 0xF) ||| (s.reg (vdKey fn 0x208) &&& 0xFFFFFFFFFFFFFFF0))).wake) ∧
    (s.vfEnable = true → s.recovery = false → ∀ q : BitVec 10, off.toNat = 0x10020 + 64 * q.toNat → s.qVd q = fn →
      exec (.registerWrite fn off v) s = exec (.qdoorWrite q v) s) := by
  rw [exec_registerWrite_vf h8 hf]
  refine ⟨fun h => ?_, fun hv hr ho => ?_, fun hv hr ho => ⟨fun ha => ?_, fun ha => ?_⟩, fun hv hr ho => ?_,
    fun hv hr q ho hq => ?_⟩
  · rw [← or_assoc] at h
    rcases h with h | h
    · rw [State.vfWrite_closed h]
    · rw [State.vfWrite_ignored h]
  · rw [ho, State.vfWrite_own hv hr (.inl rfl) rfl, RegInfo.merge_allOnes]
  · rw [ho, State.vfWrite_vdhalt_action ha]
  · refine ⟨_, (regInfo_vdKey (by omega) (by omega)).trans rfl, ?_⟩
    rw [ho, State.vfWrite_own hv hr (.inr (.inr ⟨rfl, ha⟩)) rfl]
  · rw [ho, State.vfWrite_own hv hr (.inr (.inl rfl)) rfl, RegInfo.merge_low4]
  · rw [ho, State.vfWrite_doorbell hv hr hq, exec_qdoorWrite hr]

/-- Settles O60: each access comes to the write of one register, of the frame's 8 bytes or of nothing, case by case
of the physical function, a virtual function and the window. -/
theorem hostAccesses : Obligations.HostAccesses := by
  intro s fn off w v k a r hw hm hk
  refine ⟨exec_registerWrite_misaligned, fun h8 hf => hf ▸ physicalFunctionWrites hw h8 hk,
    virtualFunctionWrites, rfl, fun hr => ?_, fun hr => ?_⟩
  · rw [exec_physWindowAccess_frame hr]
    refine ⟨fun hb => by simp [hb], fun hb => ⟨_, if_pos hb, rfl, rfl, fun d hd => ?_⟩⟩
    subst hd
    exact Memory.read_writeN_dword hm _ a v.toNat
  · rw [exec_physWindowAccess_staging hr]
    split
    · exact ⟨_, rfl, rfl, fun _ => rfl, fun hlt => by omega⟩
    · exact ⟨_, rfl, rfl, fun hle => by omega, fun _ => rfl⟩

end Sys2Proof.Machine
end

section
/-!
Where a line's bytes come from: the L1, the home on the access's own die, and the answer of another die.
-/
namespace Sys2Proof.Machine
variable {s : State} {st : Site} {p : Path} {hidx : Nat} {a : Access}

/-! ### A line at its home -/

theorem State.homeLine?_key {die : BitVec 2} {vd : BitVec 8} {la : Va} {h : HomeLine}
    (hh : s.homeLine? die vd la = some h) : h.die = die ∧ h.vd = vd ∧ h.va = la := by
  simpa [and_assoc] using List.find?_some hh

/-- A line that the L2 holds stays in its place and is used last. -/
theorem State.setHome_inL2 {h : HomeLine} (hh : s.homeLine? h.die h.vd h.va = some h) (hl : h.inL2 = true) :
    s.setHome h = s.putHome h := by
  simp only [State.setHome, hh, hl, Bool.true_or, if_true]

/-- A line in its home's L2 is served from there. -/
theorem State.homeFetch_inL2 {die : BitVec 2} {vd : BitVec 8} {la : Va} {h : HomeLine} (hla : lineOf la = la)
    (hh : s.homeLine? die vd la = some h) (hl : h.inL2 = true) : s.homeFetch die vd la = .ok (h, s.putHome h) := by
  obtain ⟨rfl, rfl, rfl⟩ := State.homeLine?_key hh
  have hsame : { h with inL2 := true } = h := by rw [← hl]
  simp only [State.homeFetch, hla, hh, hsame, State.setHome_inL2 hh hl]

/-! ### What another die is asked for -/

/-- A path that has asked for no line of this key asks for it. -/
theorem State.askRemote_first {k : LineKey} (hp : p.pend.find? (fun x => x.key == k) = none)
    (hn : s.noTag st.vd a k = false) (hr : ∀ x ∈ s.resps, x.req.who ≠ .path st.path) :
    s.askRemote st p hidx a k = (.wait, { p with pend := p.pend ++ [⟨s.nextId, k⟩] },
      (s.send (.path st.path) st.die st.vd a k hidx).2) := by
  have hkeep : (p.pend.filter fun x => x.key != k) = p.pend :=
    List.filter_eq_self.2 fun x hx => by simpa [bne] using List.find?_eq_none.1 hp x hx
  have hresps : ∀ q : Response → Bool, (s.resps.filter fun x => !(x.there && x.req.who == .path st.path && q x)) =
      s.resps := fun q => List.filter_eq_self.2 fun x hx => by simp [hr x hx]
  simp only [State.askRemote, hp, hn, hkeep, hresps, Option.bind_none, Option.any_none, Bool.or_false,
    Bool.false_eq_true, if_false]
  rfl

/-- A path whose request or its answer is on its way waits. -/
theorem State.askRemote_onWay {k : LineKey} {x : PendLine} (hp : p.pend.find? (fun x => x.key == k) = some x)
    (hn : s.answerOf x.n = none) (hw : s.onWay x.n = true) : s.askRemote st p hidx a k = (.wait, p, s) := by
  simp [State.askRemote, hp, hn, hw]

/-- A path whose answer has come takes it. -/
theorem State.askRemote_answered {k : LineKey} {x : PendLine} {r : LineResult}
    (hp : p.pend.find? (fun x => x.key == k) = some x) (hn : s.answerOf x.n = some r) :
    s.askRemote st p hidx a k = (answered a r, p, s) := by
  simp [State.askRemote, hp, hn]

/-! ### The level below the L1 -/

/-- A line in the L2 of its home, on the access's own die, is served from there under its leaf. -/
theorem State.below_own {la : Va} {h : HomeLine} (hla : lineOf la = la)
    (hh : s.homeLine? st.die st.vd la = some h) (hl : h.inL2 = true) :
    s.below st p hidx a (.mem st.die st.vd la) = (checked false a h.bytes (some h.leaf), p, s.putHome h) := by
  simp [State.below, State.belowMem, State.homeFetch_inL2 hla hh hl]

/-- A line homed on another die, of which the RDC has no copy, is asked for there. -/
theorem State.below_remote {home : BitVec 2} {vd : BitVec 8} {la : Va} (hd : home ≠ st.die)
    (hr : s.rdcLine? st.die (.mem home vd la) = none) :
    s.below st p hidx .read (.mem home vd la) = s.askRemote st p hidx .read (.mem home vd la) := by
  simp [State.below, State.belowMem, hd, hr]

/-! ### An access -/

/-- An access to a page under invalidation waits. -/
theorem State.confirm_busy {k : LineKey} (hk : s.keyBusy k = true) : s.confirm st p hidx a k = (.wait, p, s) := by
  simp [State.confirm, hk]

/-- A read of a line the L1 holds wholly takes it from there. -/
theorem State.confirm_read_hit {k : LineKey} {x : L1Line} (hk : s.keyBusy k = false)
    (hx : s.l1Line? st.core k = some x) (hl : leafPermits x.leaf .read = true) (hv : x.valid = fullMarks) :
    s.confirm st p hidx .read k = (.ok x.bytes x.leaf, p, s) := by
  simp [State.confirm, State.confirmRead, hk, hx, hl, hv]

/-- A read that misses the L1 fills it with a cached line that comes from below. -/
theorem State.confirm_read_fill {k : LineKey} {bs : List Byte} {l : Option Leaf} {q : Path} {t : State}
    (hk : s.keyBusy k = false) (hx : s.l1Line? st.core k = none) (hc : k.cached = true)
    (hb : s.below st p hidx .read k = (.ok bs l, q, t)) :
    s.confirm st p hidx .read k = (.ok bs l, q, t.setL1 ⟨st.core, k, bs, fullMarks, hidx, l, []⟩) := by
  simp [State.confirm, State.confirmRead, hk, hx, hc, hb]

/-- A read that misses the L1 and gets no bytes from below ends as the level below has it. -/
theorem State.confirm_read_unfilled {k : LineKey} {o : LineOut} {q : Path} {t : State}
    (hk : s.keyBusy k = false) (hx : s.l1Line? st.core k = none) (ho : ∀ bs l, o ≠ .ok bs l)
    (hb : s.below st p hidx .read k = (o, q, t)) : s.confirm st p hidx .read k = (o, q, t) := by
  cases o with
  | ok bs l => exact absurd rfl (ho bs l)
  | cause c => simp [State.confirm, State.confirmRead, hk, hx, hb]
  | wait => simp [State.confirm, State.confirmRead, hk, hx, hb]

/-- A store that misses the L1 asks the level below. -/
theorem State.confirm_write_miss {k : LineKey} (hk : s.keyBusy k = false) (hx : s.l1Line? st.core k = none) :
    s.confirm st p hidx .write k = s.below st p hidx .write k := by
  simp [State.confirm, State.confirmWrite, hk, hx]

/-- An atomic goes past the L1. -/
theorem State.confirm_atomic {k : LineKey} (hk : s.keyBusy k = false) :
    s.confirm st p hidx .atomic k = s.below st p hidx .atomic k := by
  simp [State.confirm, hk]

theorem checked_permitted {r : Bool} {bs : List Byte} {l : Option Leaf} (h : leafPermits l a = true) :
    checked r a bs l = .ok bs l := if_pos h

theorem checked_own_refused {bs : List Byte} {l : Leaf} (h : l.permits a = false) :
    checked false a bs (some l) = .cause 0x21 := by
  simp [checked, leafPermits, h]

/-- Settles O32, by the place the line is found in: the L1, the home on the access's own die, another die's answer. -/
theorem cachedLines : Obligations.CachedLines := by
  rintro s st p hidx la k home rfl hla
  have busyIff : s.keyBusy (.mem home st.vd la) = s.pageBusy st.vd la := rfl
  rw [← busyIff]
  refine ⟨fun hb a => State.confirm_busy hb, fun hb => ⟨fun x hx hl hv => State.confirm_read_hit hb hx hl hv,
    fun h hx hd hh hl => ?ownDie, fun hx hd hr => ?otherDie⟩⟩
  case ownDie =>
    subst hd
    refine ⟨fun hr => ?_, fun hr => ?_, fun hw => ?_, fun ha => ?_⟩
    · refine State.confirm_read_fill hb hx rfl ?_
      rw [State.below_own hla hh hl, checked_permitted (a := .read) (l := some h.leaf) hr]
    · refine State.confirm_read_unfilled hb hx (by simp) ?_
      rw [State.below_own hla hh hl, checked_own_refused hr]
    · rw [State.confirm_write_miss hb hx, State.below_own hla hh hl, checked_own_refused hw]
    · rw [State.confirm_atomic hb, State.below_own hla hh hl, checked_own_refused ha]
  case otherDie =>
    have hbelow := State.below_remote (p := p) (hidx := hidx) hd hr
    refine ⟨fun hp hs => ?_, fun x hp => ⟨fun hn hw => ?_, fun bs l hn hl => ?_, fun hn => ?_, fun hn => ?_⟩⟩
    · refine State.confirm_read_unfilled hb hx (by simp) ?_
      rw [hbelow, State.askRemote_first hp rfl hs]
      rfl
    · exact State.confirm_read_unfilled hb hx (by simp) (hbelow.trans (State.askRemote_onWay hp hn hw))
    · refine State.confirm_read_fill hb hx rfl ?_
      rw [hbelow, State.askRemote_answered hp hn, answered, checked_permitted hl]
    · exact State.confirm_read_unfilled hb hx (by simp) (hbelow.trans (State.askRemote_answered hp hn))
    · exact State.confirm_read_unfilled hb hx (by simp) (hbelow.trans (State.askRemote_answered hp hn))

end Sys2Proof.Machine
end

section
/-!
What a core's cycle does to a memory that is not in canonical order: the write-back of a displaced line changes a byte
that the line does not cover.
-/
namespace Sys2Proof.Machine

/-- What O49 says of the memory after a core's cycle in which no pin is due. -/
theorem keepsMem_of_coreDispatch (h : Obligations.CoreDispatch) {s : State} {core : BitVec 9} (b : Block)
    (hpin : (s.core core).pinDue = false) : ∃ t, exec (.coreDispatchCycle core) s = .next t ∧ s.KeepsMem t := by
  obtain ⟨hcore, -⟩ := h
  obtain ⟨-, -, hcycle, -⟩ := hcore s core (s.core core) ⟨0, false⟩ (freshGroup 0 0 0 0 0 0 []) (freshPath 0)
    b rfl (State.core_id s core)
  obtain ⟨-, hcycle⟩ := hcycle hpin
  obtain ⟨t, _, _, ht, -, -, -, -, -, -, -, -, -, -, -, -, -, -, -, hmem, -⟩ :=
    hcycle _ _ _ _ _ _ _ _ rfl rfl (Prod.eta _).symm ((Prod.eta _).symm.trans (congrArg _ (Prod.eta _).symm)) rfl
  exact ⟨t, ht, hmem⟩

/-- A full set of die 0's LLC: 32 lines of virtual device 0, in each of which byte 0, a 0 that a store wrote, is still
to be written back to the first byte of frame 1 (0x10000). -/
def crowdedHome : List HomeLine := (List.range 32).map fun i =>
  ⟨0, 0, placeVa + BitVec.ofNat 56 (2 ^ 27 * (i + 1)), zeroLine, 1, ⟨1, false, false, 0, 0, false, true, true⟩, true⟩

/-- A resident path is to fetch a line of that set that its home does not hold, and memory lists byte 5 behind byte
0x10000: a read of byte 5 stops there and finds nothing. -/
def unsortedState : State :=
  { State.reset.placeCode [] with
    home := crowdedHome
    walks := [⟨0, 0, placeVa.extractLsb' 16 40, ⟨0, false, false, 0, 0, true, false, false⟩⟩]
    mem := [(0x10000, 1), (5, 2)] }

/-- The lines that may be displaced cover nothing below frame 1. -/
theorem crowdedHome_backs {h : HomeLine} (hh : h ∈ crowdedHome) {a : Nat} (hb : h.Backs a) : 0x10000 ≤ a := by
  obtain ⟨i, -, rfl⟩ := List.mem_map.1 hh
  obtain ⟨_, _, -, -, -, hplain, -⟩ := hb
  have hframe : (1 : BitVec 32).toNat = 1 := rfl
  have hkey := hplain rfl
  simp only [frameKey, hframe] at hkey
  omega

/-- A byte of memory in the state an instruction goes on to. -/
def byteAfter (a : Nat) : Result → Option Byte
  | .next t => some (Memory.read t.mem a)
  | .fault _ | .refused _ => none

/-- The path's fetch displaces one of the lines, whose 0 takes byte 0x10000 off the list: a read now gets to byte 5. -/
theorem unsortedState_cycle :
    Memory.read unsortedState.mem 5 = 0 ∧
      byteAfter 5 (exec (.coreDispatchCycle 0) unsortedState) = some 2 := by
  decide +kernel

/-- Refutes O49: its clause on memory assumes no canonical order of the memory (log 2), and fails without one. In
`unsortedState` the byte that a displaced line is written back over leaves the list, and byte 5, listed behind it and
covered by no line, reads as 2 where it read as 0. -/
theorem not_coreDispatch : ¬ Obligations.CoreDispatch := by
  intro h
  obtain ⟨t, ht, hmem⟩ := keepsMem_of_coreDispatch (s := unsortedState) (core := 0) h
    ((State.reset.placeCode []).blocks.head (by decide)) rfl
  obtain ⟨hbefore, hafter⟩ := unsortedState_cycle
  rw [ht] at hafter
  have h2 : Memory.read t.mem 5 = 2 := Option.some.inj hafter
  obtain hsame | ⟨x, hx, hbacks, -⟩ := hmem 5
  · rw [h2, hbefore] at hsame
    exact absurd hsame (by decide)
  · exact absurd (crowdedHome_backs hx hbacks) (by decide)

end Sys2Proof.Machine
end

section
/-!
What the scalar instructions write: the model's integer results are those the rules name, and each instruction
follows its rule.
-/
namespace Sys2Proof.Machine
variable {n : Nat}

/-! ### Integer results -/

/-- The model clamps with `clampInt` and compares; the rule names the end of the range that is passed (R20, R24). -/
theorem saturated_eq (x : Int) : saturated n (sMin n) (sMax n) x =
    if x < sMin n then (BitVec.ofInt n (sMin n), flSat)
    else if sMax n < x then (BitVec.ofInt n (sMax n), flSat)
    else (BitVec.ofInt n x, 0) := by
  unfold saturated clampInt
  split
  · have hne : (sMin n != x) = true := bne_iff_ne.2 (by omega)
    simp [flagIf, hne]
  · split
    · have hne : (sMax n != x) = true := bne_iff_ne.2 (by omega)
      simp [flagIf, hne]
    · simp [flagIf]

theorem narrow_sat {md : Option ModWord} (h : wantsSat md = true) (x : Int) :
    narrow n md x = saturated n (sMin n) (sMax n) x := by
  obtain ⟨m, rfl, hm⟩ : ∃ m, md = some m ∧ m.rm = .sat := by
    cases md with
    | none => simp [wantsSat] at h
    | some m => exact ⟨m, rfl, by simpa [wantsSat] using h⟩
  rw [saturated_eq, narrow, Option.map_some, hm]
  rfl

theorem narrow_wraps {md : Option ModWord} (h : wantsSat md = false) (x : Int) :
    narrow n md x = (BitVec.ofInt n x, 0) := by
  unfold narrow
  split
  · rename_i hrm
    obtain ⟨m, rfl, hm⟩ := Option.map_eq_some_iff.1 hrm
    simp [wantsSat, hm] at h
  · rfl

theorem signedResult_eq_narrow (md : Option ModWord) (x : Int) : signedResult n md x = narrow n md x := by
  unfold signedResult
  split
  · rw [narrow_sat ‹_›]
  · rw [narrow_wraps (Bool.eq_false_iff.2 ‹_›)]

/-- The only quotient of words outside the signed range is 2^63, of the least word by -1 (R120). -/
theorem tdiv_toInt_bounds (a b : DWord) : sMin 64 ≤ a.toInt.tdiv b.toInt ∧ a.toInt.tdiv b.toInt ≤ 2 ^ 63 := by
  have hq := Int.natAbs_tdiv_le_natAbs a.toInt b.toInt
  have hlo := a.le_toInt
  have hhi := a.toInt_lt
  simp only [sMin]
  omega

theorem sdivResult_eq_quotient (md : Option ModWord) (a b : DWord) : sdivResult md a b = quotient md a b := by
  unfold sdivResult quotient
  split
  · rfl
  · obtain ⟨hlo, hhi⟩ := tdiv_toInt_bounds a b
    generalize a.toInt.tdiv b.toInt = q at hlo hhi ⊢
    have hmax : sMax 64 = 2 ^ 63 - 1 := rfl
    rw [← signedResult_eq_narrow, signedResult, saturated_eq, if_neg (Int.not_lt.2 hlo)]
    dsimp only
    split
    · rw [if_pos (show sMax 64 < q by omega)]
    · rw [if_neg (show ¬ sMax 64 < q by omega), ite_self]

theorem udivResult_eq (a b : DWord) : udivResult a b = if b = 0 then (0, flDz) else (a / b, 0) := by
  rw [udivResult, ← BitVec.udiv_def]

theorem uremResult_eq (a b : DWord) : uremResult a b = if b = 0 then (0, flDz) else (a % b, 0) := by
  rw [uremResult, ← BitVec.umod_def]

theorem shiftL_eq_mul (x c : BitVec n) : shiftL x c = BitVec.ofNat n (x.toNat * 2 ^ c.toNat) := by
  apply BitVec.eq_of_toNat_eq
  unfold shiftL
  split
  · have hdvd : 2 ^ n ∣ x.toNat * 2 ^ c.toNat := Nat.dvd_mul_left_of_dvd (Nat.pow_dvd_pow 2 ‹_›) _
    simp [Nat.mod_eq_zero_of_dvd hdvd]
  · simp [Nat.shiftLeft_eq]

theorem shiftR_eq_div (x c : BitVec n) : shiftR x c = BitVec.ofNat n (x.toNat / 2 ^ c.toNat) := by
  apply BitVec.eq_of_toNat_eq
  rw [BitVec.toNat_ofNat, Nat.mod_eq_of_lt (Nat.lt_of_le_of_lt (Nat.div_le_self _ _) x.isLt)]
  unfold shiftR
  split
  · have hlt : x.toNat < 2 ^ c.toNat := Nat.lt_of_lt_of_le x.isLt (Nat.pow_le_pow_right (by decide) ‹_›)
    simp [Nat.div_eq_of_lt hlt]
  · simp [Nat.shiftRight_eq_div_pow]

/-- A shift by the width or more leaves copies of the sign. -/
theorem sshiftRight_ge (x : BitVec n) {k : Nat} (h : n ≤ k) :
    x.sshiftRight k = if x.msb then BitVec.allOnes n else 0 := by
  apply BitVec.eq_of_getLsbD_eq
  intro i hi
  rw [BitVec.getLsbD_sshiftRight, if_neg (by omega)]
  cases x.msb <;> simp [hi]

theorem shiftA_eq_div (x c : BitVec n) : shiftA x c = BitVec.ofInt n (x.toInt / 2 ^ c.toNat) := by
  calc shiftA x c = x.sshiftRight c.toNat := by
        unfold shiftA
        split
        · rw [sshiftRight_ge x ‹_›]
        · rfl
    _ = BitVec.ofInt n (x.toInt / 2 ^ c.toNat) := by
        rw [BitVec.sshiftRight_eq, Int.shiftRight_eq_div_pow]
        norm_cast

theorem ofInt_min_toInt (a b : BitVec n) : BitVec.ofInt n (min a.toInt b.toInt) = if a.slt b then a else b := by
  simp only [BitVec.slt_iff_toInt_lt]
  split
  · rw [Int.min_eq_left (Int.le_of_lt ‹_›), BitVec.ofInt_toInt]
  · rw [Int.min_eq_right (Int.not_lt.1 ‹_›), BitVec.ofInt_toInt]

theorem ofInt_max_toInt (a b : BitVec n) : BitVec.ofInt n (max a.toInt b.toInt) = if a.slt b then b else a := by
  simp only [BitVec.slt_iff_toInt_lt]
  split
  · rw [Int.max_eq_right (Int.le_of_lt ‹_›), BitVec.ofInt_toInt]
  · rw [Int.max_eq_left (Int.not_lt.1 ‹_›), BitVec.ofInt_toInt]

theorem ofNat_min_toNat (a b : BitVec n) : BitVec.ofNat n (min a.toNat b.toNat) = if a.ult b then a else b := by
  simp only [BitVec.ult_iff_lt, BitVec.lt_def]
  split
  · rw [Nat.min_eq_left (Nat.le_of_lt ‹_›), BitVec.ofNat_toNat, BitVec.setWidth_eq]
  · rw [Nat.min_eq_right (Nat.not_lt.1 ‹_›), BitVec.ofNat_toNat, BitVec.setWidth_eq]

theorem ofNat_max_toNat (a b : BitVec n) : BitVec.ofNat n (max a.toNat b.toNat) = if a.ult b then b else a := by
  simp only [BitVec.ult_iff_lt, BitVec.lt_def]
  split
  · rw [Nat.max_eq_right (Nat.le_of_lt ‹_›), BitVec.ofNat_toNat, BitVec.setWidth_eq]
  · rw [Nat.max_eq_left (Nat.not_lt.1 ‹_›), BitVec.ofNat_toNat, BitVec.setWidth_eq]

theorem condHolds_eq_condMet (cc : Cond) (a b : Int) : condHolds cc a b = condMet cc a b := by
  cases cc <;> simp [condHolds, condMet, bne, Bool.beq_eq_decide_eq]

theorem compareCc_eq_testWords (cc : Cond) (u : Bool) (a b : BitVec n) : compareCc cc u a b = testWords cc u a b := by
  simp only [compareCc, testWords, condHolds_eq_condMet]

theorem unsignedCc_iff (cc : Cond) (u : Bool) : unsignedCc cc u = true ↔ u = true ∧ cc ≠ .eq ∧ cc ≠ .ne := by
  cases cc <;> simp [unsignedCc]

/-- The absolute-value bits count for a comparison that is no unsigned order (R41, R122; log 44). -/
theorem compareMod_eq_testWords (cc : Cond) (u : Bool) (md : Option ModWord) (a b : BitVec n) :
    compareMod cc u md a b = testWords cc u (modA (cmpWord cc u md) a) (modB (cmpWord cc u md) b) := by
  rw [← compareCc_eq_testWords, cmpWord]
  simp only [← unsignedCc_iff]
  cases md with
  | none => simp [compareMod, modA, modB]
  | some m => cases hu : unsignedCc cc u <;> simp [compareMod, modA, modB, hu]

/-! ### The rule of each scalar instruction -/

@[simp] theorem markOf_none (on : Bool) (r : BitVec 6) : markOf on .none r = [] := by
  cases on <;> rfl

/-- A group-level instruction follows what its own meaning `x`, to which `exec` dispatches, writes. -/
theorem follows_meaning {i : Instr} {n : BitVec 3} {w : Group → Bool → Word → Word → Writes} (x : State → Result)
    (hx : ∀ s, x s = groupLevel s n [] fun c g p e => commit s c g p e (w g c.p.slot p.mask e))
    (hi : ∀ s, exec i s = x s := by exact fun _ => rfl) : Follows i ⟨n, [], true, w⟩ :=
  follows_groupLevel fun s => (hi s).trans (hx s)

/-- One with sources a and b follows the rule of its value and flags. -/
theorem follows_scalarTwo {i : Instr} {o : ROps} {f f' : DWord → DWord → DWord × Word} (x : State → Result)
    (hx : ∀ s, x s = scalar2 o f s) (hf : ∀ a b, f a b = f' a b) (hi : ∀ s, exec i s = x s := by exact fun _ => rfl) :
    Follows i (scalarTwo o f') :=
  follows_meaning x (fun s => by
    obtain rfl : f = f' := funext fun a => funext (hf a)
    simp only [hx, scalar2, sWrite, marksR, markOf_none, List.append_nil]) hi

/-- One with source a alone writes its value. -/
theorem follows_scalarOne {i : Instr} {o : ROps} (f : DWord → BSrc → DWord) (x : State → Result)
    (hx : ∀ s, x s = scalar1 o f s) (hi : ∀ s, exec i s = x s := by exact fun _ => rfl) :
    Follows i ⟨o.g, [], true, fun g _ _ _ => ⟨[], some (o.d, f (g.sreg o.a) o.b), none, 0, markOf o.la .s o.a⟩⟩ :=
  follows_meaning x (fun s => by
    simp only [hx, scalar1, sWrite, marksR, markOf_none, List.append_nil]) hi

theorem follows_scalarRule {i : Instr} {r : Rule} (h : scalarRule i = some r) : Follows i r := by
  unfold scalarRule at h
  split at h <;> cases h
  case h_1 o => exact follows_scalarTwo (execSadd o) (fun _ => rfl) fun _ _ => signedResult_eq_narrow _ _
  case h_2 o => exact follows_scalarTwo (execSsub o) (fun _ => rfl) fun _ _ => signedResult_eq_narrow _ _
  case h_3 o => exact follows_scalarTwo (execSmul o) (fun _ => rfl) fun _ _ => signedResult_eq_narrow _ _
  case h_4 o => exact follows_scalarTwo (execSmulh o) (fun _ => rfl) fun _ _ => rfl
  case h_5 o => exact follows_scalarTwo (execSmulhU o) (fun _ => rfl) fun _ _ => rfl
  case h_6 o => exact follows_scalarTwo (execSdiv o) (fun _ => rfl) fun _ _ => sdivResult_eq_quotient _ _ _
  case h_7 o => exact follows_scalarTwo (execSdivU o) (fun _ => rfl) fun _ _ => udivResult_eq _ _
  case h_8 o => exact follows_scalarTwo (execSrem o) (fun _ => rfl) fun _ _ => rfl
  case h_9 o => exact follows_scalarTwo (execSremU o) (fun _ => rfl) fun _ _ => uremResult_eq _ _
  case h_10 o => exact follows_scalarTwo (execSand o) (fun _ => rfl) fun _ _ => rfl
  case h_11 o => exact follows_scalarTwo (execSor o) (fun _ => rfl) fun _ _ => rfl
  case h_12 o => exact follows_scalarTwo (execSxor o) (fun _ => rfl) fun _ _ => rfl
  case h_13 o => exact follows_scalarTwo (execSshl o) (fun _ => rfl) fun _ _ => by rw [shiftL_eq_mul]
  case h_14 o => exact follows_scalarTwo (execSshr o) (fun _ => rfl) fun _ _ => by rw [shiftR_eq_div]
  case h_15 o => exact follows_scalarTwo (execSsra o) (fun _ => rfl) fun _ _ => by rw [shiftA_eq_div]
  case h_16 o => exact follows_scalarTwo (execSmin o) (fun _ => rfl) fun _ _ => by rw [ofInt_min_toInt]
  case h_17 o => exact follows_scalarTwo (execSmax o) (fun _ => rfl) fun _ _ => by rw [ofInt_max_toInt]
  case h_18 o => exact follows_scalarTwo (execSminU o) (fun _ => rfl) fun _ _ => by rw [ofNat_min_toNat]
  case h_19 o => exact follows_scalarTwo (execSmaxU o) (fun _ => rfl) fun _ _ => by rw [ofNat_max_toNat]

theorem follows_scalarMoveRule {i : Instr} {r : Rule} (h : scalarMoveRule i = some r) : Follows i r := by
  unfold scalarMoveRule at h
  split at h <;> cases h
  case h_1 cc u o =>
    refine follows_meaning (execScmp cc u o) fun s => ?_
    simp only [execScmp, compareMod_eq_testWords, pWrite, allLanes, marksR, markOf_none, List.append_nil]
  case h_2 cc o =>
    refine follows_meaning (execSsel cc o) fun s => ?_
    simp only [execSsel, condHolds_eq_condMet, sWrite, marksR]
  case h_3 o => exact follows_scalarOne (fun a _ => a) (execSmov o) fun _ => rfl
  case h_4 o => exact follows_meaning (execSlit o) fun _ => rfl
  case h_5 o =>
    refine follows_meaning (execShi o) fun s => ?_
    simp only [execShi, sWrite, marksR, markOf_none, List.append_nil]
    rfl
  case h_6 o => exact follows_scalarOne (fun a _ => BitVec.ofNat 64 (clz a)) (execSclz o) fun _ => rfl
  case h_7 o => exact follows_scalarOne (fun a _ => BitVec.ofNat 64 (popBits a)) (execSpopc o) fun _ => rfl
  case h_8 vt o =>
    refine follows_meaning (execXvote vt o) fun s => ?_
    cases vt <;> simp only [execXvote, sWrite, bne_iff_ne, beq_iff_eq, Bool.or_eq_true]
  case h_9 o => exact follows_meaning (execPcnt o) fun _ => rfl

/-- Settles O12, instruction by instruction of the two rules. -/
theorem scalarInstructions : Obligations.ScalarInstructions :=
  ⟨fun _ _ => follows_scalarRule, fun _ _ => follows_scalarMoveRule⟩

end Sys2Proof.Machine
end

section
/-!
What a host's write to a queue comes to in recovery: the package wakes, and nothing else changes.
-/
namespace Sys2Proof.Machine

/-- In recovery a write outside the die control spaces still wakes the package (R362, R370). -/
theorem inService_recovery {s : State} (h : s.recovery = true) (k : Result) : inService s k = .next s.wake := if_pos h

theorem exec_qcfgWrite_recovery {s : State} (h : s.recovery = true) (q : BitVec 10) (v : DWord) :
    exec (.qcfgWrite q v) s = .next s.wake := by
  change execQcfgWrite q v s = _
  exact inService_recovery h _

/-- The package in recovery, its clocks gated while it is idle (R362). -/
def gatedRecovery : State := { State.reset with recovery := true, power := .gated }

/-- Refutes O54: by its first clause a write in recovery changes nothing, but the model wakes the package there as
elsewhere. In `gatedRecovery` a QCFG write leaves the package active. -/
theorem not_queueRegisters : ¬ Obligations.QueueRegisters := by
  rintro ⟨hwrites, -⟩
  obtain ⟨hignored, -⟩ := hwrites gatedRecovery gatedRecovery 0 0 0 0 ⟨0, 0, 0, 0, []⟩ []
  obtain ⟨hqcfg, -⟩ := hignored rfl
  rw [exec_qcfgWrite_recovery rfl] at hqcfg
  have hpower : gatedRecovery.wake.power = gatedRecovery.power := congrArg State.power (Host.Outcome.next.inj hqcfg)
  exact absurd hpower (by decide)

end Sys2Proof.Machine
end

section
/-!
What the instructions that work lane by lane write: the model's lane results are those the rules name, and each
instruction follows its rule.
-/
namespace Sys2Proof.Machine
variable {i : Instr} {o : ROps} {vv : Bool}

/-! ### The rules of the shared shapes -/

/-- Of an instruction with source a alone only that source can be marked (R47). -/
theorem marksR_one (o : ROps) (ka : Kind) : marksR o ka .none .none = markOf o.la ka o.a := by
  simp only [marksR, markOf_none, List.append_nil]

theorem marksR_two (o : ROps) (ka kb : Kind) :
    marksR o ka kb .none = markOf o.la ka o.a ++ markOf o.lb kb (bField o.b) := by
  simp only [marksR, markOf_none, List.append_nil]

/-- An instruction with a guard follows what its own meaning `x`, to which `exec` dispatches, writes. -/
theorem follows_guardedMeaning {n : BitVec 3} {vs : List Nat} {w : Group → Bool → Word → Word → Writes}
    (x : State → Result)
    (hx : ∀ s, x s = guarded s n vs fun c g p e => commit s c g p e (w g c.p.slot p.mask e))
    (hi : ∀ s, exec i s = x s := by exact fun _ => rfl) : Follows i ⟨n, vs, false, w⟩ :=
  follows_guarded fun s => (hi s).trans (hx s)

theorem follows_floatTwo {f : Word → Word → Word × Word} (f' : Word → Word → Word × Word)
    (hf : ∀ a b, f' a b = f a b) (hi : ∀ s, exec i s = vectorF2 vv o f' s := by exact fun _ => rfl) :
    Follows i (floatTwo vv o f) :=
  follows_guardedMeaning (vectorF2 vv o f') (fun s => by
    obtain rfl : f' = f := funext fun a => funext (hf a)
    simp only [vectorF2, vWrite, marksR_two]) hi

theorem follows_floatThree {f : Word → Word → Word → Word × Word} (f' : Word → Word → Word → Word × Word)
    (hf : ∀ a b c, f' a b c = f a b c) (hi : ∀ s, exec i s = vectorF3 vv o f' s := by exact fun _ => rfl) :
    Follows i (floatThree vv o f) :=
  follows_guardedMeaning (vectorF3 vv o f') (fun s => by
    obtain rfl : f' = f := funext fun a => funext fun b => funext (hf a b)
    simp only [vectorF3, vWrite, marksR]) hi

theorem follows_floatOne (f : Word → Word × Word)
    (hi : ∀ s, exec i s = vectorF1 o f s := by exact fun _ => rfl) : Follows i (floatOne o f) :=
  follows_guardedMeaning (vectorF1 o f) (fun s => by
    simp only [vectorF1, vWrite, marksR_one]) hi

theorem follows_vectorTwo {f : Word → Word → Word × Word} (f' : Word → Word → Word × Word)
    (hf : ∀ a b, f' a b = f a b) (hi : ∀ s, exec i s = vector2 vv o f' s := by exact fun _ => rfl) :
    Follows i (vectorTwo vv o f) :=
  follows_guardedMeaning (vector2 vv o f') (fun s => by
    obtain rfl : f' = f := funext fun a => funext (hf a)
    simp only [vector2, vWrite, marksR_two]) hi

theorem follows_vectorOne (f : Word → Word)
    (hi : ∀ s, exec i s = vector1 o f s := by exact fun _ => rfl) : Follows i (vectorOne o f) :=
  follows_guardedMeaning (vector1 o f) (fun s => by
    simp only [vector1, vWrite, marksR_one]) hi

/-! ### Vector integer instructions -/

theorem vabsdULane_eq (a b : Word) :
    vabsdULane a b = (BitVec.ofNat 32 (max a.toNat b.toNat - min a.toNat b.toNat), 0) := by
  have hdist : ((a.toNat : Int) - (b.toNat : Int)).natAbs = max a.toNat b.toNat - min a.toNat b.toNat := by omega
  rw [vabsdULane, hdist]

theorem follows_madRule (hi : ∀ s, exec i s = vectorMad vv o s := by exact fun _ => rfl) :
    Follows i (madRule vv o) :=
  follows_guardedMeaning (vectorMad vv o) (fun s => by
    simp only [vectorMad, signedResult_eq_narrow, vWrite, marksR]) hi

theorem follows_vcmpRule {cc : Cond} {u : Bool}
    (hi : ∀ s, exec i s = vectorCmp vv cc u o s := by exact fun _ => rfl) : Follows i (vcmpRule vv cc u o) :=
  follows_guardedMeaning (vectorCmp vv cc u o) (fun s => by
    simp only [vectorCmp, compareMod_eq_testWords, pWrite, marksR_two]) hi

theorem follows_vselRule (hi : ∀ s, exec i s = vectorSel vv o s := by exact fun _ => rfl) :
    Follows i (vselRule vv o) :=
  follows_guardedMeaning (vectorSel vv o) (fun s => by
    simp only [vectorSel, vWrite, marksR_two]) hi

theorem follows_vectorRule {r : Rule} (h : vectorRule i = some r) : Follows i r := by
  unfold vectorRule at h
  split at h <;> cases h
  case h_1 o | h_2 o => exact follows_vectorTwo (vaddLane o.md) fun _ _ => signedResult_eq_narrow _ _
  case h_3 o | h_4 o => exact follows_vectorTwo (vsubLane o.md) fun _ _ => signedResult_eq_narrow _ _
  case h_5 o | h_6 o => exact follows_vectorTwo (vmulLane o.md) fun _ _ => signedResult_eq_narrow _ _
  case h_7 o | h_8 o => exact follows_vectorTwo vmulhLane fun _ _ => rfl
  case h_9 o | h_10 o => exact follows_vectorTwo vmulhULane fun _ _ => rfl
  case h_11 o | h_12 o => exact follows_vectorTwo vandLane fun _ _ => rfl
  case h_13 o | h_14 o => exact follows_vectorTwo vorLane fun _ _ => rfl
  case h_15 o | h_16 o => exact follows_vectorTwo vxorLane fun _ _ => rfl
  case h_17 o | h_18 o => exact follows_vectorTwo vshlLane fun _ _ => by rw [vshlLane, shiftL_eq_mul]
  case h_19 o | h_20 o => exact follows_vectorTwo vshrLane fun _ _ => by rw [vshrLane, shiftR_eq_div]
  case h_21 o | h_22 o => exact follows_vectorTwo vsraLane fun _ _ => by rw [vsraLane, shiftA_eq_div]
  case h_23 o | h_24 o => exact follows_vectorTwo vminLane fun _ _ => by rw [vminLane, ofInt_min_toInt]
  case h_25 o | h_26 o => exact follows_vectorTwo vminULane fun _ _ => by rw [vminULane, ofNat_min_toNat]
  case h_27 o | h_28 o => exact follows_vectorTwo vmaxLane fun _ _ => by rw [vmaxLane, ofInt_max_toInt]
  case h_29 o | h_30 o => exact follows_vectorTwo vmaxULane fun _ _ => by rw [vmaxULane, ofNat_max_toNat]
  case h_31 o | h_32 o => exact follows_vectorTwo vabsdLane fun _ _ => rfl
  case h_33 o | h_34 o => exact follows_vectorTwo vabsdULane vabsdULane_eq

theorem follows_vectorMoreRule {r : Rule} (h : vectorMoreRule i = some r) : Follows i r := by
  unfold vectorMoreRule at h
  split at h <;> cases h
  case h_1 o | h_2 o => exact follows_madRule
  case h_3 cc u o | h_4 cc u o => exact follows_vcmpRule
  case h_5 o | h_6 o => exact follows_vselRule
  case h_7 o => exact follows_vectorOne fun a => ~~~a
  case h_8 o => exact follows_vectorOne fun a => BitVec.ofNat 32 (clz a)
  case h_9 o => exact follows_vectorOne fun a => BitVec.ofNat 32 (popBits a)
  case h_10 o => exact follows_vectorOne fun a => a
  case h_11 o =>
    refine follows_guardedMeaning (execVbcast o) fun s => ?_
    simp only [execVbcast, vWrite, marksR_two, markOf_none, List.nil_append]
  case h_12 o => exact follows_guardedMeaning (execVlid o) fun _ => rfl
  case h_13 o =>
    refine follows_guardedMeaning (execPfrom o) fun s => ?_
    simp only [execPfrom, pWrite, marksR_one]
  case h_14 o => exact follows_guardedMeaning (execPto o) fun _ => rfl
  case h_15 o => exact follows_guardedMeaning (execPand o) fun _ => rfl
  case h_16 o => exact follows_guardedMeaning (execPor o) fun _ => rfl
  case h_17 o => exact follows_guardedMeaning (execPxor o) fun _ => rfl
  case h_18 o => exact follows_guardedMeaning (execPnot o) fun _ => rfl

/-! ### Permutations, reductions, scans -/

theorem lanesOf_congr {f f' : Nat → Word} (h : ∀ l, l < 32 → f l = f' l) : lanesOf f = lanesOf f' :=
  List.map_congr_left fun l hl => h l (List.mem_range.1 hl)

/-- The lane a permutation takes from matters only for the 32 lanes there are. -/
theorem follows_permuteRule {src : Word → Nat → Nat} (src' : Word → Nat → Nat)
    (hsrc : ∀ b l, l < 32 → src' b l = src b l)
    (hi : ∀ s, exec i s = permute vv o src' s := by exact fun _ => rfl) : Follows i (permuteRule vv o src) :=
  follows_guardedMeaning (permute vv o src') (fun s => by
    have hlanes (g : Group) (slot : Bool) (m : Word) :
        (lanesOf fun l => visible g slot m o.a.toNat (src' (laneB vv g slot o.b l) l)) =
          lanesOf fun l => visible g slot m o.a.toNat (src (laneB vv g slot o.b l) l) :=
      lanesOf_congr fun l hl => by rw [hsrc _ l hl]
    simp only [permute, hlanes]
    simp only [visible, vWrite, marksR_two]) hi

theorem follows_permutationRule {r : Rule} (h : permutationRule i = some r) : Follows i r := by
  unfold permutationRule at h
  split at h <;> cases h
  case h_1 o | h_2 o => exact follows_permuteRule (fun b _ => b.toNat % 32) fun _ _ _ => rfl
  case h_3 o => exact follows_permuteRule (fun b l => Nat.xor l (b.toNat % 32)) fun _ _ _ => rfl
  case h_4 o =>
    refine follows_permuteRule (fun b l => if min b.toNat 32 ≤ l then l - min b.toNat 32 else l) fun b l hl => ?_
    split <;> split <;> omega
  case h_5 o =>
    refine follows_permuteRule (fun b l => if l + min b.toNat 32 ≤ 31 then l + min b.toNat 32 else l)
      fun b l hl => ?_
    split <;> split <;> omega

theorem follows_reductionRule {r : Rule} (h : reductionRule i = some r) : Follows i r := by
  unfold reductionRule at h
  split at h <;> cases h
  case h_1 op o =>
    refine follows_guardedMeaning (execXred op o) fun s => ?_
    simp only [execXred, vWrite, marksR_one]
  case h_2 op ex o =>
    refine follows_guardedMeaning (execXscan op ex o) fun s => ?_
    rw [← marksR_one o .v]
    rfl

/-- Settles O13, instruction by instruction of the four rules. -/
theorem vectorInstructions : Obligations.VectorInstructions :=
  ⟨fun _ _ => follows_vectorRule, fun _ _ => follows_vectorMoreRule, fun _ _ => follows_permutationRule,
    fun _ _ => follows_reductionRule⟩

end Sys2Proof.Machine
end

section
/-!
What the float, packed, PNI and conversion instructions write, register pairs included.
-/
namespace Sys2Proof.Machine
variable {i : Instr} {o : ROps} {vv : Bool}

/-! ### FP32, packed and PNI instructions -/

theorem follows_fcmpRule {cc : FCond} (hi : ∀ s, exec i s = vectorFcmp vv cc o s := by exact fun _ => rfl) :
    Follows i (fcmpRule vv cc o) :=
  follows_guardedMeaning (vectorFcmp vv cc o) (fun s => by
    simp only [vectorFcmp, fcmpLane, pWrite, marksR_two]) hi

theorem follows_floatRule {r : Rule} (h : floatRule i = some r) : Follows i r := by
  unfold floatRule at h
  split at h <;> cases h
  case h_1 o | h_2 o => exact follows_floatTwo (onWords (op2F fmt32 .add o.md)) fun _ _ => rfl
  case h_3 o | h_4 o => exact follows_floatTwo (onWords (op2F fmt32 .sub o.md)) fun _ _ => rfl
  case h_5 o | h_6 o => exact follows_floatTwo (onWords (op2F fmt32 .mul o.md)) fun _ _ => rfl
  case h_7 o | h_8 o => exact follows_floatTwo (onWords (op2F fmt32 .div o.md)) fun _ _ => rfl
  case h_9 o | h_10 o => exact follows_floatTwo (onWords (op2F fmt32 .min o.md)) fun _ _ => rfl
  case h_11 o | h_12 o => exact follows_floatTwo (onWords (op2F fmt32 .max o.md)) fun _ _ => rfl
  case h_13 o | h_14 o => exact follows_floatThree (ffmaLane o.md) fun _ _ _ => rfl
  case h_15 cc o | h_16 cc o => exact follows_fcmpRule
  case h_17 o => exact follows_floatOne (fun32 .rcp o.md)
  case h_18 o => exact follows_floatOne (fun32 .rsq o.md)
  case h_19 o => exact follows_floatOne (fun32 .sqrt o.md)
  case h_20 o => exact follows_floatOne (fun32 .exp2 o.md)
  case h_21 o => exact follows_floatOne (fun32 .log2 o.md)
  case h_22 o => exact follows_floatOne (frnd32 o.md)

theorem onPairs_eq_bothHalves (f : Nat → Nat → Nat × Word) (a b : Word) : onPairs f a b = bothHalves f a b := rfl

theorem follows_packedRule {r : Rule} (h : packedRule i = some r) : Follows i r := by
  unfold packedRule at h
  split at h <;> cases h
  case h_1 o | h_2 o => exact follows_floatTwo (onPairs (op2F fmtBf .add o.md)) (onPairs_eq_bothHalves _)
  case h_3 o | h_4 o => exact follows_floatTwo (onPairs (op2F fmtBf .mul o.md)) (onPairs_eq_bothHalves _)
  case h_5 o | h_6 o => exact follows_floatTwo (onPairs (op2F fmtBf .min o.md)) (onPairs_eq_bothHalves _)
  case h_7 o | h_8 o => exact follows_floatTwo (onPairs (op2F fmtBf .max o.md)) (onPairs_eq_bothHalves _)
  case h_9 o | h_10 o => exact follows_floatThree (hfmaLane o.md) fun _ _ _ => rfl

theorem follows_pniRule {r : Rule} (h : pniRule i = some r) : Follows i r := by
  unfold pniRule at h
  split at h <;> cases h
  case h_1 o =>
    refine follows_guardedMeaning (execVquant o) fun s => ?_
    simp only [execVquant, vWrite, marksR_one]
  case h_2 km1 ctr bf o =>
    refine follows_guardedMeaning (execVdeq km1 ctr bf o) fun s => ?_
    simp only [execVdeq, flagIf, vWrite, marksR_one]

/-! ### Conversions and register pairs -/

/-- One register, or a pair whose odd register holds the second word (R19). -/
theorem spread_pair (d : BitVec 6) (pd : Bool) (f : Nat → Nat → Word) :
    spread d (if pd then 2 else 1) f =
      (d.toNat, lanesOf (f 0)) :: if pd then [(d.toNat + 1, lanesOf (f 1))] else [] := by
  cases pd <;> rfl

theorem vcvtiPairs_eq (cv : IConv) :
    vcvtiPairs cv = (cv == .i64i32 || cv == .u64u32, cv == .i32i64 || cv == .u32u64) := by
  cases cv <;> rfl

theorem fcvtPairs_eq (cv : FConv) :
    fcvtPairs cv = (cv == .i64f32 || cv == .u64f32, cv == .f32i64 || cv == .f32u64) := by
  cases cv <;> rfl

theorem follows_conversionRule {r : Rule} (h : conversionRule i = some r) : Follows i r := by
  unfold conversionRule at h
  split at h <;> cases h
  case h_1 cv o =>
    refine follows_guardedMeaning (execVcvti cv o) fun s => ?_
    simp only [execVcvti, vcvtiPairs_eq, pairAt, spread_pair, BitVec.setWidth_ushiftRight_eq_extractLsb,
      marksR_one]
  case h_2 cv o =>
    refine follows_guardedMeaning (execFcvt cv o) fun s => ?_
    simp only [execFcvt, fcvtPairs_eq, pairAt, spread_pair, BitVec.setWidth_ushiftRight_eq_extractLsb,
      marksR_one]
  case h_3 cv o =>
    refine follows_guardedMeaning (execHcvt2 cv o) fun s => ?_
    simp only [execHcvt2, spread_pair, if_true, Nat.one_ne_zero, if_false, marksR_one]

/-- Settles O14, instruction by instruction of the four rules. -/
theorem floatInstructions : Obligations.FloatInstructions :=
  ⟨fun _ _ => follows_floatRule, fun _ _ => follows_packedRule, fun _ _ => follows_pniRule,
    fun _ _ => follows_conversionRule⟩

end Sys2Proof.Machine
end

section
/-!
What CLAIM, ACQ, ACQ.try, REL and RSTAT come to: their checks in order, the request they send, and what their
retirement leaves.
-/
namespace Sys2Proof.Machine
variable {s : State} {c : Cur} {g : Group} {p : Path} {b : Block} {gr : Grid} {ty : RType} {o : ROps}

/-! ### The parts the instructions share -/

/-- The group once a marked b source has been read (R47). -/
def Group.readB (g : Group) (o : ROps) : Group := if o.lb then g.setSreg (bField o.b) 0 else g

/-- The component of R196 that a type has on a block's core. -/
def componentOf (ty : RType) (core : BitVec 9) : Nat :=
  match ty with
  | .reg => core.toNat % 8
  | .tile => 8 + core.toNat % 8
  | .scr => 16
  | .eng => 17

theorem bMarks_eq_markOf (o : ROps) : bMarks o = markOf o.lb .s (bField o.b) := by
  simp only [bMarks, marksR, markOf_none, List.nil_append, List.append_nil]

theorem Group.applyMarks_bMarks (g : Group) (slot : Bool) (m : Word) (o : ROps) :
    g.applyMarks slot m (bMarks o) = g.readB o := by
  rw [bMarks_eq_markOf, markOf, Group.readB]
  cases o.lb <;> rfl

/-- An instruction that writes one s-register and no flag retires at once. -/
theorem commit_sWrite {e : Word} {d : BitVec 6} {v : DWord} {marks : List Mark} :
    commit s c g p e (sWrite d v 0 marks) =
      .next (s.retired c (((g.applyMarks c.p.slot p.mask marks).setSreg d v).setFlags 0) p) :=
  commit_of _ _ _ _ _ _ g.canWrite_zero

theorem answeredOr_none (h : s.Acts c g p) (hp : p.granted = none) (k : Result)
    (f : Cur → Group → Path → Grant → Result) : answeredOr s k f = k := by
  rw [answeredOr, withPath_of h, hp]

theorem answeredOr_some {x : Grant} (h : s.Acts c g p) (hp : p.granted = some x) (k : Result)
    (f : Cur → Group → Path → Grant → Result) : answeredOr s k f = f c g p x := by
  rw [answeredOr, withPath_of h, hp]

/-- A group-level instruction with a lane goes on with its group's block and grid. -/
theorem groupLevel_withBlock (h : s.ActsIn c g p b gr) {n : BitVec 3} (he : p.eff g n ≠ 0)
    (k : Cur → Group → Path → Word → Block → Grid → Result) :
    groupLevel s n [] (fun c g p e => withBlock s g (k c g p e)) = k c g p (p.eff g n) b gr := by
  obtain ⟨hacts, hb, hgr⟩ := h
  rw [groupLevel_of hacts n [] _ (by simp) he, withBlock_of hb hgr]

/-- The end of a wait runs the waiting instruction's completion. -/
theorem completeWait_of {r : PathRef} {w : Wait} (h : s.Waiting r g p b w)
    (k : Cur → Group → Path → WaitKind → Result) :
    completeWait s r k = k ⟨r, w.next, w.last⟩ g p w.kind := by
  obtain ⟨hg, hp, hb, hw, hphase, hlets, hbreak⟩ := h
  have hruns : s.breaksAt b p = false := by
    rw [State.breaksAt]
    rcases hbreak with hskip | hnone
    · rw [hskip]; rfl
    · rw [hnone, Bool.and_false]
  simp [completeWait, hg, hp, hw, hb, hphase, hlets, hruns]

/-! ### CLAIM, ACQ and ACQ.try -/

/-- A request enters the queue of the cluster's Reeve, and its instruction waits (R206, R208). -/
theorem request_sent {amt : Nat} {raise try' : Bool} {e : Word} {i : Instr}
    (hbusy : (s.cluster (clusterOf b.core)).busyFor g.id = false) (hans : g.hasAnswer = false)
    (hroom : (s.cluster (clusterOf b.core)).queue.length < 16) :
    request s c g p b ty amt raise try' e i =
      .next ((State.setCluster { s with nextId := s.nextId + 1 } { s.cluster (clusterOf b.core) with
        queue := (s.cluster (clusterOf b.core)).queue ++
          [⟨s.nextId, c.p, b.id, ty, amt, raise, try', e, 0, false⟩] }).waits c g p (.grant s.nextId i) 9) := by
  have hgo : ¬ 16 ≤ (s.cluster (clusterOf b.core)).queue.length := Nat.not_le.2 hroom
  simp only [request, hbusy, hans, hgo, decide_false, Bool.or_false, Bool.false_eq_true, if_false]
  rfl

/-- CLAIM's checks in the order of R213. -/
theorem exec_claim_unanswered (h : s.ActsIn c g p b gr) (he : p.eff g o.g ≠ 0) (hp : p.granted = none) :
    exec (.claim ty o) s =
      if amountOf g o < b.counted.get ty then fatal s c g p 0x30 (p.eff g o.g) 0
      else if b.claim.get ty < amountOf g o then
        if b.acqd.contains ty then fatal s c g p 0x31 (p.eff g o.g) 0
        else if (s.capVec (clusterOf b.core) (s.domainCap b)).getD (componentOf ty b.core) 0 < amountOf g o ||
            (ty == .reg && 8 * gr.desc.groups < amountOf g o) then fatal s c g p 0x30 (p.eff g o.g) 0
        else request s c g p b ty (amountOf g o) true false (p.eff g o.g) (.claim ty o)
      else if amountOf g o < b.claim.get ty then
        .next (((s.setBlock { b with claim := b.claim.set ty (amountOf g o) }).retestAll
          (clusterOf b.core)).retired c (g.readB o) p)
      else .next (s.retired c (g.readB o) p) := by
  have hacts := h.1
  change execClaim ty o s = _
  rw [execClaim, answeredOr_none hacts hp, groupLevel_withBlock h he]
  simp only [Group.applyMarks_bMarks]
  rfl

section
variable (h : s.ActsIn c g p b gr) (he : p.eff g o.g ≠ 0) (hp : p.granted = none)
include h he hp

theorem exec_claim_belowCounted (hlt : amountOf g o < b.counted.get ty) :
    exec (.claim ty o) s = fatal s c g p 0x30 (p.eff g o.g) 0 := by
  rw [exec_claim_unanswered h he hp, if_pos hlt]

theorem exec_claim_lowers (hle : b.counted.get ty ≤ amountOf g o) (hlt : amountOf g o < b.claim.get ty) :
    exec (.claim ty o) s = .next (((s.setBlock { b with claim := b.claim.set ty (amountOf g o) }).retestAll
      (clusterOf b.core)).retired c (g.readB o) p) := by
  rw [exec_claim_unanswered h he hp, if_neg (Nat.not_lt.2 hle), if_neg (Nat.lt_asymm hlt), if_pos hlt]

theorem exec_claim_stays (hle : b.counted.get ty ≤ amountOf g o) (heq : amountOf g o = b.claim.get ty) :
    exec (.claim ty o) s = .next (s.retired c (g.readB o) p) := by
  rw [exec_claim_unanswered h he hp, if_neg (Nat.not_lt.2 hle), if_neg (Nat.not_lt.2 (Nat.le_of_eq heq)),
    if_neg (Nat.not_lt.2 (Nat.le_of_eq heq.symm))]

theorem exec_claim_raiseAfterAcq (hle : b.counted.get ty ≤ amountOf g o) (hlt : b.claim.get ty < amountOf g o)
    (hacq : b.acqd.contains ty = true) : exec (.claim ty o) s = fatal s c g p 0x31 (p.eff g o.g) 0 := by
  rw [exec_claim_unanswered h he hp, if_neg (Nat.not_lt.2 hle), if_pos hlt, if_pos hacq]

theorem exec_claim_beyondCap (hle : b.counted.get ty ≤ amountOf g o) (hlt : b.claim.get ty < amountOf g o)
    (hacq : b.acqd.contains ty = false)
    (hcap : (s.capVec (clusterOf b.core) (s.domainCap b)).getD (componentOf ty b.core) 0 < amountOf g o ∨
      (ty = .reg ∧ 8 * gr.desc.groups < amountOf g o)) :
    exec (.claim ty o) s = fatal s c g p 0x30 (p.eff g o.g) 0 := by
  rw [exec_claim_unanswered h he hp, if_neg (Nat.not_lt.2 hle), if_pos hlt, if_neg (Bool.eq_false_iff.1 hacq),
    if_pos (by simpa using hcap)]

theorem exec_claim_raises (hle : b.counted.get ty ≤ amountOf g o) (hlt : b.claim.get ty < amountOf g o)
    (hacq : b.acqd.contains ty = false)
    (hcap : amountOf g o ≤ (s.capVec (clusterOf b.core) (s.domainCap b)).getD (componentOf ty b.core) 0)
    (hreg : ty = .reg → amountOf g o ≤ 8 * gr.desc.groups) : exec (.claim ty o) s =
      request s c g p b ty (amountOf g o) true false (p.eff g o.g) (.claim ty o) := by
  rw [exec_claim_unanswered h he hp, if_neg (Nat.not_lt.2 hle), if_pos hlt, if_neg (Bool.eq_false_iff.1 hacq),
    if_neg (by simpa using ⟨hcap, hreg⟩)]

end

theorem exec_claim_answered {x : Grant} (h : s.ActsIn c g p b gr) (hp : p.granted = some x) :
    exec (.claim ty o) s = .next (s.retired c (g.readB o) p) := by
  have hacts := h.1
  change execClaim ty o s = _
  rw [execClaim, answeredOr_some hacts hp, Group.applyMarks_bMarks]
  rfl

theorem acquired_acq {e : Word} {ok : Bool} :
    acquired s c g p e o false ok = .next (s.retired c (g.readB o) p) := by
  rw [acquired, if_neg Bool.false_ne_true, Group.applyMarks_bMarks, retire_eq]

theorem acquired_acqTry {e : Word} {ok : Bool} : acquired s c g p e o true ok =
    .next (s.retired c (((g.readB o).setSreg o.d (if ok then 1 else 0)).setFlags 0) p) := by
  rw [acquired, if_pos rfl, commit_sWrite, Group.applyMarks_bMarks]

/-- The checks of ACQ and ACQ.try in the order of R214. -/
theorem acquireUnits_unanswered {try' : Bool} {i : Instr} (h : s.ActsIn c g p b gr) (he : p.eff g o.g ≠ 0)
    (hp : p.granted = none) : acquireUnits ty o try' i s =
      if amountOf g o = 0 then acquired (s.setBlock (b.markAcq ty)) c g p (p.eff g o.g) o try' true
      else if ty == .reg && 64 < g.regn + 8 * amountOf g o then fatal s c g p 0x30 (p.eff g o.g) 0
      else request s c g p b ty (amountOf g o) false try' (p.eff g o.g) i := by
  rw [acquireUnits, answeredOr_none h.1 hp, groupLevel_withBlock h he]

theorem acquireUnits_zero {try' : Bool} {i : Instr} (h : s.ActsIn c g p b gr) (he : p.eff g o.g ≠ 0)
    (hp : p.granted = none) (hn : amountOf g o = 0) : acquireUnits ty o try' i s =
      acquired (s.setBlock (b.markAcq ty)) c g p (p.eff g o.g) o try' true := by
  rw [acquireUnits_unanswered h he hp, if_pos hn]

theorem acquireUnits_beyond {try' : Bool} {i : Instr} (h : s.ActsIn c g p b gr) (he : p.eff g o.g ≠ 0)
    (hp : p.granted = none) (hn : 0 < amountOf g o) (hreg : ty = .reg) (hbig : 64 < g.regn + 8 * amountOf g o) :
    acquireUnits ty o try' i s = fatal s c g p 0x30 (p.eff g o.g) 0 := by
  rw [acquireUnits_unanswered h he hp, if_neg (Nat.ne_of_gt hn), if_pos (by simp [hreg, hbig])]

theorem acquireUnits_asks {try' : Bool} {i : Instr} (h : s.ActsIn c g p b gr) (he : p.eff g o.g ≠ 0)
    (hp : p.granted = none) (hn : 0 < amountOf g o) (hfits : ty = .reg → g.regn + 8 * amountOf g o ≤ 64) :
    acquireUnits ty o try' i s = request s c g p b ty (amountOf g o) false try' (p.eff g o.g) i := by
  rw [acquireUnits_unanswered h he hp, if_neg (Nat.ne_of_gt hn), if_neg (by simpa using hfits)]

theorem acquireUnits_answered {try' : Bool} {i : Instr} {x : Grant} (h : s.ActsIn c g p b gr)
    (hp : p.granted = some x) : acquireUnits ty o try' i s =
      if x.ok then acquired (s.setBlock (b.takeUp ty x.amt)) c (g.grow ty x.amt) p x.lanes o try' true
      else acquired s c g p x.lanes o try' false := by
  obtain ⟨hacts, hb, hgr⟩ := h
  rw [acquireUnits, answeredOr_some hacts hp, withBlock_of hb hgr]

theorem Group.setSreg_withRegn (g : Group) (r : BitVec 6) (v : DWord) (n : Nat) :
    Group.setSreg { g with regn := n } r v = { g.setSreg r v with regn := n } := by
  unfold Group.setSreg
  split <;> rfl

/-- The new registers do not depend on the mark of the amount. -/
theorem Group.readB_grow (g : Group) (ty : RType) (n : Nat) (o : ROps) :
    (g.grow ty n).readB o = if ty = .reg then { g.readB o with regn := g.regn + 8 * n } else g.readB o := by
  cases ty
  case reg =>
    change Group.readB { g with regn := g.regn + 8 * n } o = { g.readB o with regn := g.regn + 8 * n }
    unfold Group.readB
    split
    · exact g.setSreg_withRegn _ _ _
    · rfl
  all_goals rfl

theorem Memory.read_below {m : Memory} {n a : Nat} (h : n ≤ a) : Memory.read (m.below n) a = 0 := by
  induction m with
  | nil => rfl
  | cons x t ih =>
    obtain ⟨k, v⟩ := x
    rw [Memory.below, List.filter_cons]
    split
    · next hkeep =>
      have hk : k < n := by simpa using hkeep
      rw [Memory.read, if_neg (by omega), if_neg (by omega)]
      exact ih
    · exact ih

theorem Block.takeUp_alloc (b : Block) (ty : RType) (n : Nat) :
    (b.takeUp ty n).alloc = b.alloc.set ty (b.alloc.get ty + n) := by
  cases ty <;> rfl

/-- New TILE and SCR units read zero (R198). -/
theorem Block.takeUp_reads_zero (b : Block) (ty : RType) (n : Nat) {a : Nat} (h : 16384 * b.alloc.get ty ≤ a) :
    (ty = .tile → Memory.read (b.takeUp ty n).tile a = 0) ∧ (ty = .scr → Memory.read (b.takeUp ty n).scr a = 0) := by
  constructor <;> rintro rfl <;> exact Memory.read_below h

/-! ### REL and RSTAT -/

/-- REL's checks in order (R206, R215). -/
theorem exec_rel (h : s.ActsIn c g p b gr) (he : p.eff g o.g ≠ 0) : exec (.rel ty o) s =
    if amountOf g o = 0 then .next (s.retired c (g.readB o) p)
    else if (s.cluster (clusterOf b.core)).busyFor g.id || g.hasAnswer then .next (s.waits c g p .retry 9)
    else if (if ty == .reg then g.regn / 8 else b.alloc.get ty) < amountOf g o ||
        (ty == .reg && g.regn < 8 * amountOf g o + 8) then fatal s c g p 0x32 (p.eff g o.g) 0
    else if ty == .reg then
      .next (((s.setBlock { b with alloc := b.alloc.set .reg (b.alloc.reg - amountOf g o) }).retestAll
        (clusterOf b.core)).retired c
          ((g.shrink (g.regn - 8 * amountOf g o)).applyMarks c.p.slot p.mask (markOf o.lb .s (bField o.b))) p)
    else .next (s.waits c g p (.rel ty (amountOf g o) o) 10) := by
  change execRel ty o s = _
  rw [execRel, groupLevel_withBlock h he, ← bMarks_eq_markOf, ← Group.applyMarks_bMarks]
  rfl

section
variable (h : s.ActsIn c g p b gr) (he : p.eff g o.g ≠ 0)
include h he

theorem exec_rel_zero (hz : amountOf g o = 0) : exec (.rel ty o) s = .next (s.retired c (g.readB o) p) := by
  rw [exec_rel h he, if_pos hz]

theorem exec_rel_busy (hpos : 0 < amountOf g o)
    (hbusy : (s.cluster (clusterOf b.core)).busyFor g.id = true ∨ g.hasAnswer = true) :
    exec (.rel ty o) s = .next (s.waits c g p .retry 9) := by
  rw [exec_rel h he, if_neg (Nat.ne_of_gt hpos), if_pos (by simpa using hbusy)]

variable (hpos : 0 < amountOf g o) (hbusy : (s.cluster (clusterOf b.core)).busyFor g.id = false)
  (hans : g.hasAnswer = false)
include hpos hbusy hans

theorem exec_rel_reg (hle : 8 * amountOf g o + 8 ≤ g.regn) : exec (.rel .reg o) s =
    .next (((s.setBlock { b with alloc := b.alloc.set .reg (b.alloc.reg - amountOf g o) }).retestAll
      (clusterOf b.core)).retired c
        ((g.shrink (g.regn - 8 * amountOf g o)).applyMarks c.p.slot p.mask (markOf o.lb .s (bField o.b))) p) := by
  have hheld : ¬ g.regn / 8 < amountOf g o := by omega
  rw [exec_rel h he, if_neg (Nat.ne_of_gt hpos), if_neg (by simp [hbusy, hans]), if_neg (by simp [hheld, hle]),
    if_pos (by rfl)]

theorem exec_rel_regBeyond (hlt : g.regn < 8 * amountOf g o + 8) :
    exec (.rel .reg o) s = fatal s c g p 0x32 (p.eff g o.g) 0 := by
  rw [exec_rel h he, if_neg (Nat.ne_of_gt hpos), if_neg (by simp [hbusy, hans]), if_pos (by simp [hlt])]

theorem exec_rel_waits (hty : ty ≠ .reg) (hle : amountOf g o ≤ b.alloc.get ty) :
    exec (.rel ty o) s = .next (s.waits c g p (.rel ty (amountOf g o) o) 10) := by
  rw [exec_rel h he, if_neg (Nat.ne_of_gt hpos), if_neg (by simp [hbusy, hans]), if_neg (by simp [hty, hle]),
    if_neg (by simp [hty])]

theorem exec_rel_beyondHeld (hty : ty ≠ .reg) (hlt : b.alloc.get ty < amountOf g o) :
    exec (.rel ty o) s = fatal s c g p 0x32 (p.eff g o.g) 0 := by
  rw [exec_rel h he, if_neg (Nat.ne_of_gt hpos), if_neg (by simp [hbusy, hans]), if_pos (by simp [hty, hlt])]

end

/-- What RSTAT reads (R216). -/
def State.statusOf (s : State) (g : Group) (b : Block) (ty : RType) : RItem → Nat
  | .held => b.alloc.get ty
  | .claim => b.claim.get ty
  | .avail =>
    min ((s.availOf (clusterOf b.core) ((s.residents (clusterOf b.core)).map Block.holding)).getD
        (componentOf ty b.core) 0)
      ((s.davailOf (clusterOf b.core) ((s.residents (clusterOf b.core)).map Block.holding) b).getD
        (componentOf ty b.core) 0)
  | .grp => g.regn / 8

theorem exec_rstat {it : RItem} (h : s.ActsIn c g p b gr) (he : p.eff g o.g ≠ 0) : exec (.rstat ty it o) s =
    .next (s.retired c ((g.setSreg o.d (BitVec.ofNat 64 (s.statusOf g b ty it))).setFlags 0) p) := by
  change execRstat ty it o s = _
  rw [execRstat, groupLevel_withBlock h he, commit_sWrite]
  cases it <;> rfl

/-- A waiting REL's completion: the units still held, no access to the removed ones pending (R210). -/
theorem exec_relTakesEffect {r : PathRef} {q : Path} {w : Wait} {n : Nat} (h : s.Waiting r g q b w)
    (hgr : s.grid? b.grid = some gr) (hk : w.kind = .rel ty n o) : exec (.relTakesEffect r) s =
      if b.alloc.get ty < n then fatal s ⟨r, w.next, w.last⟩ g q 0x32 (q.eff g o.g) 0
      else if s.unitsBusy b ty (b.alloc.get ty - n) then .next s
      else .next (((s.setBlock (b.releaseTo ty (b.alloc.get ty - n))).retestAll (clusterOf b.core)).retired
        ⟨r, w.next, w.last⟩ (g.applyMarks r.slot q.mask (markOf o.lb .s (bField o.b))) q) := by
  have hb : s.block? g.blk = some b := h.2.2.1
  change execRelTakesEffect r s = _
  rw [execRelTakesEffect, completeWait_of h, hk]
  dsimp only
  rw [withBlock_of hb hgr, bMarks_eq_markOf]
  rfl

/-! ### The statement -/

/-- Settles O42: each clause is one branch of its instruction's checks, or its retirement by the answer. -/
theorem claims : Obligations.Claims := by
  constructor
  · intro s c g gm p b gr ty o e n i k h he hne hn hgm hk hi
    obtain rfl : gm = g.readB o := hgm
    obtain rfl : n = amountOf g o := hn
    obtain rfl : i = componentOf ty b.core := hi
    subst he hk
    refine ⟨fun hp => ⟨exec_claim_belowCounted h hne hp, exec_claim_lowers h hne hp, exec_claim_stays h hne hp,
        exec_claim_raiseAfterAcq h hne hp, exec_claim_beyondCap h hne hp, fun hz => ⟨?_, ?_⟩,
        fun hpos hreg hbig => ⟨acquireUnits_beyond h hne hp hpos hreg hbig,
          acquireUnits_beyond h hne hp hpos hreg hbig⟩,
        fun _ hbusy hans hroom r hr => ?_⟩,
      fun x hx => ⟨exec_claim_answered h hx, fun hok => ?_, fun hok => ?_⟩,
      fun m => ⟨b.takeUp_alloc ty m, fun a => b.takeUp_reads_zero ty m⟩⟩
    · exact (acquireUnits_zero h hne hp hz).trans acquired_acq
    · exact (acquireUnits_zero h hne hp hz).trans acquired_acqTry
    · subst hr
      refine ⟨fun hpos hfits => ⟨?_, ?_⟩, fun hle hlt hacq hcap hreg => ?_⟩
      · exact (acquireUnits_asks h hne hp hpos hfits).trans (request_sent hbusy hans hroom)
      · exact (acquireUnits_asks h hne hp hpos hfits).trans (request_sent hbusy hans hroom)
      · exact (exec_claim_raises h hne hp hle hlt hacq hcap hreg).trans (request_sent hbusy hans hroom)
    · rw [← Group.readB_grow]
      exact ⟨(acquireUnits_answered h hx).trans ((if_pos hok).trans acquired_acq),
        (acquireUnits_answered h hx).trans ((if_pos hok).trans acquired_acqTry)⟩
    · exact (acquireUnits_answered h hx).trans ((if_neg (Bool.eq_false_iff.1 hok)).trans acquired_acqTry)
  · intro s c g gm p b gr ty o e n i cl h he hne hn hgm hcl hi
    obtain rfl : gm = g.readB o := hgm
    obtain rfl : n = amountOf g o := hn
    obtain rfl : i = componentOf ty b.core := hi
    subst he hcl
    refine ⟨exec_rel_zero h hne, exec_rel_busy h hne, fun hpos hbusy hans => ⟨?_, ?_,
        exec_rel_waits h hne hpos hbusy hans, exec_rel_beyondHeld h hne hpos hbusy hans⟩,
      exec_rstat h hne, exec_rstat h hne, exec_rstat h hne, fun v hs hhs hv => ?_, fun r q w left hw hk hleft => ?_⟩
    · rintro rfl hle
      exact exec_rel_reg h hne hpos hbusy hans hle
    · rintro rfl hlt
      exact exec_rel_regBeyond h hne hpos hbusy hans hlt
    · subst hhs hv
      exact exec_rstat h hne
    · subst hleft
      obtain ⟨-, -, hgr⟩ := h
      rw [exec_relTakesEffect hw hgr hk]
      refine ⟨fun hlt => if_pos hlt, fun hle hbusy => ?_, fun hle hbusy => ?_⟩
      · rw [if_neg (Nat.not_lt.2 hle), if_pos hbusy]
      · rw [if_neg (Nat.not_lt.2 hle), if_neg (Bool.eq_false_iff.1 hbusy)]

end Sys2Proof.Machine
end

section
/-!
What a test at the Reeve comes to: which request it takes, what each decision leaves, the freeze rule, and what the
safe-state test of R204 answers.
-/
namespace Sys2Proof.Machine
variable {s : State} {cl : BitVec 6} {k : Cluster} {r : ReeveReq} {b b' : Block} {g : Group}

/-! ### A request that is taken -/

theorem State.cluster_setCluster_of (s : State) (h : k.id = cl) : (s.setCluster k).cluster cl = k := by
  subst h
  exact s.cluster_setCluster k

/-- The cluster without a request (R207). -/
def Cluster.without (k : Cluster) (id : Nat) : Cluster :=
  { k with queue := k.queue.filter (fun x => x.id != id), deferred := k.deferred.filter (fun x => x.id != id),
           retest := k.retest.filter (fun n => n != id) }

theorem filter_ids_ne {l : List ReeveReq} {id : Nat} (h : ∀ x ∈ l, x.id ≠ id) :
    l.filter (fun x => x.id != id) = l :=
  List.filter_eq_self.2 fun x hx => bne_iff_ne.2 (h x hx)

/-- The oldest queued request leaves nothing but the queue. -/
theorem Cluster.without_queued {t : List ReeveReq} (hretest : k.retest = []) (hqueue : k.queue = r :: t)
    (hids : ∀ x ∈ t ++ k.deferred, x.id ≠ r.id) : k.without r.id = { k with queue := t } := by
  have ht : t.filter (fun x => x.id != r.id) = t :=
    filter_ids_ne fun x hx => hids x (List.mem_append_left _ hx)
  have hd : k.deferred.filter (fun x => x.id != r.id) = k.deferred :=
    filter_ids_ne fun x hx => hids x (List.mem_append_right _ hx)
  simp [Cluster.without, hretest, hqueue, ht, hd]

/-- A deferred request that is due leaves the queue as it is. -/
theorem Cluster.without_due {t : List Nat} (hretest : k.retest = r.id :: t) (hids : ∀ x ∈ k.queue, x.id ≠ r.id) :
    k.without r.id = { k with deferred := k.deferred.filter (fun x => x.id != r.id),
                              retest := t.filter fun m => m != r.id } := by
  simp [Cluster.without, hretest, filter_ids_ne hids]

/-- The block whose request is tested: an ACQ counts as performed from then on (R213). -/
def Block.tested (b : Block) (r : ReeveReq) : Block := if r.raise then b else b.markAcq r.ty

@[simp] theorem Block.tested_id (b : Block) (r : ReeveReq) : (b.tested r).id = b.id := by
  unfold Block.tested; split <;> rfl

theorem Block.granted_tested (b : Block) (r : ReeveReq) : (b.tested r).granted r =
    if r.raise then { b with claim := b.claim.set r.ty r.amt }
    else { b.tested r with pend := b.pend.set r.ty (b.pend.get r.ty + r.amt) } := by
  unfold Block.tested Block.granted
  split <;> rfl

@[simp] theorem Block.granted_id (b : Block) (r : ReeveReq) : (b.granted r).id = b.id := by
  unfold Block.granted; split <;> rfl

/-! ### What a decision leaves -/

theorem reeveApply_grant (hg : s.group? r.path.grp = some g) (hd : s.decide cl r (b.tested r) = .grant) :
    s.reeveApply cl r b = .next (((s.setBlock ((b.tested r).granted r)).setCluster
      (((s.cluster cl).without r.id).passed r.id r.ty)).setGroup
        (g.reeveAnswer r.id ⟨true, r.ty, r.amt, r.raise, r.lanes⟩)) := by
  have hg' : ((s.setBlock ((b.tested r).granted r)).setCluster
      (((s.cluster cl).without r.id).passed r.id r.ty)).group? r.path.grp = some g := hg
  rw [Block.tested] at hd hg' ⊢
  rw [Cluster.without] at hg' ⊢
  simp only [State.reeveApply, hd, hg']

theorem reeveApply_defer (htry : r.try' = false) (hd : s.decide cl r (b.tested r) = .defer) :
    s.reeveApply cl r b = .next ((s.setBlock (b.tested r)).setCluster { (s.cluster cl).without r.id with
      deferred := if (s.cluster cl).deferred.any (fun x => x.id == r.id) then (s.cluster cl).deferred
        else ((s.cluster cl).without r.id).deferred ++ [r] }) := by
  rw [Block.tested] at hd ⊢
  simp only [State.reeveApply, hd, htry, Bool.false_eq_true, if_false, Cluster.without]

theorem reeveApply_deferTry (hg : s.group? r.path.grp = some g) (htry : r.try' = true)
    (hd : s.decide cl r (b.tested r) = .defer) :
    s.reeveApply cl r b = .next (((s.setBlock (b.tested r)).setCluster ((s.cluster cl).without r.id)).setGroup
      (g.reeveAnswer r.id ⟨false, r.ty, r.amt, r.raise, r.lanes⟩)) := by
  have hg' : ((s.setBlock (b.tested r)).setCluster ((s.cluster cl).without r.id)).group? r.path.grp = some g := hg
  rw [Block.tested] at hd hg' ⊢
  rw [Cluster.without] at hg' ⊢
  simp only [State.reeveApply, hd, htry, if_true, hg']

theorem reeveApply_trap {slot : Bool} {q : Path} (hg : s.group? r.path.grp = some g)
    (hasker : g.asker r.id = some (slot, q)) (hd : s.decide cl r (b.tested r) = .trap) :
    s.reeveApply cl r b =
      (s.setCluster ((s.cluster cl).without r.id)).freeze g slot q.pc q.hdr 0x30 r.lanes 0 0 := by
  rw [Block.tested] at hd
  rw [Cluster.without]
  simp only [State.reeveApply, hd, hg, hasker]

/-- A grant makes what the block counts for grow, or its claim, and answers the path. -/
theorem reeveApply_grant_leaves (hb : s.block? r.blk = some b) (hg : s.group? r.path.grp = some g)
    (hd : s.decide cl r (b.tested r) = .grant) : ∃ u, s.reeveApply cl r b = .next u ∧
      u.block? b.id = some ((b.tested r).granted r) ∧
      u.group? g.id = some (g.reeveAnswer r.id ⟨true, r.ty, r.amt, r.raise, r.lanes⟩) ∧
      u.cluster cl = ((s.cluster cl).without r.id).passed r.id r.ty := by
  have hblk : s.block? ((b.tested r).granted r).id = some b := by
    rw [Block.granted_id, Block.tested_id, State.block?_id hb, hb]
  have hgrp : s.group? (g.reeveAnswer r.id ⟨true, r.ty, r.amt, r.raise, r.lanes⟩).id = some g :=
    (congrArg s.group? (State.group?_id hg)).trans hg
  refine ⟨_, reeveApply_grant hg hd, ?_, ?_, ?_⟩
  · have hput := State.block?_setBlock hblk
    rwa [Block.granted_id, Block.tested_id] at hput
  · exact State.group?_setGroup (s := (s.setBlock _).setCluster _) hgrp
  · exact State.cluster_setCluster_of (s.setBlock _) (s.cluster_id cl)

/-- An ACQ.try that would be deferred is answered with 0 and enters no list. -/
theorem reeveApply_deferTry_leaves (hg : s.group? r.path.grp = some g) (htry : r.try' = true)
    (hd : s.decide cl r (b.tested r) = .defer) : ∃ u, s.reeveApply cl r b = .next u ∧
      u.group? g.id = some (g.reeveAnswer r.id ⟨false, r.ty, r.amt, r.raise, r.lanes⟩) ∧
      u.cluster cl = (s.cluster cl).without r.id := by
  have hgrp : s.group? (g.reeveAnswer r.id ⟨false, r.ty, r.amt, r.raise, r.lanes⟩).id = some g :=
    (congrArg s.group? (State.group?_id hg)).trans hg
  exact ⟨_, reeveApply_deferTry hg htry hd, State.group?_setGroup (s := (s.setBlock _).setCluster _) hgrp,
    State.cluster_setCluster_of (s.setBlock _) (s.cluster_id cl)⟩

theorem trapAddr_eq (cause : BitVec 8) (addr : DWord) :
    trapAddr cause addr = if 0x10 ≤ cause ∧ cause ≤ 0x22 then addr else 0 := by
  simp only [trapAddr, Bool.and_eq_true, decide_eq_true_eq]

/-- A fatal fault leaves its group frozen (R98, R157). -/
theorem freeze_leaves_frozenBy {g₀ : Group} {gr : Grid} (hg : s.group? g.id = some g₀)
    (hb : s.block? g.blk = some b) (hgr : s.grid? b.grid = some gr) (slot : Bool) (pc hdr : Va)
    (cause : BitVec 8) (lanes code : Word) (addr : DWord) :
    ∃ u, s.freeze g slot pc hdr cause lanes code addr = .next u ∧
      u.group? g.id = some (g.frozenBy slot pc hdr cause lanes code addr) := by
  rw [State.freeze, withBlock_of hb hgr]
  refine ⟨_, rfl, ?_⟩
  rw [State.group?, State.raiseHalt_groups, State.setVdev_groups, State.withdraw_groups, trapAddr_eq]
  exact State.group?_setGroup (g := g.frozenBy slot pc hdr cause lanes code addr) hg

/-- An amount beyond the claim freezes the asking group with cause 0x30 (R204, R217). -/
theorem reeveApply_trap_leaves {slot : Bool} {q : Path} {gr : Grid} (hg : s.group? r.path.grp = some g)
    (hasker : g.asker r.id = some (slot, q)) (hb : s.block? g.blk = some b') (hgr : s.grid? b'.grid = some gr)
    (hd : s.decide cl r (b.tested r) = .trap) : ∃ u, s.reeveApply cl r b = .next u ∧
      u.group? g.id = some (g.frozenBy slot q.pc q.hdr 0x30 r.lanes 0 0) := by
  have hgid : s.group? g.id = some g := by rw [State.group?_id hg, hg]
  rw [reeveApply_trap hg hasker hd]
  exact freeze_leaves_frozenBy (s := s.setCluster _) hgid hb hgr _ _ _ _ _ _ _

/-! ### Which request is tested -/

theorem exec_reeveTest_freezeDue (h : (s.cluster cl).freezeDue = true) : exec (.reeveTest cl) s = .next s := by
  change execReeveTest cl s = _
  rw [execReeveTest, if_pos h]

/-- The oldest queued request, when no deferred one is due (R207). -/
theorem exec_reeveTest_queued {t : List ReeveReq} (h : (s.cluster cl).freezeDue = false)
    (hretest : (s.cluster cl).retest = []) (hqueue : (s.cluster cl).queue = r :: t)
    (hb : s.block? r.blk = some b) : exec (.reeveTest cl) s = s.reeveApply cl r b := by
  change execReeveTest cl s = _
  simp [execReeveTest, h, hretest, hqueue, hb]

/-- The oldest deferred request that is due, first (R207). -/
theorem exec_reeveTest_due {n : Nat} {t : List Nat} (h : (s.cluster cl).freezeDue = false)
    (hretest : (s.cluster cl).retest = n :: t)
    (hfind : (s.cluster cl).deferred.find? (fun x => x.id == n) = some r)
    (hb : s.block? r.blk = some b) (hdbg : b.dbg = false) : exec (.reeveTest cl) s = s.reeveApply cl r b := by
  have hkeeps : s.keepsDeferred b r = false := by rw [State.keepsDeferred, hdbg, Bool.false_and]
  change execReeveTest cl s = _
  simp [execReeveTest, h, hretest, hfind, hb, hkeeps]

/-- One that is due and deferred no more is passed by. -/
theorem exec_reeveTest_gone {n : Nat} {t : List Nat} (h : (s.cluster cl).freezeDue = false)
    (hretest : (s.cluster cl).retest = n :: t)
    (hfind : (s.cluster cl).deferred.find? (fun x => x.id == n) = none) :
    exec (.reeveTest cl) s = .next (s.setCluster { s.cluster cl with retest := t }) := by
  change execReeveTest cl s = _
  simp [execReeveTest, h, hretest, hfind]

/-- A request passed over 64 times freezes its type (R209). -/
theorem exec_reeveFreeze_freezes {x : ReeveReq} (hx : x ∈ (s.cluster cl).deferred) (hpassed : 64 ≤ x.passed) :
    ∃ u, exec (.reeveFreeze cl x.id) s = .next u ∧ { x with frozen := true } ∈ (u.cluster cl).deferred ∧
      (u.cluster cl).queue = (s.cluster cl).queue := by
  refine ⟨_, rfl, ?_⟩
  rw [State.cluster_setCluster_of s (by exact s.cluster_id cl)]
  exact ⟨List.mem_map.2 ⟨x, hx, by simp [hpassed]⟩, rfl⟩

/-! ### The freeze rule -/

theorem Cluster.mem_frozenTypes {id : Nat} {ty : RType} : ty ∈ k.frozenTypes id ↔
    ∃ y ∈ k.deferred, y.frozen = true ∧ y.id ≠ id ∧ y.ty = ty := by
  simp only [Cluster.frozenTypes, List.mem_map, List.mem_filter, Bool.and_eq_true, bne_iff_ne, and_assoc]

section
variable {hs : List Holding} {x need : ResVec}
  (hb' : b' = (if r.raise then { b with claim := b.claim.set r.ty r.amt } else b))
  (hhs : hs = (s.residents cl).map fun y => if y.id == b.id then b'.holding else y.holding)
  (hx : x = typeVec r.ty (if r.raise then 0 else r.amt) b.core) (hneed : need = b'.holding.need)
include hb' hhs hx hneed

/-- Under another request's freeze of its type a request is tested only when its block's whole need fits (R209). -/
theorem decide_eq : s.decide cl r b =
    if r.ty ∈ (s.cluster cl).frozenTypes r.id ∧
        ¬(need.le (s.availOf cl hs) = true ∧ need.le (s.davailOf cl hs b) = true) then .defer
    else s.safeTest cl hs b' x := by
  subst hb' hhs hx hneed
  rw [apply_ite (fun n => typeVec r.ty n b.core)]
  simp only [State.decide, Bool.and_eq_true, List.contains_iff_mem, Bool.not_eq_true', ← Bool.not_eq_true]

theorem decide_frozen (hfrozen : ∃ y ∈ (s.cluster cl).deferred, y.frozen = true ∧ y.id ≠ r.id ∧ y.ty = r.ty)
    (hbig : need.le (s.availOf cl hs) = false ∨ need.le (s.davailOf cl hs b) = false) :
    s.decide cl r b = .defer := by
  have hnofit : ¬(need.le (s.availOf cl hs) = true ∧ need.le (s.davailOf cl hs b) = true) := by
    rintro ⟨havail, hdavail⟩
    simp [havail, hdavail] at hbig
  rw [decide_eq hb' hhs hx hneed, if_pos ⟨Cluster.mem_frozenTypes.2 hfrozen, hnofit⟩]

theorem decide_tests (h : (∀ y ∈ (s.cluster cl).deferred, y.frozen = true → y.id ≠ r.id → y.ty ≠ r.ty) ∨
      (need.le (s.availOf cl hs) = true ∧ need.le (s.davailOf cl hs b) = true)) :
    s.decide cl r b = s.safeTest cl hs b' x := by
  rw [decide_eq hb' hhs hx hneed, if_neg]
  rintro ⟨hmem, hnofit⟩
  obtain ⟨y, hy, hyfrozen, hyid, hyty⟩ := Cluster.mem_frozenTypes.1 hmem
  exact h.elim (fun hnone => hnone y hy hyfrozen hyid hyty) hnofit

end

/-! ### The safe-state test -/

section
variable {hs hs' : List Holding} {x : ResVec} {h h' : Holding}
  (hfind : hs.find? (fun y => y.b.id == b.id) = some h) (hh' : h' = { h with alloc := h.alloc.add x })
  (hhs' : hs' = replaceFirst (fun y => y.b.id == b.id) (fun _ => h') hs)
include hfind hh' hhs'

/-- The steps of R204 in their order. -/
theorem safeTest_eq : s.safeTest cl hs b x =
    if (h.alloc.add x).le h.claim = false then .trap
    else if ¬(x.le (s.availOf cl hs) = true ∧ x.le (s.davailOf cl hs b) = true) then .defer
    else if h'.need.le (s.availOf cl hs') = true ∧ h'.need.le (s.davailOf cl hs' b) = true then .grant
    else if (s.finishers cl hs' (hs'.length + 1) []).length = hs'.length then .grant
    else .defer := by
  subst hh' hhs'
  simp only [State.safeTest, hfind, Bool.not_eq_true', Bool.and_eq_true, ← Bool.not_eq_true]

theorem safeTest_trap_iff : s.safeTest cl hs b x = .trap ↔ (h.alloc.add x).le h.claim = false := by
  rw [safeTest_eq hfind hh' hhs']
  split
  · next htrap => exact iff_of_true rfl htrap
  · next hle =>
    refine iff_of_false ?_ hle
    split
    · nofun
    · split
      · nofun
      · split <;> nofun

theorem safeTest_grant_iff : s.safeTest cl hs b x = .grant ↔ (h.alloc.add x).le h.claim = true ∧
    x.le (s.availOf cl hs) = true ∧ x.le (s.davailOf cl hs b) = true ∧
      ((h'.need.le (s.availOf cl hs') = true ∧ h'.need.le (s.davailOf cl hs' b) = true) ∨
        (s.finishers cl hs' (hs'.length + 1) []).length = hs'.length) := by
  rw [safeTest_eq hfind hh' hhs']
  split
  · next htrap => exact iff_of_false nofun fun ⟨hle, _⟩ => Bool.false_ne_true (htrap.symm.trans hle)
  · next hle =>
    split
    · next hshort => exact iff_of_false nofun fun ⟨_, havail, hdavail, _⟩ => hshort ⟨havail, hdavail⟩
    · next hfits =>
      obtain ⟨havail, hdavail⟩ := Decidable.not_not.1 hfits
      have hclaim : (h.alloc.add x).le h.claim = true := eq_true_of_ne_false hle
      split
      · next hfirst => exact iff_of_true rfl ⟨hclaim, havail, hdavail, .inl hfirst⟩
      · next hnotFirst =>
        split
        · next hall => exact iff_of_true rfl ⟨hclaim, havail, hdavail, .inr hall⟩
        · next hnotAll => exact iff_of_false nofun fun ⟨_, _, _, hsafe⟩ => hsafe.elim hnotFirst hnotAll

end

/-! ### The statement -/

/-- Settles O43: a test takes one request, applies the decision on it, and the decision is that of the freeze rule and
the steps of R204. -/
theorem reeveTests : Obligations.ReeveTests := by
  refine ⟨fun s cl k hk hcl => ?_, fun s cl hs hs' b x h h' hfind hh' hhs' =>
    ⟨safeTest_trap_iff hfind hh' hhs', safeTest_grant_iff hfind hh' hhs'⟩⟩
  subst hk
  refine ⟨exec_reeveTest_freezeDue, fun x => exec_reeveFreeze_freezes,
    fun r t b b' g hdue hretest hqueue hb hg hids hb' => ?_,
    fun n t hdue hretest => ⟨exec_reeveTest_gone hdue hretest,
      fun r b b' g hfind hb hdbg hg hids htry hb' => ?_⟩,
    fun r b b' hs x need hb' hhs hx hneed =>
      ⟨decide_frozen hb' hhs hx hneed, decide_tests hb' hhs hx hneed⟩⟩
  · obtain rfl : b' = b.tested r := hb'
    have hout := Cluster.without_queued hretest hqueue hids
    rw [exec_reeveTest_queued hdue hretest hqueue hb, ← Block.granted_tested]
    refine ⟨fun hd => ?_, fun hd htry => ?_, fun hd htry => ?_, fun slot q gr hd hasker hblk hgr => ?_⟩
    · obtain ⟨u, hu, hblock, hgroup, hcluster⟩ := reeveApply_grant_leaves hb hg hd
      exact ⟨u, hu, hblock, hgroup, by rw [hcluster, hout]; rfl, by rw [hcluster, hout]; rfl⟩
    · have hnew : (s.cluster cl).deferred.any (fun x => x.id == r.id) = false :=
        List.any_eq_false.2 fun x hx => by simpa using hids x (List.mem_append_right _ hx)
      rw [reeveApply_defer htry hd, hout, hnew]
      rfl
    · obtain ⟨u, hu, hgroup, hcluster⟩ := reeveApply_deferTry_leaves hg htry hd
      exact ⟨u, hu, hgroup, by rw [hcluster, hout], by rw [hcluster, hout]⟩
    · have hown : s.block? g.blk = some b := by rw [hblk, State.block?_id hb, hb]
      exact reeveApply_trap_leaves hg hasker hown hgr hd
  · obtain rfl : b' = b.tested r := hb'
    obtain rfl : r.id = n := by simpa using List.find?_some hfind
    have hout := Cluster.without_due hretest hids
    rw [exec_reeveTest_due hdue hretest hfind hb hdbg, ← Block.granted_tested]
    refine ⟨fun hd => ?_, fun hd => ?_⟩
    · obtain ⟨u, hu, hblock, hgroup, hcluster⟩ := reeveApply_grant_leaves hb hg hd
      exact ⟨u, hu, hblock, hgroup, by rw [hcluster, hout]; rfl, by rw [hcluster, hout]; rfl,
        by rw [hcluster, hout]; rfl⟩
    · have hold : (s.cluster cl).deferred.any (fun x => x.id == r.id) = true :=
        List.any_eq_true.2 ⟨r, List.mem_of_find?_eq_some hfind, beq_self_eq_true _⟩
      rw [reeveApply_defer htry hd, hout, hold]
      rfl

end Sys2Proof.Machine
end
